-- ==== Sys2Proof/Word.lean ====
section
/-! DEFINITION. The plain types every file uses: words, bytes, rows, granules, byte memories, keyed tables. -/

namespace Sys2Proof

/-- A 64-bit scalar (R82). -/
abbrev Word := BitVec 64

/-- A byte of any memory (R7). -/
abbrev Byte := BitVec 8

/-- A row of 512 bytes (R118); byte 0 is the least significant (R7). -/
abbrev Row := BitVec 4096

/-- A granule of 64 bytes (R195); byte 0 is the least significant. -/
abbrev Granule := BitVec 512

/-- A dictionary template (R76). -/
abbrev Template := BitVec 128

/-- A table with numbered entries: pairs of a number and its entry, each number at most once, rising. -/
abbrev FMap (α : Type) := List (Nat × α)

/-- A byte memory: its listed bytes, addresses strictly rising, none equal to what an unlisted address reads as. -/
abbrev Memory := List Host.Cell

/-- A scalar as the row a vector-form field reads of it: the value in bytes 0 to 7, zero above (R59). -/
def rowOfWord (w : Word) : Row := w.setWidth 4096

/-- Bytes 0 to 7 of a row, as a scalar-form field reads it (R59). -/
def wordOfRow (r : Row) : Word := r.setWidth 64

end Sys2Proof
end

