-- ==== Sys2Proof/Syntax.lean ====
section
/-! DEFINITION. The instructions: one constructor per row of spec/opcode_table.json, their operand forms (R56 to R61, R78), and the arguments of the events that engines, the host, Lovage and the rack bring about. -/

namespace Sys2Proof

/-- Element formats, with the 4-bit codes of R15. -/
inductive Fmt where
  | fp32 | bf16 | fp16 | e4m3 | e5m2 | e2m1 | e3m0 | int4 | int8 | uint8 | int16 | int32 | int64 | e8m0 | cnt | fld
deriving DecidableEq, Repr, Inhabited

/-- Rounding modes (R23). -/
inductive Rm where
  | rne | rtz | rup | rdn | rto
deriving DecidableEq, Repr, Inhabited

/-- Scale modes of a matrix command (R80, SCM): no scales, 32-element blocks, 16-element blocks. -/
inductive Scm where
  | none | b32 | b16
deriving DecidableEq, Repr, Inhabited

/-- A scalar-form operand field (R56, R58). -/
inductive SOp where
  | reg (i : BitVec 5)      -- s[i]
  | based (i : BitVec 5)    -- s[(sb + i) mod 32]
  | file (i : BitVec 3)     -- so[i]
  | latch (k : BitVec 3)    -- lt[k]
  | queue (q : BitVec 2)    -- q[q]
  | imm (v : BitVec 3)      -- -4 to +3
deriving DecidableEq, Repr, Inhabited

/-- A vector-form operand field (R57, R58). -/
inductive VOp where
  | row (g : BitVec 3) (o : BitVec 2) (inc : Bool)  -- row (cg + o) mod 32 of tg
  | file (i : BitVec 3)                             -- vo[i]
  | latch (k : BitVec 3)
  | queue (q : BitVec 2)
  | imm (v : BitVec 3)
deriving DecidableEq, Repr, Inhabited

/-- A descriptor field (R75): the first of consecutive scalars, level 00 or 01. -/
inductive DOp where
  | reg (i : BitVec 5)
  | based (i : BitVec 5)
deriving DecidableEq, Repr, Inhabited

/-- A scalar destination (R61, R78). -/
inductive SDst where
  | reg (i : BitVec 5)
  | based (i : BitVec 5)
  | file (i : BitVec 3)
deriving DecidableEq, Repr, Inhabited

/-- A vector destination (R61, R78). A native slot has offsets 0 and 1 only. -/
inductive VDst where
  | row (g : BitVec 3) (o : BitVec 2) (inc : Bool)
  | file (i : BitVec 3)
deriving DecidableEq, Repr, Inhabited

/-- A native vector destination field of form vd or vr (R61): register, 1-bit offset, post-increment. -/
structure VDn where
  g : BitVec 3
  o : BitVec 1
  inc : Bool
deriving DecidableEq, Repr, Inhabited

/-- The formats native FCVT names (R75). -/
inductive NFmt where
  | fp32 | bf16 | fp16 | int32 | int64
deriving DecidableEq, Repr, Inhabited

/-- The conditions of FCMP and FCMP.W (R91). -/
inductive Cond where
  | eq | lt | le | un | ne
deriving DecidableEq, Repr, Inhabited

/-- What CSAVE and CLOAD move (R75, R167). -/
inductive Img where
  | cb0 | cb1 | fold
deriving DecidableEq, Repr, Inhabited

/-- The scopes of FENCE and of accesses (R272, R275). -/
inductive Scope where
  | tile | cluster | die | module | system
deriving DecidableEq, Repr, Inhabited

/-- Access sizes (R80, R208). -/
inductive Size where
  | b | h | w | d
deriving DecidableEq, Repr, Inhabited

/-- Combining operations of reduces and accumulates (R218, R243). -/
inductive Comb where
  | sum | min | max | repl
deriving DecidableEq, Repr, Inhabited

/-- Static fields of MMA.W (R80, R152). M and N: 0 is 128. -/
structure MmaF where
  fa : Fmt
  fb : Fmt
  k : BitVec 10
  m : BitVec 7
  n : BitVec 7
  acc : Bool
  scm : Scm
deriving DecidableEq, Repr, Inhabited

/-- Static fields of MMC.W (R80, R159). M and N: 0 is 128. -/
structure MmcF where
  fa : Fmt
  rm : Rm
  bank : Bool
  k : BitVec 7
  scm : Scm
  fold : Bool
  ebase : BitVec 9
  drn : Bool
  acc : Bool
  m : BitVec 7
  n : BitVec 7
deriving DecidableEq, Repr, Inhabited

/-- A conversion of a copy (R218): source format, destination format, mode. -/
structure Conv where
  fa : Fmt
  fd : Fmt
  rm : Rm
deriving DecidableEq, Repr, Inhabited

/-- Static fields of CPYR.W (R218). -/
structure CpyrF where
  ly : BitVec 3
  conv : Bool
  op : Comb
  fa : Fmt
  fd : Fmt
  rm : Rm
deriving DecidableEq, Repr, Inhabited

/-- An agent that issues bundles: a tile (physical tile id within the module) or a die sequencer context
(die x 8 + context). -/
inductive Agent where
  | tile (t : BitVec 11)
  | seq (q : BitVec 6)
deriving DecidableEq, Repr, Inhabited

/-- What a collective packet carries (R361, R362, R365, R366): a partial sum, a part of the final result, an abort
notice, a GEN_REFUSED response. -/
inductive CtKind where
  | partial_ (chunk : Nat) (bytes : List Byte)
  | final (chunk : Nat) (bytes : List Byte)
  | abort
  | genRefused
deriving DecidableEq, Repr, Inhabited

/-- A collective packet between entries (R358, R365): sender and receiver as a physical tile id and a global entry. `inst` is
the operation of the instance of this module that sent it, by which a response finds an instance that still runs (R366);
none for a GEN_REFUSED response and for a packet of another module. -/
structure CtMsg where
  src : BitVec 15
  srcEntry : BitVec 9
  dst : BitVec 15
  dstEntry : BitVec 9
  gen : BitVec 16
  kind : CtKind
  inst : Option Nat
deriving DecidableEq, Repr, Inhabited

/-- Where an arriving collective packet comes from: the k-th one in flight in the module, or the rack. -/
inductive CtSource where
  | inFlight (k : Nat)
  | rack (m : CtMsg)
deriving DecidableEq, Repr, Inhabited

/-- Host-visible registers with no row of their own (R376, R382, R383): a VF BAR0 offset, a PF block offset, NumVFs
and VF Enable of the SR-IOV capability. -/
inductive HostReg where
  | vf (v : BitVec 6) (off : BitVec 16)
  | pf (v : BitVec 6) (off : BitVec 9)
  | numVfs
  | vfEnable
deriving DecidableEq, Repr, Inhabited

/-- What a scrub or an error meets (R392): a 64-bit word, by its place. -/
inductive Place where
  | hbm (word : Nat)                    -- HBM physical address / 8
  | scratch (t : BitVec 11) (word : Nat) -- linear offset / 8
  | acc (t : BitVec 11) (word : Nat)     -- accumulator store, row * 64 + word of the row
  | tfile (t : BitVec 11) (word : Nat)   -- tile file, row * 64 + word of the row
  | dict (t : BitVec 11) (word : Nat)    -- dictionary, (bank * 2048 + entry) * 2 + half
deriving DecidableEq, Repr, Inhabited

/-- A repair (R394): a row of HBM repaired in place, or a spare cluster of a die swapped in. -/
inductive RepairOf where
  | row (r : Nat)
  | cluster (c : BitVec 9)
deriving DecidableEq, Repr, Inhabited

/-- What brings a link back (R395, R354): a direction retrained with its spares, or an isolated port with beats again. -/
inductive Retrain where
  | lanes (link : BitVec 2) (tx : Bool)
  | port (pos : BitVec 4)
deriving DecidableEq, Repr, Inhabited

/-- What the module is when it has come up (R396): its strap position, the modules of its ring, and the good lanes of
each link direction (link 0 transmit, link 0 receive, link 1 transmit, ...); whether the check of the firmware succeeded;
how many spare clusters of each die the cluster test has put to use; and whether the module comes back to a ring it fell
silent in. -/
structure BringUp where
  pos : BitVec 4
  member : BitVec 16
  lanes : List (BitVec 7)
  verified : Bool
  spareUsed : List Nat
  returning : Bool
deriving DecidableEq, Repr, Inhabited

/-- A write to a debug block over the management link: its value, and whether the signed configuration of the tile's
partition grants the requesting operator access (R391). -/
structure DebugWrite where
  value : Word
  granted : Bool
deriving DecidableEq, Repr, Inhabited

/-- The instructions: one constructor per row of spec/opcode_table.json, in its order.
Native slots carry N (`n`), their destination and operand fields; wide opcodes their template fields; events what
they act on. -/
inductive Instr where
  -- scalar integer (U = 000)
  | add (n : Bool) (d : BitVec 5) (a b : SOp)
  | sub (n : Bool) (d : BitVec 5) (a b : SOp)
  | addi (n : Bool) (d : BitVec 5) (a : SOp) (i : BitVec 7)
  | lui (n : Bool) (d : BitVec 5) (i : BitVec 14)
  | mul (n : Bool) (d : BitVec 5) (a b : SOp)
  | mulh (n : Bool) (d : BitVec 5) (a b : SOp)
  | div (n : Bool) (d : BitVec 5) (a b : SOp)
  | divu (n : Bool) (d : BitVec 5) (a b : SOp)
  | rem (n : Bool) (d : BitVec 5) (a b : SOp)
  | and (n : Bool) (d : BitVec 5) (a b : SOp)
  | or (n : Bool) (d : BitVec 5) (a b : SOp)
  | xor (n : Bool) (d : BitVec 5) (a b : SOp)
  | shl (n : Bool) (d : BitVec 5) (a b : SOp)
  | shr (n : Bool) (d : BitVec 5) (a b : SOp)
  | sra (n : Bool) (d : BitVec 5) (a b : SOp)
  | min (n : Bool) (d : BitVec 5) (a b : SOp)
  | max (n : Bool) (d : BitVec 5) (a b : SOp)
  | slt (n : Bool) (d : BitVec 5) (a b : SOp)
  | sltu (n : Bool) (d : BitVec 5) (a b : SOp)
  | seq (n : Bool) (d : BitVec 5) (a b : SOp)
  | clz (n : Bool) (d : BitVec 5) (a : SOp)
  | popc (n : Bool) (d : BitVec 5) (a : SOp)
  | movsb (a : SOp)
  | movc (c : BitVec 3) (a : SOp)
  | movo (n : Bool) (d : BitVec 3) (a : SOp)
  | sel (p : BitVec 3) (n : Bool) (d : BitVec 5) (a b : SOp)
  -- scalar float and predicate (U = 001)
  | fadd (m : Rm) (n : Bool) (d : BitVec 5) (a b : SOp)
  | fsub (m : Rm) (n : Bool) (d : BitVec 5) (a b : SOp)
  | fmul (m : Rm) (n : Bool) (d : BitVec 5) (a b : SOp)
  | ffma (m : Rm) (n : Bool) (d : BitVec 5) (a b : SOp)
  | fcvt (m : Rm) (n : Bool) (d : BitVec 5) (a : SOp) (t f : NFmt)
  | fmin (n : Bool) (d : BitVec 5) (a b : SOp)
  | fmax (n : Bool) (d : BitVec 5) (a b : SOp)
  | fcmpEq (n : Bool) (p : BitVec 3) (a b : SOp)
  | fcmpLt (n : Bool) (p : BitVec 3) (a b : SOp)
  | fcmpLe (n : Bool) (p : BitVec 3) (a b : SOp)
  | fcmpUn (n : Bool) (p : BitVec 3) (a b : SOp)
  | pset (n : Bool) (p : BitVec 3) (a : SOp)
  | pand (n : Bool) (p a b : BitVec 3)
  | por (n : Bool) (p a b : BitVec 3)
  | pnot (n : Bool) (p a : BitVec 3)
  -- vector row (U = 010)
  | vadd (n : Bool) (d : VDn) (a b : VOp)
  | vsub (n : Bool) (d : VDn) (a b : VOp)
  | vmul (n : Bool) (d : VDn) (a b : VOp)
  | vfma (n : Bool) (d : VDn) (a b : VOp)
  | vmax (n : Bool) (d : VDn) (a b : VOp)
  | vmin (n : Bool) (d : VDn) (a b : VOp)
  | vabs (n : Bool) (d : VDn) (a : VOp)
  | vneg (n : Bool) (d : VDn) (a : VOp)
  | vexp2 (n : Bool) (d : VDn) (a : VOp)
  | vlog2 (n : Bool) (d : VDn) (a : VOp)
  | vrcp (n : Bool) (d : VDn) (a : VOp)
  | vrsq (n : Bool) (d : VDn) (a : VOp)
  | vcmpEq (n : Bool) (d : VDn) (a b : VOp)
  | vcmpLt (n : Bool) (d : VDn) (a b : VOp)
  | vcmpLe (n : Bool) (d : VDn) (a b : VOp)
  | vsel (n : Bool) (d : VDn) (a b : VOp)
  | vand (n : Bool) (d : VDn) (a b : VOp)
  | vor (n : Bool) (d : VDn) (a b : VOp)
  | vxor (n : Bool) (d : VDn) (a b : VOp)
  | vshl (n : Bool) (d : VDn) (a b : VOp)
  | vshr (n : Bool) (d : VDn) (a b : VOp)
  | vrsum (n : Bool) (d : VDn) (a : VOp)
  | vrmax (n : Bool) (d : VDn) (a : VOp)
  | vbcast (n : Bool) (d : VDn) (a : SOp)
  | vperm (n : Bool) (d : VDn) (a b : VOp)
  | vmovo (n : Bool) (d : BitVec 3) (a : VOp)
  | vld (n : Bool) (d : VDn) (a : SOp) (i : BitVec 7)
  | vst (d : VDn) (a : SOp) (i : BitVec 7)
  | vlds (n : Bool) (d : VDn) (a b : SOp)
  | vsts (d : VDn) (a b : SOp)
  | vmova (n : Bool) (d : VDn) (a b : SOp)
  | vmovt (d : VDn) (a b : SOp)
  | cselk (n : Bool) (d : VDn) (a : VOp) (b : SOp)
  -- matrix and counter (U = 011)
  | mlease
  | mrel
  | mmaBf16 (d : BitVec 4) (a b : VOp)
  | mmaFp16 (d : BitVec 4) (a b : VOp)
  | mmaE4m3 (d : BitVec 4) (a b : VOp)
  | mmaE5m2 (d : BitVec 4) (a b : VOp)
  | mmcE2m1Cb0 (d : BitVec 4) (a b : VOp)
  | mmcE2m1Cb1 (d : BitVec 4) (a b : VOp)
  | mmcE3m0Cb0 (d : BitVec 4) (a b : VOp)
  | mmcE3m0Cb1 (d : BitVec 4) (a b : VOp)
  | mmcInt4Cb0 (d : BitVec 4) (a b : VOp)
  | mmcInt4Cb1 (d : BitVec 4) (a b : VOp)
  | cfoldCb0 (a : SOp)
  | cfoldCb1 (a : SOp)
  | cmergeCb0
  | cmergeCb1
  | cclr
  | aclr (d : BitVec 4)
  | cdrain (m : Rm) (d : BitVec 4)
  | cdrainAdd (m : Rm) (d : BitVec 4)
  | csave (w : Img) (a : SOp)
  | cload (w : Img) (a : SOp)
  -- memory (U = 100)
  | ldB (n : Bool) (d : BitVec 5) (a : SOp) (i : BitVec 7)
  | ldBu (n : Bool) (d : BitVec 5) (a : SOp) (i : BitVec 7)
  | ldH (n : Bool) (d : BitVec 5) (a : SOp) (i : BitVec 7)
  | ldHu (n : Bool) (d : BitVec 5) (a : SOp) (i : BitVec 7)
  | ldW (n : Bool) (d : BitVec 5) (a : SOp) (i : BitVec 7)
  | ldWu (n : Bool) (d : BitVec 5) (a : SOp) (i : BitVec 7)
  | ldD (n : Bool) (d : BitVec 5) (a : SOp) (i : BitVec 7)
  | stB (d : BitVec 5) (a : SOp) (i : BitVec 7)
  | stH (d : BitVec 5) (a : SOp) (i : BitVec 7)
  | stW (d : BitVec 5) (a : SOp) (i : BitVec 7)
  | stD (d : BitVec 5) (a : SOp) (i : BitVec 7)
  | aaddW (n : Bool) (d : BitVec 5) (a b : SOp)
  | aaddD (n : Bool) (d : BitVec 5) (a b : SOp)
  | aminW (n : Bool) (d : BitVec 5) (a b : SOp)
  | aminD (n : Bool) (d : BitVec 5) (a b : SOp)
  | amaxW (n : Bool) (d : BitVec 5) (a b : SOp)
  | amaxD (n : Bool) (d : BitVec 5) (a b : SOp)
  | axchgW (n : Bool) (d : BitVec 5) (a b : SOp)
  | axchgD (n : Bool) (d : BitVec 5) (a b : SOp)
  | acasW (n : Bool) (d : BitVec 5) (a b : SOp)
  | acasD (n : Bool) (d : BitVec 5) (a b : SOp)
  | afaddW (n : Bool) (d : BitVec 5) (a b : SOp)
  | fence (c : Scope) (k : BitVec 4)
  | vjoin
  -- transfer (U = 101)
  | cpy (d : BitVec 5) (a : DOp)
  | cpyr (d : BitVec 5) (a : DOp)
  | halloc (n : Bool) (d : BitVec 5)
  | hwaitL (n : Bool) (d : BitVec 5) (a : SOp)
  | hwaitR (n : Bool) (d : BitVec 5) (a : SOp)
  | htest (n : Bool) (d : BitVec 5) (a : SOp)
  | hfree (a : SOp)
  | wopen (d : BitVec 5) (a : DOp)
  | wdrop (a : SOp)
  | wget (d : BitVec 5) (a : DOp)
  | wstr (d : BitVec 5) (a : DOp)
  | wstrn (d : BitVec 5) (a : DOp)
  | wacc (d : BitVec 5) (a : DOp)
  | wgac (d : BitVec 5) (a : DOp)
  | wcas (d : BitVec 5) (a : DOp)
  | wfen (a : SOp)
  | wpost (a b : SOp)
  | wstart (a b : SOp)
  | wcomp (a : SOp)
  | wwait (a : SOp)
  | wlockSh (a b : SOp)
  | wlockEx (a b : SOp)
  | wunlk (a b : SOp)
  | wflsh (a b : SOp)
  | dload (k : Bool) (a b : SOp)
  | ctset (a : DOp)
  | ctready (a : SOp)
  | ctwait (a : SOp)
  | ctabort (a : SOp)
  -- control and system (U = 110)
  | nop
  | br (i : BitVec 19)
  | brp (g : Bool) (p : BitVec 3) (i : BitVec 14)
  | jal (n : Bool) (d : BitVec 5) (i : BitVec 14)
  | jr (a : SOp)
  | loop (a : SOp) (off : BitVec 12)
  | loopp (g : BitVec 3) (a : SOp) (off : BitVec 7)
  | lbrk (p : BitVec 3)
  | step (i : BitVec 14)
  | end_
  | trap (t : BitVec 7)
  | tret
  | sysr (n : Bool) (d : BitVec 5) (i : BitVec 14)
  | sysw (d : BitVec 5) (i : BitVec 14)
  | evpop (n : Bool) (d : BitVec 5)
  | sleep
  | dsel (k : Bool)
  | ffence
  | launch (d : BitVec 5) (a : DOp)
  | waitl (d : BitVec 5) (a : SOp)
  | lstat (d : BitVec 5) (a : SOp)
  -- scale and layout (U = 111)
  | sldA (a b : SOp)
  | sldB (a b : SOp)
  | lyset (d : BitVec 3) (a : SOp)
  -- header and dictionary slots
  | hdr (pop : BitVec 4) (stg : BitVec 3)
  | dictionarySlot (e : BitVec 11) (h i j : BitVec 6)
  -- wide opcodes (R80)
  | li (n : Bool) (d : SDst) (imm : Word)
  | addiW (n : Bool) (d : SDst) (a : SOp) (imm : Word)
  | andiW (n : Bool) (d : SDst) (a : SOp) (imm : Word)
  | oriW (n : Bool) (d : SDst) (a : SOp) (imm : Word)
  | xoriW (n : Bool) (d : SDst) (a : SOp) (imm : Word)
  | muliW (n : Bool) (d : SDst) (a : SOp) (imm : Word)
  | sltiW (n : Bool) (d : SDst) (a : SOp) (imm : Word)
  | seqiW (n : Bool) (d : SDst) (a : SOp) (imm : Word)
  | fcvtW (m : Rm) (n : Bool) (d : SDst) (a : SOp) (fd fa : Fmt)
  | fcmpW (n : Bool) (p : BitVec 3) (a b : SOp) (fa : Fmt) (c : Cond)
  | vaddW (m : Rm) (n : Bool) (d : VDst) (a b : VOp) (f : Fmt) (sat : Bool)
  | vsubW (m : Rm) (n : Bool) (d : VDst) (a b : VOp) (f : Fmt) (sat : Bool)
  | vmulW (m : Rm) (n : Bool) (d : VDst) (a b : VOp) (f : Fmt) (sat : Bool)
  | vfmaW (m : Rm) (n : Bool) (d : VDst) (a b : VOp) (f : Fmt)
  | vmaxW (m : Rm) (n : Bool) (d : VDst) (a b : VOp) (f : Fmt)
  | vminW (m : Rm) (n : Bool) (d : VDst) (a b : VOp) (f : Fmt)
  | vcvt (m : Rm) (n : Bool) (d : VDst) (a : VOp) (fd fa : Fmt) (part : BitVec 3)
  | vrsumW (m : Rm) (n : Bool) (d : VDst) (a : VOp) (f : Fmt)
  | vrmaxW (n : Bool) (d : VDst) (a : VOp) (f : Fmt)
  | cselkW (n : Bool) (d : VDst) (a : VOp) (f : Fmt) (k : BitVec 6)
  | mmaW (d : BitVec 4) (a b : VOp) (f : MmaF)
  | mmcW (d : BitVec 4) (a b : VOp) (f : MmcF)
  | cfoldW (bank : Bool) (ebase : BitVec 9)
  | cdrainW (m : Rm) (d : BitVec 4) (acc : Bool)
  | ldx (n : Bool) (d : SDst) (a : SOp) (sz : Size) (sx : Bool) (imm : BitVec 32)
  | stx (d : SOp) (a : SOp) (sz : Size) (imm : BitVec 32)
  | cpyW (d : SOp) (a : DOp) (ly : BitVec 3) (conv : Option Conv)
  | cpyrW (d : SOp) (a : DOp) (f : CpyrF)
  | waccW (d : DOp) (a : DOp) (f : Fmt) (op : Comb) (m : Rm)
  | wgacW (d : DOp) (a : DOp) (f : Fmt) (op : Comb) (m : Rm)
  | brW (imm : BitVec 32)
  | jalW (n : Bool) (d : SDst) (imm : BitVec 32)
  | brpW (g : Bool) (p : BitVec 3) (imm : BitVec 32)
  | loopW (a : SOp) (off : BitVec 16)
  | looppW (g : BitVec 3) (a : SOp) (off : BitVec 16)
  | sldW (q : Bool) (restart : Bool) (scm : Scm) (a b : SOp)
  | lysetW (d : BitVec 3) (imm : Word)
  -- events
  | resultLanding (a : Agent)
  | nominalAnswerArrival (a : Agent) (k : Nat) (fwd : Bool)
  | translationWalk (c : BitVec 9) (w : BitVec 31)
  | countEventTrap (t : BitVec 11)
  | partitionHalt (v : BitVec 6)
  | haltLineFall (v : BitVec 6)
  | performPoint (c : BitVec 9)
  | leaseGrant (c : BitVec 9)
  | runEnd (c : BitVec 9)
  | arrayParityError (c : BitVec 9)
  | dloadFill (t : BitVec 11)
  | copyStart (c : BitVec 9) (ch : BitVec 2)
  | localCompletion (c : BitVec 9) (op : Nat)
  | remoteCompletion (c : BitVec 9) (op : Nat)
  | copyXlateFault (c : BitVec 9) (op : Nat)
  | streamRow (c : BitVec 9) (op : Nat)
  | atomicUnitApply (a : Agent) (k : Nat)
  | wopenCollective (v : BitVec 6) (slot : BitVec 4)
  | wdropCollective (v : BitVec 6) (slot : BitVec 4) (wid : BitVec 8)
  | fenceSwitch (v : BitVec 6) (slot : BitVec 4) (wid : BitVec 8)
  | windowPacketArrival (o t : BitVec 11)
  | packetRepresent (o t : BitVec 11)
  | windowOpCompletion (c : BitVec 9) (op : Nat)
  | notifyRecord (t : BitVec 11)
  | requestQueueAccept (k : Nat)
  | lockRelease (o t : BitVec 11)
  | postNotice (k : Nat)
  | completionNotice (o t : BitVec 11)
  | tileFree (t : BitVec 11)
  | bind (v : BitVec 6) (slot : BitVec 4)
  | cutRequest (v : BitVec 6) (waiting cut : BitVec 4)
  | stepcntReport (t : BitVec 11)
  | cutComplete (v : BitVec 6) (slot : BitVec 4)
  | contextSave (v : BitVec 6) (slot : BitVec 4)
  | restore (v : BitVec 6) (slot : BitVec 4)
  | startRecord (v : BitVec 6)
  | sequencerEnd (q : BitVec 6)
  | ctPacketArrival (s : CtSource)
  | rootFinalResult (c : BitVec 9) (e : BitVec 9)
  | commitPoint (c : BitVec 9) (e : BitVec 9)
  | abortNotice (s : CtSource)
  | ctTimeout (c : BitVec 9) (e : BitVec 9)
  | peerLostResponse (c : BitVec 9) (e : BitVec 9) (gen : BitVec 16)
  | genRefusedResponse (c : BitVec 9) (e : BitVec 9) (gen : BitVec 16)
  | silenceDetect (pos : BitVec 4)
  | lossNotice (pos : BitVec 4)
  | rejoinCommand (pos : BitVec 4)
  | joinNotice (pos : BitVec 4)
  | laneFailure (link : BitVec 2) (tx : Bool) (spares : BitVec 3)
  | crcFail (link : BitVec 2) (tx : Bool)
  | mbin3Write (v : BitVec 6) (x : Word)
  | mbpop (v : BitVec 6) (x : Word)
  | fqconsWrite (v : BitVec 6) (x : Word)
  | isrWrite (v : BitVec 6) (x : Word)
  | lcut (v : BitVec 6) (x : Word)
  | xlinv (v : BitVec 6) (x : Word)
  | xlinvDone (v : BitVec 6)
  | attctlStart (v : BitVec 6) (x : Word)
  | attestationReport (v : BitVec 6)
  | hostBar2Write (v : BitVec 6) (off : BitVec 37) (bytes : List Byte)
  | hostBar2Read (v : BitVec 6) (off : BitVec 37) (len : Nat)
  | pctlEnSet (v : BitVec 6)
  | pctlEnClear (v : BitVec 6)
  | pctlOffline (v : BitVec 6) (on : Bool)
  | pctlLock (v : BitVec 6)
  | pcmdAdd (v : BitVec 6) (c : BitVec 9)
  | pcmdRemove (v : BitVec 6)
  | removeDrain (v : BitVec 6)
  | removeTimeout (v : BitVec 6)
  | bwcapWrite (v : BitVec 6) (x : Word)
  | domainWrite (v : BitVec 6) (x : Word) (named : Bool)
  | ddidxWrite (t : BitVec 11) (x : DebugWrite)
  | registerWrite (r : HostReg) (x : Word)
  | powerOn (b : BringUp)
  | scrub (p : Place)
  | repair (r : RepairOf)
  | throttle
  | thermalStop
  | unassignedOpcode (w : BitVec 32)
  | fetchFault
  | uncorrectableError (c : BitVec 9) (op : Nat)
  | linkRetrainComplete (r : Retrain)
  | throttleEnd
deriving DecidableEq, Repr

/-- What acts next. `step` performs the head of the state's list of turns, or, when the list is empty, the turn the
schedule gives (R269: the rules leave the interleaving of agents open). Beside the tiles, the contexts and the events of
the table stand the single moves of engines inside the table's steps. -/
inductive Turn where
  | agent (a : Agent)                              -- the agent issues its next bundle, or stalls
  | event (i : Instr)                              -- an engine, the host, Lovage or the rack acts
  | wait (n : Nat)                                 -- cycles pass (R5)
  | copyRead (c : BitVec 9) (op : Nat) (g : Nat)   -- a channel reads one source granule (R223, R245)
  | copyWrite (c : BitVec 9) (op : Nat) (g : Nat)  -- a channel writes one destination granule (R223)
  | packetSend (c : BitVec 9) (op : Nat)           -- a window operation sends its next packet (R242)
  | answerWrite (c : BitVec 9) (op : Nat) (k : Nat) -- one granule of fetched bytes is written locally (R244)
  | dictRead (t : BitVec 11) (g : Nat)             -- a DLOAD under way reads one granule of its image (R175)
  | tlbDrop (c : BitVec 9) (page : Nat)            -- a translation buffer drops an entry (R204, R205)
  | error (p : Place) (fatal : Bool)               -- a word suffers an error (R392)
  | lineDrop (t : BitVec 11) (line : Nat)          -- a data cache evicts a line (R206)
  | packetElement (o t : BitVec 11)                -- the next element of a packet applies at its port (R264)
  | stageWrite (c e : BitVec 9) (g : Nat)          -- one granule of a final result enters STAGE (R370)
  | ctFinish (c e : BitVec 9)                      -- the end of an aborted collective instance performs (R276, R366)
  | endedRank (c e : BitVec 9) (p : Nat)           -- an ended rank at ring position p joins the round of a peer (R316)
  | rackAck (k : Nat)                              -- a packet sent over the rack is acknowledged (R353)
  | saveUpTo (v : BitVec 6) (slot : BitVec 4) (t : BitVec 11) (off : Nat) -- sections of an image are written (R336)
deriving DecidableEq, Repr, Inhabited

end Sys2Proof
end

