-- ==== Sys2Proof/WellFormed.lean ====
section
/-! DEFINITION. Which instructions are well formed: the static checks of step 5 of R72 that the operand types do not already make (R60, R75, R80, R101, R136, R152, R159, R218, R243, R275). -/

namespace Sys2Proof

/-- The width of an element in bits (R15). -/
def Fmt.width : Fmt → Nat
  | .fp32 => 32 | .bf16 => 16 | .fp16 => 16 | .e4m3 => 8 | .e5m2 => 8 | .e2m1 => 4 | .e3m0 => 4 | .int4 => 4
  | .int8 => 8 | .uint8 => 8 | .int16 => 16 | .int32 => 32 | .int64 => 64 | .e8m0 => 8 | .cnt => 32 | .fld => 128

/-- Floating-point formats of vector and scalar arithmetic (R80). -/
def Fmt.isFp3 : Fmt → Bool
  | .fp32 | .bf16 | .fp16 => true
  | _ => false

/-- Integer formats of the wide element-wise forms (R127). -/
def Fmt.isInt3 : Fmt → Bool
  | .int8 | .int16 | .int32 => true
  | _ => false

/-- Formats FCVT.W accepts (R80, R92). -/
def Fmt.isScalarCvt : Fmt → Bool
  | .e8m0 | .cnt | .fld => false
  | _ => true

/-- Formats VCVT accepts, but for the pair CNT to INT32 (R128). -/
def Fmt.isVectorCvt : Fmt → Bool
  | .e8m0 | .cnt | .fld | .int64 => false
  | _ => true

/-- The pairs VCVT and the copy engine convert (R128, R218). -/
def vcvtPair (fa fd : Fmt) : Bool :=
  (fa.isVectorCvt && fd.isVectorCvt) || (fa == .cnt && fd == .int32)

/-- The matrix formats of multiply mode (R152). -/
def Fmt.isMma : Fmt → Bool
  | .bf16 | .fp16 | .e4m3 | .e5m2 => true
  | _ => false

/-- The formats of count mode (R159). -/
def Fmt.isMmc : Fmt → Bool
  | .e2m1 | .e3m0 | .int4 => true
  | _ => false

/-- The accumulate types of windows (R243). -/
def Fmt.isAcc : Fmt → Bool
  | .int32 | .fp32 | .bf16 | .cnt | .fld => true
  | _ => false

/-- Whether the format represents a level-11 immediate (R60). -/
def Fmt.fitsImm (f : Fmt) (v : BitVec 3) : Bool :=
  match f with
  | .e3m0 => v.toInt != 3 && v.toInt != -3
  | .uint8 => 0 ≤ v.toInt
  | _ => true

/-- A scalar operand whose immediate, if it is one, the format represents (R60). -/
def SOp.fits (f : Fmt) : SOp → Bool
  | .imm v => f.fitsImm v
  | _ => true

/-- A vector operand whose immediate, if it is one, the format represents (R60). -/
def VOp.fits (f : Fmt) : VOp → Bool
  | .imm v => f.fitsImm v
  | _ => true

/-- A vector operand that names a row of a tile register (R136). -/
def VOp.isRow : VOp → Bool
  | .row _ _ _ => true
  | _ => false

/-- Elements of one scale block (R33). -/
def Scm.block : Scm → Nat
  | .none => 1
  | .b32 => 32
  | .b16 => 16

/-- Static checks of the wide element-wise forms (R80, R127). -/
def wfElem (m : Rm) (a b : VOp) (f : Fmt) (sat : Bool) : Bool :=
  (if f.isFp3 then !sat else f.isInt3 && m == .rne) && a.fits f && b.fits f

/-- Static checks of MMA.W (R152). -/
def MmaF.wf (f : MmaF) : Bool :=
  f.fa.isMma && f.fb.isMma && f.fa.width == f.fb.width && 1 ≤ f.k.toNat && f.k.toNat ≤ 512 &&
    f.k.toNat % f.scm.block == 0

/-- Static checks of MMC.W (R159). -/
def MmcF.wf (f : MmcF) : Bool :=
  f.fa.isMmc && 1 ≤ f.k.toNat &&
    (f.scm == .none || (f.k.toNat % f.scm.block == 0 && (f.fold || f.k.toNat == f.scm.block))) &&
    (!f.drn || f.fold) && (!f.acc || f.drn) && (f.drn || f.rm == .rne) && (f.fold || f.ebase == 0)

/-- Static checks of CPYR.W (R218). -/
def CpyrF.wf (f : CpyrF) : Bool :=
  (f.fd == .fp32 || f.fd == .bf16 || f.fd == .int32 || f.fd == .cnt || f.fd == .fld) &&
    (if f.conv then vcvtPair f.fa f.fd else f.fa == .fp32) &&
    (f.fd == .fp32 || f.fd == .bf16 || f.conv || f.rm == .rne) &&
    f.op != .repl && (f.fd != .fld || f.op == .sum)

/-- Static checks of WACC.W and WGAC.W (R243). -/
def wfAcc (f : Fmt) (op : Comb) (m : Rm) : Bool :=
  f.isAcc && (f != .fld || op == .sum || op == .repl) &&
    (m == .rne || (op == .sum && (f == .fp32 || f == .bf16)))

/-- Well-formed instructions. An ill-formed one is refused by the decoder with INVALID_ENCODING (R72, step 5). -/
def Instr.wf : Instr → Bool
  | .cselk _ _ a _ => a.isRow
  | .mmcE3m0Cb0 _ a b | .mmcE3m0Cb1 _ a b => a.fits .e3m0 && b.fits .e3m0
  | .fence _ k => k != 0
  | .loopp g _ _ => g != 7
  | .fcvtW _ _ _ a fd fa => fd.isScalarCvt && fa.isScalarCvt && a.fits fa
  | .fcmpW _ _ _ _ fa _ => fa.isFp3
  | .vaddW m _ _ a b f sat | .vsubW m _ _ a b f sat | .vmulW m _ _ a b f sat => wfElem m a b f sat
  | .vfmaW _ _ _ _ _ f => f.isFp3
  | .vmaxW m _ _ a b f | .vminW m _ _ a b f => wfElem m a b f false
  | .vcvt _ _ _ a fd fa part =>
      vcvtPair fa fd && a.fits fa &&
        part.toNat < Nat.max fa.width fd.width / Nat.min fa.width fd.width
  | .vrsumW _ _ _ _ f | .vrmaxW _ _ _ f => f.isFp3
  | .cselkW _ _ a f k => a.isRow && (f.isFp3 || f == .int32) && 1 ≤ k.toNat && k.toNat ≤ 32
  | .mmaW _ a b f => f.wf && a.fits f.fa && b.fits f.fb
  | .mmcW _ a b f => f.wf && a.fits f.fa && b.fits f.fa
  | .cpyW _ _ _ conv => match conv with
      | none => true
      | some c => vcvtPair c.fa c.fd
  | .cpyrW _ _ f => f.wf
  | .waccW _ _ f op m | .wgacW _ _ f op m => wfAcc f op m
  | .loopW _ off => off != 0
  | .looppW g _ off => g != 7 && off != 0
  | .sldW _ _ scm _ _ => scm != .none
  | _ => true

end Sys2Proof
end

