-- ==== Sys2Proof/Decode.lean ====
section
/-! DEFINITION. The decoder of slots and templates (R49 to R52, R56 to R61, R75 to R80), the expansion of a dictionary slot (R77), and the encoder written from the same tables. -/

set_option linter.unusedVariables false

namespace Sys2Proof

/-- Why a slot or a template is refused. Each raises INVALID_ENCODING, but for `undefinedEntry` (R72, R79). -/
inductive Reject where
  | badKind         -- K = 11 (R52)
  | headerBits      -- a header with bits [21:0] set (R51)
  | unassigned      -- an opcode outside the maps (R75, R79)
  | form            -- an operand or destination out of form, a nonzero unused field (R56 to R61, R73)
  | staticField     -- a static field out of its range (R15, R23, R80)
  | hole            -- a hole that its code does not admit (R77)
  | undefinedEntry  -- WOP 0x3FF: DICT_UNDEFINED (R79)
deriving DecidableEq, Repr

/-! ### Fields -/

/-- A Bool as one bit. -/
def bit (b : Bool) : BitVec 1 := if b then 1 else 0

/-- A 3-bit index in a 5-bit destination field (R61, xd and pd). -/
def x3 (d : BitVec 3) : BitVec 5 := 0#2 ++ d

/-- An accumulator tile in a 5-bit destination field (R61, ad). -/
def x4 (d : BitVec 4) : BitVec 5 := 0#1 ++ d

/-- A 1-bit index in a 5-bit destination field. -/
def x1 (k : Bool) : BitVec 5 := 0#4 ++ bit k

/-- A predicate in a 7-bit field (R57). -/
def p7 (p : BitVec 3) : BitVec 7 := 0#4 ++ p

/-- Field A of a 14-bit immediate (R75). -/
def hi7 (i : BitVec 14) : BitVec 7 := i.extractLsb' 7 7

/-- Field B of a 14-bit immediate (R75). -/
def lo7 (i : BitVec 14) : BitVec 7 := i.extractLsb' 0 7

/-- A scalar-form field (R56, R58). -/
def SOp.dec (f : BitVec 7) : Option SOp :=
  let i := f.extractLsb' 0 5
  match (f.extractLsb' 5 2).toNat, (i.extractLsb' 3 2).toNat with
  | 0, _ => some (.reg i)
  | 1, _ => some (.based i)
  | 2, 0 => some (.file (i.extractLsb' 0 3))
  | 3, 0 => some (.latch (i.extractLsb' 0 3))
  | 3, 1 => if i.getLsbD 2 then none else some (.queue (i.extractLsb' 0 2))
  | 3, 2 => some (.imm (i.extractLsb' 0 3))
  | _, _ => none

/-- The field of a scalar-form operand. -/
def SOp.enc : SOp → BitVec 7
  | .reg i => 0#2 ++ i
  | .based i => 1#2 ++ i
  | .file i => 2#2 ++ 0#2 ++ i
  | .latch k => 3#2 ++ 0#2 ++ k
  | .queue q => 3#2 ++ 1#2 ++ 0#1 ++ q
  | .imm v => 3#2 ++ 2#2 ++ v

/-- A vector-form field (R57, R58). -/
def VOp.dec (f : BitVec 7) : Option VOp :=
  let i := f.extractLsb' 0 5
  match (f.extractLsb' 5 2).toNat, (i.extractLsb' 3 2).toNat with
  | 0, _ => some (.row (i.extractLsb' 2 3) (i.extractLsb' 0 2) false)
  | 1, _ => some (.row (i.extractLsb' 2 3) (i.extractLsb' 0 2) true)
  | 2, 0 => some (.file (i.extractLsb' 0 3))
  | 3, 0 => some (.latch (i.extractLsb' 0 3))
  | 3, 1 => if i.getLsbD 2 then none else some (.queue (i.extractLsb' 0 2))
  | 3, 2 => some (.imm (i.extractLsb' 0 3))
  | _, _ => none

/-- The field of a vector-form operand. -/
def VOp.enc : VOp → BitVec 7
  | .row g o inc => 0#1 ++ bit inc ++ g ++ o
  | .file i => 2#2 ++ 0#2 ++ i
  | .latch k => 3#2 ++ 0#2 ++ k
  | .queue q => 3#2 ++ 1#2 ++ 0#1 ++ q
  | .imm v => 3#2 ++ 2#2 ++ v

/-- A descriptor field: level 00 or 01 (R75). -/
def DOp.dec (f : BitVec 7) : Option DOp :=
  match (f.extractLsb' 5 2).toNat with
  | 0 => some (.reg (f.extractLsb' 0 5))
  | 1 => some (.based (f.extractLsb' 0 5))
  | _ => none

/-- The field of a descriptor operand. -/
def DOp.enc : DOp → BitVec 7
  | .reg i => 0#2 ++ i
  | .based i => 1#2 ++ i

/-- A predicate field: level 00, i[4:3] = 00 (R57). -/
def pDec (f : BitVec 7) : Option (BitVec 3) :=
  if f.extractLsb' 3 4 = 0 then some (f.extractLsb' 0 3) else none

/-- A 3-bit destination (R61: pd, xd). -/
def d3Dec (d : BitVec 5) : Option (BitVec 3) :=
  if d.extractLsb' 3 2 = 0 then some (d.extractLsb' 0 3) else none

/-- An accumulator destination (R61: ad). -/
def d4Dec (d : BitVec 5) : Option (BitVec 4) :=
  if d.getLsbD 4 then none else some (d.extractLsb' 0 4)

/-- A native vector destination (R61: vd, vr). -/
def VDn.dec (d : BitVec 5) : VDn := ⟨d.extractLsb' 2 3, d.extractLsb' 1 1, d.getLsbD 0⟩

/-- The field of a native vector destination. -/
def VDn.enc (d : VDn) : BitVec 5 := d.g ++ d.o ++ bit d.inc

/-- A scalar destination of a template: levels 00, 01, 10 (R78). -/
def SDst.dec (f : BitVec 7) : Option SDst :=
  match SOp.dec f with
  | some (.reg i) => some (.reg i)
  | some (.based i) => some (.based i)
  | some (.file i) => some (.file i)
  | _ => none

/-- The field of a scalar destination. -/
def SDst.enc : SDst → BitVec 7
  | .reg i => 0#2 ++ i
  | .based i => 1#2 ++ i
  | .file i => 2#2 ++ 0#2 ++ i

/-- A vector destination of a template: levels 00, 01, 10 (R78). -/
def VDst.dec (f : BitVec 7) : Option VDst :=
  match VOp.dec f with
  | some (.row g o inc) => some (.row g o inc)
  | some (.file i) => some (.file i)
  | _ => none

/-- The field of a vector destination. -/
def VDst.enc : VDst → BitVec 7
  | .row g o inc => 0#1 ++ bit inc ++ g ++ o
  | .file i => 2#2 ++ 0#2 ++ i

/-- An accumulator field of a template: level 00, index 0 to 15 (R78). -/
def aDec (f : BitVec 7) : Option (BitVec 4) :=
  if f.extractLsb' 4 3 = 0 then some (f.extractLsb' 0 4) else none

/-- Rounding-mode codes (R23). -/
def Rm.dec (c : BitVec 3) : Option Rm :=
  match c.toNat with
  | 0 => some .rne
  | 1 => some .rtz
  | 2 => some .rup
  | 3 => some .rdn
  | 4 => some .rto
  | _ => none

/-- The code of a rounding mode (R23). -/
def Rm.enc : Rm → BitVec 3
  | .rne => 0 | .rtz => 1 | .rup => 2 | .rdn => 3 | .rto => 4

/-- Format codes (R15). -/
def Fmt.dec (c : BitVec 4) : Fmt :=
  match c.toNat with
  | 0 => .fp32 | 1 => .bf16 | 2 => .fp16 | 3 => .e4m3 | 4 => .e5m2 | 5 => .e2m1 | 6 => .e3m0 | 7 => .int4
  | 8 => .int8 | 9 => .uint8 | 10 => .int16 | 11 => .int32 | 12 => .int64 | 13 => .e8m0 | 14 => .cnt | _ => .fld

/-- The code of a format (R15). -/
def Fmt.enc : Fmt → BitVec 4
  | .fp32 => 0 | .bf16 => 1 | .fp16 => 2 | .e4m3 => 3 | .e5m2 => 4 | .e2m1 => 5 | .e3m0 => 6 | .int4 => 7
  | .int8 => 8 | .uint8 => 9 | .int16 => 10 | .int32 => 11 | .int64 => 12 | .e8m0 => 13 | .cnt => 14 | .fld => 15

/-- The format codes of native FCVT (R75). -/
def NFmt.dec (c : BitVec 3) : Option NFmt :=
  match c.toNat with
  | 0 => some .fp32 | 1 => some .bf16 | 2 => some .fp16 | 3 => some .int32 | 4 => some .int64 | _ => none

/-- The code of a native FCVT format (R75). -/
def NFmt.enc : NFmt → BitVec 3
  | .fp32 => 0 | .bf16 => 1 | .fp16 => 2 | .int32 => 3 | .int64 => 4

/-- The scale-mode codes (R80, SCM). -/
def Scm.dec (c : BitVec 2) : Option Scm :=
  match c.toNat with
  | 0 => some .none | 1 => some .b32 | 2 => some .b16 | _ => Option.none

/-- The code of a scale mode. -/
def Scm.enc : Scm → BitVec 2
  | .none => 0 | .b32 => 1 | .b16 => 2

/-- The scope codes of FENCE (R275). -/
def Scope.dec (c : BitVec 3) : Option Scope :=
  match c.toNat with
  | 0 => some .tile | 1 => some .cluster | 2 => some .die | 3 => some .module | 4 => some .system | _ => none

/-- The code of a scope. -/
def Scope.enc : Scope → BitVec 3
  | .tile => 0 | .cluster => 1 | .die => 2 | .module => 3 | .system => 4

/-- What CSAVE and CLOAD move, from D (R75). -/
def Img.dec (d : BitVec 5) : Option Img :=
  match d.toNat with
  | 0 => some .cb0 | 1 => some .cb1 | 2 => some .fold | _ => none

/-- The D field of an image. -/
def Img.enc : Img → BitVec 5
  | .cb0 => 0 | .cb1 => 1 | .fold => 2

/-- The size codes of LDX and STX (R80). -/
def Size.dec (c : BitVec 2) : Size :=
  match c.toNat with
  | 0 => .b | 1 => .h | 2 => .w | _ => .d

/-- The code of a size. -/
def Size.enc : Size → BitVec 2
  | .b => 0 | .h => 1 | .w => 2 | .d => 3

/-- The condition codes of FCMP.W (R80). -/
def Cond.dec (c : BitVec 3) : Option Cond :=
  match c.toNat with
  | 0 => some .eq | 1 => some .lt | 2 => some .le | 3 => some .un | 4 => some .ne | _ => none

/-- The code of a condition. -/
def Cond.enc : Cond → BitVec 3
  | .eq => 0 | .lt => 1 | .le => 2 | .un => 3 | .ne => 4

/-- The operation codes of reduces and accumulates (R80, R243). -/
def Comb.dec (c : BitVec 3) : Option Comb :=
  match c.toNat with
  | 0 => some .sum | 1 => some .min | 2 => some .max | 3 => some .repl | _ => none

/-- The code of a combining operation. -/
def Comb.enc : Comb → BitVec 3
  | .sum => 0 | .min => 1 | .max => 2 | .repl => 3

/-! ### Native slots -/

/-- The fields of a slot below its stop bit (R49). -/
structure Slot where
  k : BitVec 2
  u : BitVec 3
  op : BitVec 6
  n : Bool
  d : BitVec 5
  a : BitVec 7
  b : BitVec 7
deriving DecidableEq, Repr

/-- The fields of a word (R49). -/
def Slot.ofWord (w : BitVec 32) : Slot :=
  ⟨w.extractLsb' 29 2, w.extractLsb' 26 3, w.extractLsb' 20 6, w.getLsbD 19, w.extractLsb' 14 5,
    w.extractLsb' 7 7, w.extractLsb' 0 7⟩

/-- The word of the fields, with stop bit 0 (R49). -/
def Slot.word (x : Slot) : BitVec 32 :=
  0#1 ++ x.k ++ x.u ++ x.op ++ bit x.n ++ x.d ++ x.a ++ x.b

/-- The 14-bit immediate A, B (R75). -/
def Slot.i14 (x : Slot) : BitVec 14 := x.a ++ x.b

/-- D scalar, A and B scalar-form. -/
def Slot.nss (x : Slot) (f : Bool → BitVec 5 → SOp → SOp → Instr) : Option Instr :=
  match SOp.dec x.a, SOp.dec x.b with
  | some a, some b => some (f x.n x.d a b)
  | _, _ => none

/-- D scalar, A scalar-form, B an i7. -/
def Slot.nsi (x : Slot) (f : Bool → BitVec 5 → SOp → BitVec 7 → Instr) : Option Instr :=
  (SOp.dec x.a).map fun a => f x.n x.d a x.b

/-- D scalar, A scalar-form, B unused. -/
def Slot.ns0 (x : Slot) (f : Bool → BitVec 5 → SOp → Instr) : Option Instr :=
  if x.b = 0 then (SOp.dec x.a).map (f x.n x.d) else none

/-- A scalar-form alone. -/
def Slot.zs (x : Slot) (f : SOp → Instr) : Option Instr :=
  if x.n = false ∧ x.d = 0 ∧ x.b = 0 then (SOp.dec x.a).map f else none

/-- A and B scalar-form, no destination. -/
def Slot.zss (x : Slot) (f : SOp → SOp → Instr) : Option Instr :=
  if x.n = false ∧ x.d = 0 then
    match SOp.dec x.a, SOp.dec x.b with
    | some a, some b => some (f a b)
    | _, _ => none
  else none

/-- D an xd index, A scalar-form, no result (R68). -/
def Slot.xs (x : Slot) (f : BitVec 3 → SOp → Instr) : Option Instr :=
  if x.n = false ∧ x.b = 0 then
    match d3Dec x.d, SOp.dec x.a with
    | some d, some a => some (f d a)
    | _, _ => none
  else none

/-- D an xd or pd index, A scalar-form, with a result. -/
def Slot.nxs (x : Slot) (f : Bool → BitVec 3 → SOp → Instr) : Option Instr :=
  if x.b = 0 then
    match d3Dec x.d, SOp.dec x.a with
    | some d, some a => some (f x.n d a)
    | _, _ => none
  else none

/-- D a predicate, A and B scalar-form. -/
def Slot.pss (x : Slot) (f : Bool → BitVec 3 → SOp → SOp → Instr) : Option Instr :=
  match d3Dec x.d, SOp.dec x.a, SOp.dec x.b with
  | some d, some a, some b => some (f x.n d a b)
  | _, _, _ => none

/-- D, A and B predicates. -/
def Slot.ppp (x : Slot) (f : Bool → BitVec 3 → BitVec 3 → BitVec 3 → Instr) : Option Instr :=
  match d3Dec x.d, pDec x.a, pDec x.b with
  | some d, some a, some b => some (f x.n d a b)
  | _, _, _ => none

/-- D and A predicates. -/
def Slot.pp (x : Slot) (f : Bool → BitVec 3 → BitVec 3 → Instr) : Option Instr :=
  if x.b = 0 then
    match d3Dec x.d, pDec x.a with
    | some d, some a => some (f x.n d a)
    | _, _ => none
  else none

/-- Native FCVT (R75). -/
def Slot.fcvt (x : Slot) (m : Rm) : Option Instr :=
  if x.b.getLsbD 3 then none
  else match SOp.dec x.a, NFmt.dec (x.b.extractLsb' 4 3), NFmt.dec (x.b.extractLsb' 0 3) with
    | some a, some t, some f => some (.fcvt m x.n x.d a t f)
    | _, _, _ => none

/-- D a row, A and B vector-form. -/
def Slot.nvv (x : Slot) (f : Bool → VDn → VOp → VOp → Instr) : Option Instr :=
  match VOp.dec x.a, VOp.dec x.b with
  | some a, some b => some (f x.n (VDn.dec x.d) a b)
  | _, _ => none

/-- D a row, A vector-form. -/
def Slot.nv0 (x : Slot) (f : Bool → VDn → VOp → Instr) : Option Instr :=
  if x.b = 0 then (VOp.dec x.a).map (f x.n (VDn.dec x.d)) else none

/-- D a row, A scalar-form. -/
def Slot.vs0 (x : Slot) (f : Bool → VDn → SOp → Instr) : Option Instr :=
  if x.b = 0 then (SOp.dec x.a).map (f x.n (VDn.dec x.d)) else none

/-- D a vector operand row, A vector-form. -/
def Slot.nxv (x : Slot) (f : Bool → BitVec 3 → VOp → Instr) : Option Instr :=
  if x.b = 0 then
    match d3Dec x.d, VOp.dec x.a with
    | some d, some a => some (f x.n d a)
    | _, _ => none
  else none

/-- D a row, A scalar-form, B an i7. -/
def Slot.vsi (x : Slot) (f : Bool → VDn → SOp → BitVec 7 → Instr) : Option Instr :=
  (SOp.dec x.a).map fun a => f x.n (VDn.dec x.d) a x.b

/-- D a row read, A scalar-form, B an i7. -/
def Slot.vrsi (x : Slot) (f : VDn → SOp → BitVec 7 → Instr) : Option Instr :=
  if x.n then none else (SOp.dec x.a).map fun a => f (VDn.dec x.d) a x.b

/-- D a row, A and B scalar-form. -/
def Slot.vss (x : Slot) (f : Bool → VDn → SOp → SOp → Instr) : Option Instr :=
  match SOp.dec x.a, SOp.dec x.b with
  | some a, some b => some (f x.n (VDn.dec x.d) a b)
  | _, _ => none

/-- D a row read, A and B scalar-form. -/
def Slot.vrss (x : Slot) (f : VDn → SOp → SOp → Instr) : Option Instr :=
  if x.n then none
  else match SOp.dec x.a, SOp.dec x.b with
    | some a, some b => some (f (VDn.dec x.d) a b)
    | _, _ => none

/-- D a row, A vector-form, B scalar-form. -/
def Slot.vvs (x : Slot) (f : Bool → VDn → VOp → SOp → Instr) : Option Instr :=
  match VOp.dec x.a, SOp.dec x.b with
  | some a, some b => some (f x.n (VDn.dec x.d) a b)
  | _, _ => none

/-- No field at all. -/
def Slot.zero (x : Slot) (i : Instr) : Option Instr :=
  if x.n = false ∧ x.d = 0 ∧ x.a = 0 ∧ x.b = 0 then some i else none

/-- D an accumulator tile, A and B vector-form. -/
def Slot.avv (x : Slot) (f : BitVec 4 → VOp → VOp → Instr) : Option Instr :=
  if x.n then none
  else match d4Dec x.d, VOp.dec x.a, VOp.dec x.b with
    | some d, some a, some b => some (f d a b)
    | _, _, _ => none

/-- D an accumulator tile. -/
def Slot.ad (x : Slot) (f : BitVec 4 → Instr) : Option Instr :=
  if x.n = false ∧ x.a = 0 ∧ x.b = 0 then (d4Dec x.d).map f else none

/-- CSAVE and CLOAD (R75). -/
def Slot.img (x : Slot) (f : Img → SOp → Instr) : Option Instr :=
  if x.n = false ∧ x.b = 0 then
    match Img.dec x.d, SOp.dec x.a with
    | some w, some a => some (f w a)
    | _, _ => none
  else none

/-- Scalar stores: D read, A scalar-form, B an i7. -/
def Slot.rsi (x : Slot) (f : BitVec 5 → SOp → BitVec 7 → Instr) : Option Instr :=
  if x.n then none else (SOp.dec x.a).map fun a => f x.d a x.b

/-- FENCE (R275). -/
def Slot.fence (x : Slot) : Option Instr :=
  if x.n = false ∧ x.d = 0 ∧ x.a = 0 then
    (Scope.dec (x.b.extractLsb' 4 3)).map fun c => .fence c (x.b.extractLsb' 0 4)
  else none

/-- D a scalar read or written, A a descriptor. -/
def Slot.rd (x : Slot) (f : BitVec 5 → DOp → Instr) : Option Instr :=
  if x.n = false ∧ x.b = 0 then (DOp.dec x.a).map (f x.d) else none

/-- D a scalar alone. -/
def Slot.nd (x : Slot) (f : Bool → BitVec 5 → Instr) : Option Instr :=
  if x.a = 0 ∧ x.b = 0 then some (f x.n x.d) else none

/-- DLOAD (R174). -/
def Slot.dload (x : Slot) : Option Instr :=
  if x.n = false ∧ x.d.extractLsb' 1 4 = 0 then
    match SOp.dec x.a, SOp.dec x.b with
    | some a, some b => some (.dload (x.d.getLsbD 0) a b)
    | _, _ => none
  else none

/-- A a descriptor alone. -/
def Slot.zd (x : Slot) (f : DOp → Instr) : Option Instr :=
  if x.n = false ∧ x.d = 0 ∧ x.b = 0 then (DOp.dec x.a).map f else none

/-- BR (R94). -/
def Slot.br (x : Slot) : Option Instr :=
  if x.n then none else some (.br (x.d ++ x.a ++ x.b))

/-- BRP (R94). -/
def Slot.brp (x : Slot) : Option Instr :=
  if x.n = false ∧ x.d.getLsbD 4 = false then some (.brp (x.d.getLsbD 3) (x.d.extractLsb' 0 3) x.i14) else none

/-- LOOP (R99). -/
def Slot.loop (x : Slot) : Option Instr :=
  if x.n then none else (SOp.dec x.a).map fun a => .loop a (x.d ++ x.b)

/-- LOOPP (R101). -/
def Slot.loopp (x : Slot) : Option Instr :=
  if x.n then none
  else match d3Dec x.d, SOp.dec x.a with
    | some g, some a => some (.loopp g a x.b)
    | _, _ => none

/-- LBRK (R102). -/
def Slot.lbrk (x : Slot) : Option Instr :=
  if x.n = false ∧ x.d = 0 ∧ x.b = 0 then (pDec x.a).map .lbrk else none

/-- STEP (R106). -/
def Slot.step (x : Slot) : Option Instr :=
  if x.n = false ∧ x.d = 0 then some (.step x.i14) else none

/-- TRAP (R115). -/
def Slot.trap (x : Slot) : Option Instr :=
  if x.n = false ∧ x.d = 0 ∧ x.a = 0 then some (.trap x.b) else none

/-- SYSW (R109). -/
def Slot.sysw (x : Slot) : Option Instr :=
  if x.n then none else some (.sysw x.d x.i14)

/-- DSEL (R176). -/
def Slot.dsel (x : Slot) : Option Instr :=
  if x.n = false ∧ x.d = 0 ∧ x.a = 0 ∧ x.b.extractLsb' 1 6 = 0 then some (.dsel (x.b.getLsbD 0)) else none

/-- D a scalar, A scalar-form, N 0 (R315). -/
def Slot.rs (x : Slot) (f : BitVec 5 → SOp → Instr) : Option Instr :=
  if x.n = false ∧ x.b = 0 then (SOp.dec x.a).map (f x.d) else none

/-- The native opcodes of the scalar integer unit, U = 0 (R75). -/
def Slot.decSi (x : Slot) : Option Instr :=
  match x.op.toNat with
  | 0x00 => x.nss .add
  | 0x01 => x.nss .sub
  | 0x02 => x.nsi .addi
  | 0x03 => some (.lui x.n x.d x.i14)
  | 0x04 => x.nss .mul
  | 0x05 => x.nss .mulh
  | 0x06 => x.nss .div
  | 0x07 => x.nss .divu
  | 0x08 => x.nss .rem
  | 0x09 => x.nss .and
  | 0x0a => x.nss .or
  | 0x0b => x.nss .xor
  | 0x0c => x.nss .shl
  | 0x0d => x.nss .shr
  | 0x0e => x.nss .sra
  | 0x0f => x.nss .min
  | 0x10 => x.nss .max
  | 0x11 => x.nss .slt
  | 0x12 => x.nss .sltu
  | 0x13 => x.nss .seq
  | 0x14 => x.ns0 .clz
  | 0x15 => x.ns0 .popc
  | 0x16 => x.zs .movsb
  | 0x17 => x.xs .movc
  | 0x18 => x.nxs .movo
  | o => if o / 8 = 4 then x.nss (.sel (x.op.extractLsb' 0 3)) else none

/-- The native opcodes of the scalar float and predicate unit, U = 1 (R75). -/
def Slot.decSf (x : Slot) : Option Instr :=
  match x.op.toNat with
  | 0x30 => x.nss .fmin
  | 0x31 => x.nss .fmax
  | 0x32 => x.pss .fcmpEq
  | 0x33 => x.pss .fcmpLt
  | 0x34 => x.pss .fcmpLe
  | 0x35 => x.pss .fcmpUn
  | 0x38 => x.nxs .pset
  | 0x39 => x.ppp .pand
  | 0x3a => x.ppp .por
  | 0x3b => x.pp .pnot
  | o => match o / 8, Rm.dec (x.op.extractLsb' 0 3) with
    | 0, some m => x.nss (.fadd m)
    | 1, some m => x.nss (.fsub m)
    | 2, some m => x.nss (.fmul m)
    | 3, some m => x.nss (.ffma m)
    | 4, some m => x.fcvt m
    | _, _ => none

/-- The native opcodes of the vector row unit, U = 2 (R75). -/
def Slot.decVr (x : Slot) : Option Instr :=
  match x.op.toNat with
  | 0x00 => x.nvv .vadd
  | 0x01 => x.nvv .vsub
  | 0x02 => x.nvv .vmul
  | 0x03 => x.nvv .vfma
  | 0x04 => x.nvv .vmax
  | 0x05 => x.nvv .vmin
  | 0x06 => x.nv0 .vabs
  | 0x07 => x.nv0 .vneg
  | 0x08 => x.nv0 .vexp2
  | 0x09 => x.nv0 .vlog2
  | 0x0a => x.nv0 .vrcp
  | 0x0b => x.nv0 .vrsq
  | 0x0c => x.nvv .vcmpEq
  | 0x0d => x.nvv .vcmpLt
  | 0x0e => x.nvv .vcmpLe
  | 0x0f => x.nvv .vsel
  | 0x10 => x.nvv .vand
  | 0x11 => x.nvv .vor
  | 0x12 => x.nvv .vxor
  | 0x13 => x.nvv .vshl
  | 0x14 => x.nvv .vshr
  | 0x15 => x.nv0 .vrsum
  | 0x16 => x.nv0 .vrmax
  | 0x17 => x.vs0 .vbcast
  | 0x18 => x.nvv .vperm
  | 0x19 => x.nxv .vmovo
  | 0x1a => x.vsi .vld
  | 0x1b => x.vrsi .vst
  | 0x1c => x.vss .vlds
  | 0x1d => x.vrss .vsts
  | 0x1e => x.vss .vmova
  | 0x1f => x.vrss .vmovt
  | 0x20 => x.vvs .cselk
  | _ => none

/-- The native opcodes of the matrix and counter unit, U = 3 (R75). -/
def Slot.decMx (x : Slot) : Option Instr :=
  match x.op.toNat with
  | 0x00 => x.zero .mlease
  | 0x01 => x.zero .mrel
  | 0x02 => x.avv .mmaBf16
  | 0x03 => x.avv .mmaFp16
  | 0x04 => x.avv .mmaE4m3
  | 0x05 => x.avv .mmaE5m2
  | 0x08 => x.avv .mmcE2m1Cb0
  | 0x09 => x.avv .mmcE2m1Cb1
  | 0x0a => x.avv .mmcE3m0Cb0
  | 0x0b => x.avv .mmcE3m0Cb1
  | 0x0c => x.avv .mmcInt4Cb0
  | 0x0d => x.avv .mmcInt4Cb1
  | 0x10 => x.zs .cfoldCb0
  | 0x11 => x.zs .cfoldCb1
  | 0x12 => x.zero .cmergeCb0
  | 0x13 => x.zero .cmergeCb1
  | 0x14 => x.zero .cclr
  | 0x15 => x.ad .aclr
  | 0x28 => x.img .csave
  | 0x29 => x.img .cload
  | o => match o / 8, Rm.dec (x.op.extractLsb' 0 3) with
    | 3, some m => x.ad (.cdrain m)
    | 4, some m => x.ad (.cdrainAdd m)
    | _, _ => none

/-- The native opcodes of the memory unit, U = 4 (R75). -/
def Slot.decMv (x : Slot) : Option Instr :=
  match x.op.toNat with
  | 0x00 => x.nsi .ldB
  | 0x01 => x.nsi .ldBu
  | 0x02 => x.nsi .ldH
  | 0x03 => x.nsi .ldHu
  | 0x04 => x.nsi .ldW
  | 0x05 => x.nsi .ldWu
  | 0x06 => x.nsi .ldD
  | 0x08 => x.rsi .stB
  | 0x09 => x.rsi .stH
  | 0x0a => x.rsi .stW
  | 0x0b => x.rsi .stD
  | 0x10 => x.nss .aaddW
  | 0x11 => x.nss .aaddD
  | 0x12 => x.nss .aminW
  | 0x13 => x.nss .aminD
  | 0x14 => x.nss .amaxW
  | 0x15 => x.nss .amaxD
  | 0x16 => x.nss .axchgW
  | 0x17 => x.nss .axchgD
  | 0x18 => x.nss .acasW
  | 0x19 => x.nss .acasD
  | 0x1a => x.nss .afaddW
  | 0x20 => x.fence
  | 0x21 => x.zero .vjoin
  | _ => none

/-- The native opcodes of the transfer unit, U = 5 (R75). -/
def Slot.decXf (x : Slot) : Option Instr :=
  match x.op.toNat with
  | 0x00 => x.rd .cpy
  | 0x01 => x.rd .cpyr
  | 0x04 => x.nd .halloc
  | 0x05 => x.ns0 .hwaitL
  | 0x06 => x.ns0 .hwaitR
  | 0x07 => x.ns0 .htest
  | 0x08 => x.zs .hfree
  | 0x10 => x.rd .wopen
  | 0x11 => x.zs .wdrop
  | 0x12 => x.rd .wget
  | 0x13 => x.rd .wstr
  | 0x14 => x.rd .wstrn
  | 0x15 => x.rd .wacc
  | 0x16 => x.rd .wgac
  | 0x17 => x.rd .wcas
  | 0x18 => x.zs .wfen
  | 0x19 => x.zss .wpost
  | 0x1a => x.zss .wstart
  | 0x1b => x.zs .wcomp
  | 0x1c => x.zs .wwait
  | 0x1d => x.zss .wlockSh
  | 0x1e => x.zss .wlockEx
  | 0x1f => x.zss .wunlk
  | 0x20 => x.zss .wflsh
  | 0x28 => x.dload
  | 0x30 => x.zd .ctset
  | 0x31 => x.zs .ctready
  | 0x32 => x.zs .ctwait
  | 0x33 => x.zs .ctabort
  | _ => none

/-- The native opcodes of the control and system unit, U = 6 (R75). -/
def Slot.decCt (x : Slot) : Option Instr :=
  match x.op.toNat with
  | 0x00 => x.zero .nop
  | 0x01 => x.br
  | 0x02 => x.brp
  | 0x03 => some (.jal x.n x.d x.i14)
  | 0x04 => x.zs .jr
  | 0x05 => x.loop
  | 0x06 => x.loopp
  | 0x07 => x.lbrk
  | 0x08 => x.step
  | 0x09 => x.zero .end_
  | 0x0a => x.trap
  | 0x0b => x.zero .tret
  | 0x0c => some (.sysr x.n x.d x.i14)
  | 0x0d => x.sysw
  | 0x0e => x.nd .evpop
  | 0x0f => x.zero .sleep
  | 0x10 => x.dsel
  | 0x11 => x.zero .ffence
  | 0x38 => x.rd .launch
  | 0x39 => x.rs .waitl
  | 0x3a => x.rs .lstat
  | _ => none

/-- The native opcodes of the scale and layout unit, U = 7 (R75). -/
def Slot.decSc (x : Slot) : Option Instr :=
  match x.op.toNat with
  | 0x00 => x.zss .sldA
  | 0x01 => x.zss .sldB
  | 0x08 => x.xs .lyset
  | _ => none

/-- The slot of a native instruction (R49, R75); none for any other. -/
def Instr.slot : Instr → Option Slot
  | .add n d a b => some ⟨0, 0, 0x00, n, d, a.enc, b.enc⟩
  | .sub n d a b => some ⟨0, 0, 0x01, n, d, a.enc, b.enc⟩
  | .addi n d a i => some ⟨0, 0, 0x02, n, d, a.enc, i⟩
  | .lui n d i => some ⟨0, 0, 0x03, n, d, hi7 i, lo7 i⟩
  | .mul n d a b => some ⟨0, 0, 0x04, n, d, a.enc, b.enc⟩
  | .mulh n d a b => some ⟨0, 0, 0x05, n, d, a.enc, b.enc⟩
  | .div n d a b => some ⟨0, 0, 0x06, n, d, a.enc, b.enc⟩
  | .divu n d a b => some ⟨0, 0, 0x07, n, d, a.enc, b.enc⟩
  | .rem n d a b => some ⟨0, 0, 0x08, n, d, a.enc, b.enc⟩
  | .and n d a b => some ⟨0, 0, 0x09, n, d, a.enc, b.enc⟩
  | .or n d a b => some ⟨0, 0, 0x0a, n, d, a.enc, b.enc⟩
  | .xor n d a b => some ⟨0, 0, 0x0b, n, d, a.enc, b.enc⟩
  | .shl n d a b => some ⟨0, 0, 0x0c, n, d, a.enc, b.enc⟩
  | .shr n d a b => some ⟨0, 0, 0x0d, n, d, a.enc, b.enc⟩
  | .sra n d a b => some ⟨0, 0, 0x0e, n, d, a.enc, b.enc⟩
  | .min n d a b => some ⟨0, 0, 0x0f, n, d, a.enc, b.enc⟩
  | .max n d a b => some ⟨0, 0, 0x10, n, d, a.enc, b.enc⟩
  | .slt n d a b => some ⟨0, 0, 0x11, n, d, a.enc, b.enc⟩
  | .sltu n d a b => some ⟨0, 0, 0x12, n, d, a.enc, b.enc⟩
  | .seq n d a b => some ⟨0, 0, 0x13, n, d, a.enc, b.enc⟩
  | .clz n d a => some ⟨0, 0, 0x14, n, d, a.enc, 0⟩
  | .popc n d a => some ⟨0, 0, 0x15, n, d, a.enc, 0⟩
  | .movsb a => some ⟨0, 0, 0x16, false, 0, a.enc, 0⟩
  | .movc d a => some ⟨0, 0, 0x17, false, x3 d, a.enc, 0⟩
  | .movo n d a => some ⟨0, 0, 0x18, n, x3 d, a.enc, 0⟩
  | .fmin n d a b => some ⟨0, 1, 0x30, n, d, a.enc, b.enc⟩
  | .fmax n d a b => some ⟨0, 1, 0x31, n, d, a.enc, b.enc⟩
  | .fcmpEq n p a b => some ⟨0, 1, 0x32, n, x3 p, a.enc, b.enc⟩
  | .fcmpLt n p a b => some ⟨0, 1, 0x33, n, x3 p, a.enc, b.enc⟩
  | .fcmpLe n p a b => some ⟨0, 1, 0x34, n, x3 p, a.enc, b.enc⟩
  | .fcmpUn n p a b => some ⟨0, 1, 0x35, n, x3 p, a.enc, b.enc⟩
  | .pset n d a => some ⟨0, 1, 0x38, n, x3 d, a.enc, 0⟩
  | .pand n p a b => some ⟨0, 1, 0x39, n, x3 p, p7 a, p7 b⟩
  | .por n p a b => some ⟨0, 1, 0x3a, n, x3 p, p7 a, p7 b⟩
  | .pnot n p a => some ⟨0, 1, 0x3b, n, x3 p, p7 a, 0⟩
  | .vadd n d a b => some ⟨0, 2, 0x00, n, d.enc, a.enc, b.enc⟩
  | .vsub n d a b => some ⟨0, 2, 0x01, n, d.enc, a.enc, b.enc⟩
  | .vmul n d a b => some ⟨0, 2, 0x02, n, d.enc, a.enc, b.enc⟩
  | .vfma n d a b => some ⟨0, 2, 0x03, n, d.enc, a.enc, b.enc⟩
  | .vmax n d a b => some ⟨0, 2, 0x04, n, d.enc, a.enc, b.enc⟩
  | .vmin n d a b => some ⟨0, 2, 0x05, n, d.enc, a.enc, b.enc⟩
  | .vabs n d a => some ⟨0, 2, 0x06, n, d.enc, a.enc, 0⟩
  | .vneg n d a => some ⟨0, 2, 0x07, n, d.enc, a.enc, 0⟩
  | .vexp2 n d a => some ⟨0, 2, 0x08, n, d.enc, a.enc, 0⟩
  | .vlog2 n d a => some ⟨0, 2, 0x09, n, d.enc, a.enc, 0⟩
  | .vrcp n d a => some ⟨0, 2, 0x0a, n, d.enc, a.enc, 0⟩
  | .vrsq n d a => some ⟨0, 2, 0x0b, n, d.enc, a.enc, 0⟩
  | .vcmpEq n d a b => some ⟨0, 2, 0x0c, n, d.enc, a.enc, b.enc⟩
  | .vcmpLt n d a b => some ⟨0, 2, 0x0d, n, d.enc, a.enc, b.enc⟩
  | .vcmpLe n d a b => some ⟨0, 2, 0x0e, n, d.enc, a.enc, b.enc⟩
  | .vsel n d a b => some ⟨0, 2, 0x0f, n, d.enc, a.enc, b.enc⟩
  | .vand n d a b => some ⟨0, 2, 0x10, n, d.enc, a.enc, b.enc⟩
  | .vor n d a b => some ⟨0, 2, 0x11, n, d.enc, a.enc, b.enc⟩
  | .vxor n d a b => some ⟨0, 2, 0x12, n, d.enc, a.enc, b.enc⟩
  | .vshl n d a b => some ⟨0, 2, 0x13, n, d.enc, a.enc, b.enc⟩
  | .vshr n d a b => some ⟨0, 2, 0x14, n, d.enc, a.enc, b.enc⟩
  | .vrsum n d a => some ⟨0, 2, 0x15, n, d.enc, a.enc, 0⟩
  | .vrmax n d a => some ⟨0, 2, 0x16, n, d.enc, a.enc, 0⟩
  | .vbcast n d a => some ⟨0, 2, 0x17, n, d.enc, a.enc, 0⟩
  | .vperm n d a b => some ⟨0, 2, 0x18, n, d.enc, a.enc, b.enc⟩
  | .vmovo n d a => some ⟨0, 2, 0x19, n, x3 d, a.enc, 0⟩
  | .vld n d a i => some ⟨0, 2, 0x1a, n, d.enc, a.enc, i⟩
  | .vst d a i => some ⟨0, 2, 0x1b, false, d.enc, a.enc, i⟩
  | .vlds n d a b => some ⟨0, 2, 0x1c, n, d.enc, a.enc, b.enc⟩
  | .vsts d a b => some ⟨0, 2, 0x1d, false, d.enc, a.enc, b.enc⟩
  | .vmova n d a b => some ⟨0, 2, 0x1e, n, d.enc, a.enc, b.enc⟩
  | .vmovt d a b => some ⟨0, 2, 0x1f, false, d.enc, a.enc, b.enc⟩
  | .cselk n d a b => some ⟨0, 2, 0x20, n, d.enc, a.enc, b.enc⟩
  | .mlease => some ⟨0, 3, 0x00, false, 0, 0, 0⟩
  | .mrel => some ⟨0, 3, 0x01, false, 0, 0, 0⟩
  | .mmaBf16 d a b => some ⟨0, 3, 0x02, false, x4 d, a.enc, b.enc⟩
  | .mmaFp16 d a b => some ⟨0, 3, 0x03, false, x4 d, a.enc, b.enc⟩
  | .mmaE4m3 d a b => some ⟨0, 3, 0x04, false, x4 d, a.enc, b.enc⟩
  | .mmaE5m2 d a b => some ⟨0, 3, 0x05, false, x4 d, a.enc, b.enc⟩
  | .mmcE2m1Cb0 d a b => some ⟨0, 3, 0x08, false, x4 d, a.enc, b.enc⟩
  | .mmcE2m1Cb1 d a b => some ⟨0, 3, 0x09, false, x4 d, a.enc, b.enc⟩
  | .mmcE3m0Cb0 d a b => some ⟨0, 3, 0x0a, false, x4 d, a.enc, b.enc⟩
  | .mmcE3m0Cb1 d a b => some ⟨0, 3, 0x0b, false, x4 d, a.enc, b.enc⟩
  | .mmcInt4Cb0 d a b => some ⟨0, 3, 0x0c, false, x4 d, a.enc, b.enc⟩
  | .mmcInt4Cb1 d a b => some ⟨0, 3, 0x0d, false, x4 d, a.enc, b.enc⟩
  | .cfoldCb0 a => some ⟨0, 3, 0x10, false, 0, a.enc, 0⟩
  | .cfoldCb1 a => some ⟨0, 3, 0x11, false, 0, a.enc, 0⟩
  | .cmergeCb0 => some ⟨0, 3, 0x12, false, 0, 0, 0⟩
  | .cmergeCb1 => some ⟨0, 3, 0x13, false, 0, 0, 0⟩
  | .cclr => some ⟨0, 3, 0x14, false, 0, 0, 0⟩
  | .aclr d => some ⟨0, 3, 0x15, false, x4 d, 0, 0⟩
  | .csave w a => some ⟨0, 3, 0x28, false, w.enc, a.enc, 0⟩
  | .cload w a => some ⟨0, 3, 0x29, false, w.enc, a.enc, 0⟩
  | .ldB n d a i => some ⟨0, 4, 0x00, n, d, a.enc, i⟩
  | .ldBu n d a i => some ⟨0, 4, 0x01, n, d, a.enc, i⟩
  | .ldH n d a i => some ⟨0, 4, 0x02, n, d, a.enc, i⟩
  | .ldHu n d a i => some ⟨0, 4, 0x03, n, d, a.enc, i⟩
  | .ldW n d a i => some ⟨0, 4, 0x04, n, d, a.enc, i⟩
  | .ldWu n d a i => some ⟨0, 4, 0x05, n, d, a.enc, i⟩
  | .ldD n d a i => some ⟨0, 4, 0x06, n, d, a.enc, i⟩
  | .stB d a i => some ⟨0, 4, 0x08, false, d, a.enc, i⟩
  | .stH d a i => some ⟨0, 4, 0x09, false, d, a.enc, i⟩
  | .stW d a i => some ⟨0, 4, 0x0a, false, d, a.enc, i⟩
  | .stD d a i => some ⟨0, 4, 0x0b, false, d, a.enc, i⟩
  | .aaddW n d a b => some ⟨0, 4, 0x10, n, d, a.enc, b.enc⟩
  | .aaddD n d a b => some ⟨0, 4, 0x11, n, d, a.enc, b.enc⟩
  | .aminW n d a b => some ⟨0, 4, 0x12, n, d, a.enc, b.enc⟩
  | .aminD n d a b => some ⟨0, 4, 0x13, n, d, a.enc, b.enc⟩
  | .amaxW n d a b => some ⟨0, 4, 0x14, n, d, a.enc, b.enc⟩
  | .amaxD n d a b => some ⟨0, 4, 0x15, n, d, a.enc, b.enc⟩
  | .axchgW n d a b => some ⟨0, 4, 0x16, n, d, a.enc, b.enc⟩
  | .axchgD n d a b => some ⟨0, 4, 0x17, n, d, a.enc, b.enc⟩
  | .acasW n d a b => some ⟨0, 4, 0x18, n, d, a.enc, b.enc⟩
  | .acasD n d a b => some ⟨0, 4, 0x19, n, d, a.enc, b.enc⟩
  | .afaddW n d a b => some ⟨0, 4, 0x1a, n, d, a.enc, b.enc⟩
  | .fence c k => some ⟨0, 4, 0x20, false, 0, 0, c.enc ++ k⟩
  | .vjoin => some ⟨0, 4, 0x21, false, 0, 0, 0⟩
  | .cpy d a => some ⟨0, 5, 0x00, false, d, a.enc, 0⟩
  | .cpyr d a => some ⟨0, 5, 0x01, false, d, a.enc, 0⟩
  | .halloc n d => some ⟨0, 5, 0x04, n, d, 0, 0⟩
  | .hwaitL n d a => some ⟨0, 5, 0x05, n, d, a.enc, 0⟩
  | .hwaitR n d a => some ⟨0, 5, 0x06, n, d, a.enc, 0⟩
  | .htest n d a => some ⟨0, 5, 0x07, n, d, a.enc, 0⟩
  | .hfree a => some ⟨0, 5, 0x08, false, 0, a.enc, 0⟩
  | .wopen d a => some ⟨0, 5, 0x10, false, d, a.enc, 0⟩
  | .wdrop a => some ⟨0, 5, 0x11, false, 0, a.enc, 0⟩
  | .wget d a => some ⟨0, 5, 0x12, false, d, a.enc, 0⟩
  | .wstr d a => some ⟨0, 5, 0x13, false, d, a.enc, 0⟩
  | .wstrn d a => some ⟨0, 5, 0x14, false, d, a.enc, 0⟩
  | .wacc d a => some ⟨0, 5, 0x15, false, d, a.enc, 0⟩
  | .wgac d a => some ⟨0, 5, 0x16, false, d, a.enc, 0⟩
  | .wcas d a => some ⟨0, 5, 0x17, false, d, a.enc, 0⟩
  | .wfen a => some ⟨0, 5, 0x18, false, 0, a.enc, 0⟩
  | .wpost a b => some ⟨0, 5, 0x19, false, 0, a.enc, b.enc⟩
  | .wstart a b => some ⟨0, 5, 0x1a, false, 0, a.enc, b.enc⟩
  | .wcomp a => some ⟨0, 5, 0x1b, false, 0, a.enc, 0⟩
  | .wwait a => some ⟨0, 5, 0x1c, false, 0, a.enc, 0⟩
  | .wlockSh a b => some ⟨0, 5, 0x1d, false, 0, a.enc, b.enc⟩
  | .wlockEx a b => some ⟨0, 5, 0x1e, false, 0, a.enc, b.enc⟩
  | .wunlk a b => some ⟨0, 5, 0x1f, false, 0, a.enc, b.enc⟩
  | .wflsh a b => some ⟨0, 5, 0x20, false, 0, a.enc, b.enc⟩
  | .dload k a b => some ⟨0, 5, 0x28, false, x1 k, a.enc, b.enc⟩
  | .ctset a => some ⟨0, 5, 0x30, false, 0, a.enc, 0⟩
  | .ctready a => some ⟨0, 5, 0x31, false, 0, a.enc, 0⟩
  | .ctwait a => some ⟨0, 5, 0x32, false, 0, a.enc, 0⟩
  | .ctabort a => some ⟨0, 5, 0x33, false, 0, a.enc, 0⟩
  | .nop => some ⟨0, 6, 0x00, false, 0, 0, 0⟩
  | .br i => some ⟨0, 6, 0x01, false, i.extractLsb' 14 5, i.extractLsb' 7 7, i.extractLsb' 0 7⟩
  | .brp g p i => some ⟨0, 6, 0x02, false, 0#1 ++ bit g ++ p, hi7 i, lo7 i⟩
  | .jal n d i => some ⟨0, 6, 0x03, n, d, hi7 i, lo7 i⟩
  | .jr a => some ⟨0, 6, 0x04, false, 0, a.enc, 0⟩
  | .loop a off => some ⟨0, 6, 0x05, false, off.extractLsb' 7 5, a.enc, off.extractLsb' 0 7⟩
  | .loopp g a off => some ⟨0, 6, 0x06, false, x3 g, a.enc, off⟩
  | .lbrk p => some ⟨0, 6, 0x07, false, 0, p7 p, 0⟩
  | .step i => some ⟨0, 6, 0x08, false, 0, hi7 i, lo7 i⟩
  | .end_ => some ⟨0, 6, 0x09, false, 0, 0, 0⟩
  | .trap t => some ⟨0, 6, 0x0a, false, 0, 0, t⟩
  | .tret => some ⟨0, 6, 0x0b, false, 0, 0, 0⟩
  | .sysr n d i => some ⟨0, 6, 0x0c, n, d, hi7 i, lo7 i⟩
  | .sysw d i => some ⟨0, 6, 0x0d, false, d, hi7 i, lo7 i⟩
  | .evpop n d => some ⟨0, 6, 0x0e, n, d, 0, 0⟩
  | .sleep => some ⟨0, 6, 0x0f, false, 0, 0, 0⟩
  | .dsel k => some ⟨0, 6, 0x10, false, 0, 0, 0#6 ++ bit k⟩
  | .ffence => some ⟨0, 6, 0x11, false, 0, 0, 0⟩
  | .launch d a => some ⟨0, 6, 0x38, false, d, a.enc, 0⟩
  | .waitl d a => some ⟨0, 6, 0x39, false, d, a.enc, 0⟩
  | .lstat d a => some ⟨0, 6, 0x3a, false, d, a.enc, 0⟩
  | .sldA a b => some ⟨0, 7, 0x00, false, 0, a.enc, b.enc⟩
  | .sldB a b => some ⟨0, 7, 0x01, false, 0, a.enc, b.enc⟩
  | .lyset d a => some ⟨0, 7, 0x08, false, x3 d, a.enc, 0⟩
  | .sel p n d a b => some ⟨0, 0, 4#3 ++ p, n, d, a.enc, b.enc⟩
  | .fadd m n d a b => some ⟨0, 1, 0#3 ++ m.enc, n, d, a.enc, b.enc⟩
  | .fsub m n d a b => some ⟨0, 1, 1#3 ++ m.enc, n, d, a.enc, b.enc⟩
  | .fmul m n d a b => some ⟨0, 1, 2#3 ++ m.enc, n, d, a.enc, b.enc⟩
  | .ffma m n d a b => some ⟨0, 1, 3#3 ++ m.enc, n, d, a.enc, b.enc⟩
  | .fcvt m n d a t f => some ⟨0, 1, 4#3 ++ m.enc, n, d, a.enc, t.enc ++ 0#1 ++ f.enc⟩
  | .cdrain m d => some ⟨0, 3, 3#3 ++ m.enc, false, x4 d, 0, 0⟩
  | .cdrainAdd m d => some ⟨0, 3, 4#3 ++ m.enc, false, x4 d, 0, 0⟩
  | .hdr _ _ | .dictionarySlot _ _ _ _ => none
  | _ => none

/-- The instruction of a native slot's fields, before the static checks (R75). -/
def Slot.decNative (x : Slot) : Option Instr :=
  match x.u.toNat with
  | 0 => x.decSi
  | 1 => x.decSf
  | 2 => x.decVr
  | 3 => x.decMx
  | 4 => x.decMv
  | 5 => x.decXf
  | 6 => x.decCt
  | _ => x.decSc

/-- The OP values each unit assigns (R75). -/
def opAssigned (u op : Nat) : Bool :=
  match u with
  | 0 => op ≤ 0x18 || (0x20 ≤ op && op ≤ 0x27)
  | 1 => (op ≤ 0x24 && op % 8 ≤ 4) || (0x30 ≤ op && op ≤ 0x35) || (0x38 ≤ op && op ≤ 0x3B)
  | 2 => op ≤ 0x20
  | 3 => op ≤ 5 || (8 ≤ op && op ≤ 0xD) || (0x10 ≤ op && op ≤ 0x15) || (0x18 ≤ op && op ≤ 0x1C) ||
      (0x20 ≤ op && op ≤ 0x24) || op == 0x28 || op == 0x29
  | 4 => op ≤ 6 || (8 ≤ op && op ≤ 0xB) || (0x10 ≤ op && op ≤ 0x1A) || op == 0x20 || op == 0x21
  | 5 => op ≤ 1 || (4 ≤ op && op ≤ 8) || (0x10 ≤ op && op ≤ 0x20) || op == 0x28 || (0x30 ≤ op && op ≤ 0x33)
  | 6 => op ≤ 0x11 || (0x38 ≤ op && op ≤ 0x3A)
  | _ => op ≤ 1 || op == 8

/-- The instruction of a slot word; its stop bit is the bundle's matter (R47). -/
def decodeSlot (w : BitVec 32) : Except Reject Instr :=
  let x := Slot.ofWord w
  match x.k.toNat with
  | 0 => match x.decNative with
      | some i => if i.wf then .ok i else .error .staticField
      | none => if opAssigned x.u.toNat x.op.toNat then .error .form else .error .unassigned
  | 1 => .ok (.dictionarySlot (w.extractLsb' 18 11) (w.extractLsb' 12 6) (w.extractLsb' 6 6) (w.extractLsb' 0 6))
  | 2 => if w.extractLsb' 0 22 = 0 then .ok (.hdr (w.extractLsb' 25 4) (w.extractLsb' 22 3)) else .error .headerBits
  | _ => .error .badKind

/-- The word of an instruction that one slot holds, stop bit 0; none for wide opcodes and events. -/
def encode (i : Instr) : Option (BitVec 32) :=
  match i with
  | .hdr pop stg => some (0#1 ++ 2#2 ++ pop ++ stg ++ 0#22)
  | .dictionarySlot e h j k => some (0#1 ++ 1#2 ++ e ++ h ++ j ++ k)
  | i => i.slot.map Slot.word

/-! ### Templates -/

/-- The fields of a template (R76). -/
structure Wide where
  wop : BitVec 10
  hmap : BitVec 6
  f0 : BitVec 7
  f1 : BitVec 7
  f2 : BitVec 7
  n : Bool
  rm : BitVec 3
  fa : BitVec 4
  fd : BitVec 4
  spec : BitVec 79
deriving DecidableEq, Repr

/-- The fields of a 128-bit entry (R76). -/
def Wide.ofTemplate (t : Template) : Wide :=
  ⟨t.extractLsb' 118 10, t.extractLsb' 112 6, t.extractLsb' 105 7, t.extractLsb' 98 7, t.extractLsb' 91 7,
    t.getLsbD 90, t.extractLsb' 87 3, t.extractLsb' 83 4, t.extractLsb' 79 4, t.extractLsb' 0 79⟩

/-- The 128-bit entry of the fields (R76). -/
def Wide.template (x : Wide) : Template :=
  x.wop ++ x.hmap ++ x.f0 ++ x.f1 ++ x.f2 ++ bit x.n ++ x.rm ++ x.fa ++ x.fd ++ x.spec

/-- Where an opcode's immediate field begins in SPEC, for those that have one (R77, R80). -/
def immLsb (wop : BitVec 10) : Option Nat :=
  match wop.toNat with
  | 0x000 | 0x001 | 0x002 | 0x003 | 0x004 | 0x005 | 0x006 | 0x007 | 0x381 => some 15
  | 0x200 | 0x201 => some 44
  | 0x300 | 0x301 | 0x302 => some 47
  | _ => none

/-- Six bits of SPEC replaced by a hole (R77, code 11). -/
def putHole (spec : BitVec 79) (lsb : Nat) (h : BitVec 6) : BitVec 79 :=
  (spec &&& ~~~(0x3F#79 <<< lsb)) ||| (h.setWidth 79 <<< lsb)

/-- One hole placed by its code into field k (R77). -/
def placeHole (x : Wide) (k : Nat) (code : BitVec 2) (h : BitVec 6) : Except Reject Wide :=
  let put (f : BitVec 7) : Wide := match k with
    | 0 => { x with f0 := f }
    | 1 => { x with f1 := f }
    | _ => { x with f2 := f }
  match code.toNat with
  | 0 => if h = 0 then .ok x else .error .hole
  | 1 => .ok (put (0#1 ++ h))
  | 2 => .ok (put (1#1 ++ h))
  | _ => match immLsb x.wop with
      | some l => .ok { x with spec := putHole x.spec (l + 6 * k) h }
      | none => .error .hole

/-- The template with its holes placed and its hole map cleared (R77). -/
def expandHoles (t : Template) (h i j : BitVec 6) : Except Reject Wide :=
  let x := Wide.ofTemplate t
  match placeHole x 0 (x.hmap.extractLsb' 4 2) h with
  | .error e => .error e
  | .ok y => match placeHole y 1 (x.hmap.extractLsb' 2 2) i with
    | .error e => .error e
    | .ok z => match placeHole z 2 (x.hmap.extractLsb' 0 2) j with
      | .error e => .error e
      | .ok r => .ok { r with hmap := 0 }

/-- A field of SPEC. -/
def Wide.sp (x : Wide) (lo n : Nat) : BitVec n := x.spec.extractLsb' lo n

/-- Whether F0, F1, F2, N, RM, FA, FD named unused are zero (R73): a mask in the order listed, 1 for used. -/
def Wide.only (x : Wide) (f0 f1 f2 n rm fa fd : Bool) : Bool :=
  (f0 || x.f0 == 0) && (f1 || x.f1 == 0) && (f2 || x.f2 == 0) && (n || !x.n) && (rm || x.rm == 0) &&
    (fa || x.fa == 0) && (fd || x.fd == 0)

/-- LI to SEQI.W: destination, operand, 64-bit immediate (R80). -/
def Wide.dsImm (x : Wide) (f : Bool → SDst → SOp → Word → Instr) : Option Instr :=
  if x.only true true false true false false false ∧ x.sp 0 15 = 0 then
    match SDst.dec x.f0, SOp.dec x.f1 with
    | some d, some a => some (f x.n d a (x.sp 15 64))
    | _, _ => none
  else none

/-- The wide element-wise forms with SAT (R80). -/
def Wide.elemSat (x : Wide) (f : Rm → Bool → VDst → VOp → VOp → Fmt → Bool → Instr) : Option Instr :=
  if x.fa = x.fd ∧ x.sp 0 78 = 0 then
    match Rm.dec x.rm, VDst.dec x.f0, VOp.dec x.f1, VOp.dec x.f2 with
    | some m, some d, some a, some b => some (f m x.n d a b (Fmt.dec x.fa) (x.spec.getLsbD 78))
    | _, _, _, _ => none
  else none

/-- The wide element-wise forms without SAT (R80). -/
def Wide.elem (x : Wide) (f : Rm → Bool → VDst → VOp → VOp → Fmt → Instr) : Option Instr :=
  if x.fa = x.fd ∧ x.spec = 0 then
    match Rm.dec x.rm, VDst.dec x.f0, VOp.dec x.f1, VOp.dec x.f2 with
    | some m, some d, some a, some b => some (f m x.n d a b (Fmt.dec x.fa))
    | _, _, _, _ => none
  else none

/-- WACC.W and WGAC.W (R243). -/
def Wide.accum (x : Wide) (f : DOp → DOp → Fmt → Comb → Rm → Instr) : Option Instr :=
  if x.only true true false false true true false ∧ x.sp 0 76 = 0 then
    match DOp.dec x.f0, DOp.dec x.f1, Comb.dec (x.sp 76 3), Rm.dec x.rm with
    | some d, some a, some op, some m => some (f d a (Fmt.dec x.fa) op m)
    | _, _, _, _ => none
  else none

/-- The instruction of a template whose holes are placed, before the static checks (R80). -/
def Wide.dec (x : Wide) : Option Instr :=
  match x.wop.toNat with
  | 0x000 =>
    if x.only true false false true false false false ∧ x.sp 0 15 = 0 then
      (SDst.dec x.f0).map fun d => .li x.n d (x.sp 15 64)
    else none
  | 0x001 => x.dsImm .addiW
  | 0x002 => x.dsImm .andiW
  | 0x003 => x.dsImm .oriW
  | 0x004 => x.dsImm .xoriW
  | 0x005 => x.dsImm .muliW
  | 0x006 => x.dsImm .sltiW
  | 0x007 => x.dsImm .seqiW
  | 0x080 =>
    if x.f2 = 0 ∧ x.spec = 0 then
      match Rm.dec x.rm, SDst.dec x.f0, SOp.dec x.f1 with
      | some m, some d, some a => some (.fcvtW m x.n d a (Fmt.dec x.fd) (Fmt.dec x.fa))
      | _, _, _ => none
    else none
  | 0x081 =>
    if x.only true true true true false true false ∧ x.sp 0 76 = 0 then
      match pDec x.f0, SOp.dec x.f1, SOp.dec x.f2, Cond.dec (x.sp 76 3) with
      | some p, some a, some b, some c => some (.fcmpW x.n p a b (Fmt.dec x.fa) c)
      | _, _, _, _ => none
    else none
  | 0x100 => x.elemSat .vaddW
  | 0x101 => x.elemSat .vsubW
  | 0x102 => x.elemSat .vmulW
  | 0x103 => x.elem .vfmaW
  | 0x104 => x.elem .vmaxW
  | 0x105 => x.elem .vminW
  | 0x108 =>
    if x.f2 = 0 ∧ x.sp 0 76 = 0 then
      match Rm.dec x.rm, VDst.dec x.f0, VOp.dec x.f1 with
      | some m, some d, some a => some (.vcvt m x.n d a (Fmt.dec x.fd) (Fmt.dec x.fa) (x.sp 76 3))
      | _, _, _ => none
    else none
  | 0x110 =>
    if x.fa = x.fd ∧ x.f2 = 0 ∧ x.spec = 0 then
      match Rm.dec x.rm, VDst.dec x.f0, VOp.dec x.f1 with
      | some m, some d, some a => some (.vrsumW m x.n d a (Fmt.dec x.fa))
      | _, _, _ => none
    else none
  | 0x111 =>
    if x.fa = x.fd ∧ x.f2 = 0 ∧ x.rm = 0 ∧ x.spec = 0 then
      match VDst.dec x.f0, VOp.dec x.f1 with
      | some d, some a => some (.vrmaxW x.n d a (Fmt.dec x.fa))
      | _, _ => none
    else none
  | 0x118 =>
    if x.only true true false true false true false ∧ x.sp 0 73 = 0 then
      match VDst.dec x.f0, VOp.dec x.f1 with
      | some d, some a => some (.cselkW x.n d a (Fmt.dec x.fa) (x.sp 73 6))
      | _, _ => none
    else none
  | 0x180 =>
    if x.only true true true false false true false ∧ x.sp 0 48 = 0 then
      match aDec x.f0, VOp.dec x.f1, VOp.dec x.f2, Scm.dec (x.sp 48 2) with
      | some d, some a, some b, some scm =>
        some (.mmaW d a b ⟨Fmt.dec x.fa, Fmt.dec (x.sp 75 4), x.sp 65 10, x.sp 58 7, x.sp 51 7, x.spec.getLsbD 50, scm⟩)
      | _, _, _, _ => none
    else none
  | 0x181 =>
    if x.only true true true false true true false ∧ x.sp 0 43 = 0 then
      match aDec x.f0, VOp.dec x.f1, VOp.dec x.f2, Scm.dec (x.sp 69 2), Rm.dec x.rm with
      | some d, some a, some b, some scm, some m =>
        some (.mmcW d a b ⟨Fmt.dec x.fa, m, x.spec.getLsbD 78, x.sp 71 7, scm, x.spec.getLsbD 68, x.sp 59 9,
          x.spec.getLsbD 58, x.spec.getLsbD 57, x.sp 50 7, x.sp 43 7⟩)
      | _, _, _, _, _ => none
    else none
  | 0x182 =>
    if x.only false false false false false false false ∧ x.sp 0 69 = 0 then
      some (.cfoldW (x.spec.getLsbD 78) (x.sp 69 9))
    else none
  | 0x183 =>
    if x.only true false false false true false false ∧ x.sp 0 78 = 0 then
      match aDec x.f0, Rm.dec x.rm with
      | some d, some m => some (.cdrainW m d (x.spec.getLsbD 78))
      | _, _ => none
    else none
  | 0x200 =>
    if x.only true true false true false false false ∧ x.sp 0 44 = 0 then
      match SDst.dec x.f0, SOp.dec x.f1 with
      | some d, some a => some (.ldx x.n d a (Size.dec (x.sp 77 2)) (x.spec.getLsbD 76) (x.sp 44 32))
      | _, _ => none
    else none
  | 0x201 =>
    if x.only true true false false false false false ∧ x.sp 0 44 = 0 ∧ x.spec.getLsbD 76 = false then
      match SOp.dec x.f0, SOp.dec x.f1 with
      | some d, some a => some (.stx d a (Size.dec (x.sp 77 2)) (x.sp 44 32))
      | _, _ => none
    else none
  | 0x280 =>
    if x.only true true false false true true true ∧ x.sp 0 75 = 0 then
      match SOp.dec x.f0, DOp.dec x.f1, Rm.dec x.rm with
      | some d, some a, some m =>
        if x.spec.getLsbD 75 then some (.cpyW d a (x.sp 76 3) (some ⟨Fmt.dec x.fa, Fmt.dec x.fd, m⟩))
        else if x.fa = 0 ∧ x.fd = 0 ∧ x.rm = 0 then some (.cpyW d a (x.sp 76 3) none) else none
      | _, _, _ => none
    else none
  | 0x281 =>
    if x.only true true false false true true true ∧ x.sp 0 72 = 0 then
      match SOp.dec x.f0, DOp.dec x.f1, Rm.dec x.rm, Comb.dec (x.sp 72 3) with
      | some d, some a, some m, some op =>
        some (.cpyrW d a ⟨x.sp 76 3, x.spec.getLsbD 75, op, Fmt.dec x.fa, Fmt.dec x.fd, m⟩)
      | _, _, _, _ => none
    else none
  | 0x288 => x.accum .waccW
  | 0x289 => x.accum .wgacW
  | 0x300 =>
    if x.only false false false false false false false ∧ x.sp 0 47 = 0 then some (.brW (x.sp 47 32)) else none
  | 0x301 =>
    if x.only true false false true false false false ∧ x.sp 0 47 = 0 then
      (SDst.dec x.f0).map fun d => .jalW x.n d (x.sp 47 32)
    else none
  | 0x302 =>
    if x.only false true false false false false false ∧ x.sp 0 46 = 0 then
      (pDec x.f1).map fun p => .brpW (x.spec.getLsbD 46) p (x.sp 47 32)
    else none
  | 0x303 =>
    if x.only false true false false false false false ∧ x.sp 0 63 = 0 then
      (SOp.dec x.f1).map fun a => .loopW a (x.sp 63 16)
    else none
  | 0x304 =>
    if x.only false true false false false false false ∧ x.sp 0 60 = 0 then
      (SOp.dec x.f1).map fun a => .looppW (x.sp 60 3) a (x.sp 63 16)
    else none
  | 0x380 =>
    if x.only false true true false false false false ∧ x.sp 0 75 = 0 then
      match SOp.dec x.f1, SOp.dec x.f2, Scm.dec (x.sp 75 2) with
      | some a, some b, some scm => some (.sldW (x.spec.getLsbD 78) (x.spec.getLsbD 77) scm a b)
      | _, _, _ => none
    else none
  | 0x381 =>
    if x.only true false false false false false false ∧ x.sp 0 15 = 0 then
      (pDec x.f0).map fun d => .lysetW d (x.sp 15 64)
    else none
  | _ => none

/-- The wide opcodes of R80. -/
def wopAssigned (w : Nat) : Bool :=
  w ≤ 7 || w == 0x80 || w == 0x81 || (0x100 ≤ w && w ≤ 0x105) || w == 0x108 || w == 0x110 || w == 0x111 ||
    w == 0x118 || (0x180 ≤ w && w ≤ 0x183) || w == 0x200 || w == 0x201 || w == 0x280 || w == 0x281 || w == 0x288 ||
    w == 0x289 || (0x300 ≤ w && w ≤ 0x304) || w == 0x380 || w == 0x381

/-- The instruction of a template with its holes placed (R77 to R80). -/
def decodeWide (x : Wide) : Except Reject Instr :=
  if x.wop = 0x3FF then .error .undefinedEntry
  else if x.hmap ≠ 0 then .error .hole
  else match x.dec with
    | some i => if i.wf then .ok i else .error .staticField
    | none => if wopAssigned x.wop.toNat then .error .form else .error .unassigned

/-- The instruction a dictionary slot with these holes stands for under a template (R77, R79). -/
def expandSlot (t : Template) (h i j : BitVec 6) : Except Reject Instr :=
  if t.extractLsb' 118 10 = 0x3FF then .error .undefinedEntry
  else match expandHoles t h i j with
    | .error e => .error e
    | .ok x => decodeWide x

/-- The instruction of a template without holes. -/
def decodeTemplate (t : Template) : Except Reject Instr := decodeWide (Wide.ofTemplate t)

/-- The fields of a wide instruction, without holes (R80); none for any other. -/
def Instr.wide : Instr → Option Wide
  | .li n d imm => some ⟨0x000, 0, d.enc, 0, 0, n, 0, 0, 0, imm ++ 0#15⟩
  | .addiW n d a imm => some ⟨0x001, 0, d.enc, a.enc, 0, n, 0, 0, 0, imm ++ 0#15⟩
  | .andiW n d a imm => some ⟨0x002, 0, d.enc, a.enc, 0, n, 0, 0, 0, imm ++ 0#15⟩
  | .oriW n d a imm => some ⟨0x003, 0, d.enc, a.enc, 0, n, 0, 0, 0, imm ++ 0#15⟩
  | .xoriW n d a imm => some ⟨0x004, 0, d.enc, a.enc, 0, n, 0, 0, 0, imm ++ 0#15⟩
  | .muliW n d a imm => some ⟨0x005, 0, d.enc, a.enc, 0, n, 0, 0, 0, imm ++ 0#15⟩
  | .sltiW n d a imm => some ⟨0x006, 0, d.enc, a.enc, 0, n, 0, 0, 0, imm ++ 0#15⟩
  | .seqiW n d a imm => some ⟨0x007, 0, d.enc, a.enc, 0, n, 0, 0, 0, imm ++ 0#15⟩
  | .fcvtW m n d a fd fa => some ⟨0x080, 0, d.enc, a.enc, 0, n, m.enc, fa.enc, fd.enc, 0⟩
  | .fcmpW n p a b fa c => some ⟨0x081, 0, p7 p, a.enc, b.enc, n, 0, fa.enc, 0, c.enc ++ 0#76⟩
  | .vaddW m n d a b f sat => some ⟨0x100, 0, d.enc, a.enc, b.enc, n, m.enc, f.enc, f.enc, bit sat ++ 0#78⟩
  | .vsubW m n d a b f sat => some ⟨0x101, 0, d.enc, a.enc, b.enc, n, m.enc, f.enc, f.enc, bit sat ++ 0#78⟩
  | .vmulW m n d a b f sat => some ⟨0x102, 0, d.enc, a.enc, b.enc, n, m.enc, f.enc, f.enc, bit sat ++ 0#78⟩
  | .vfmaW m n d a b f => some ⟨0x103, 0, d.enc, a.enc, b.enc, n, m.enc, f.enc, f.enc, 0⟩
  | .vmaxW m n d a b f => some ⟨0x104, 0, d.enc, a.enc, b.enc, n, m.enc, f.enc, f.enc, 0⟩
  | .vminW m n d a b f => some ⟨0x105, 0, d.enc, a.enc, b.enc, n, m.enc, f.enc, f.enc, 0⟩
  | .vcvt m n d a fd fa part => some ⟨0x108, 0, d.enc, a.enc, 0, n, m.enc, fa.enc, fd.enc, part ++ 0#76⟩
  | .vrsumW m n d a f => some ⟨0x110, 0, d.enc, a.enc, 0, n, m.enc, f.enc, f.enc, 0⟩
  | .vrmaxW n d a f => some ⟨0x111, 0, d.enc, a.enc, 0, n, 0, f.enc, f.enc, 0⟩
  | .cselkW n d a f k => some ⟨0x118, 0, d.enc, a.enc, 0, n, 0, f.enc, 0, k ++ 0#73⟩
  | .mmaW d a b f =>
    some ⟨0x180, 0, 0#3 ++ d, a.enc, b.enc, false, 0, f.fa.enc, 0,
      f.fb.enc ++ f.k ++ f.m ++ f.n ++ bit f.acc ++ f.scm.enc ++ 0#48⟩
  | .mmcW d a b f =>
    some ⟨0x181, 0, 0#3 ++ d, a.enc, b.enc, false, f.rm.enc, f.fa.enc, 0,
      bit f.bank ++ f.k ++ f.scm.enc ++ bit f.fold ++ f.ebase ++ bit f.drn ++ bit f.acc ++ f.m ++ f.n ++ 0#43⟩
  | .cfoldW bank ebase => some ⟨0x182, 0, 0, 0, 0, false, 0, 0, 0, bit bank ++ ebase ++ 0#69⟩
  | .cdrainW m d acc => some ⟨0x183, 0, 0#3 ++ d, 0, 0, false, m.enc, 0, 0, bit acc ++ 0#78⟩
  | .ldx n d a sz sx imm => some ⟨0x200, 0, d.enc, a.enc, 0, n, 0, 0, 0, sz.enc ++ bit sx ++ imm ++ 0#44⟩
  | .stx d a sz imm => some ⟨0x201, 0, d.enc, a.enc, 0, false, 0, 0, 0, sz.enc ++ 0#1 ++ imm ++ 0#44⟩
  | .cpyW d a ly none => some ⟨0x280, 0, d.enc, a.enc, 0, false, 0, 0, 0, ly ++ 0#76⟩
  | .cpyW d a ly (some c) => some ⟨0x280, 0, d.enc, a.enc, 0, false, c.rm.enc, c.fa.enc, c.fd.enc, ly ++ 1#1 ++ 0#75⟩
  | .cpyrW d a f =>
    some ⟨0x281, 0, d.enc, a.enc, 0, false, f.rm.enc, f.fa.enc, f.fd.enc, f.ly ++ bit f.conv ++ f.op.enc ++ 0#72⟩
  | .waccW d a f op m => some ⟨0x288, 0, d.enc, a.enc, 0, false, m.enc, f.enc, 0, op.enc ++ 0#76⟩
  | .wgacW d a f op m => some ⟨0x289, 0, d.enc, a.enc, 0, false, m.enc, f.enc, 0, op.enc ++ 0#76⟩
  | .brW imm => some ⟨0x300, 0, 0, 0, 0, false, 0, 0, 0, imm ++ 0#47⟩
  | .jalW n d imm => some ⟨0x301, 0, d.enc, 0, 0, n, 0, 0, 0, imm ++ 0#47⟩
  | .brpW g p imm => some ⟨0x302, 0, 0, p7 p, 0, false, 0, 0, 0, imm ++ bit g ++ 0#46⟩
  | .loopW a off => some ⟨0x303, 0, 0, a.enc, 0, false, 0, 0, 0, off ++ 0#63⟩
  | .looppW g a off => some ⟨0x304, 0, 0, a.enc, 0, false, 0, 0, 0, off ++ g ++ 0#60⟩
  | .sldW q r scm a b => some ⟨0x380, 0, 0, a.enc, b.enc, false, 0, 0, 0, bit q ++ bit r ++ scm.enc ++ 0#75⟩
  | .lysetW d imm => some ⟨0x381, 0, p7 d, 0, 0, false, 0, 0, 0, imm ++ 0#15⟩
  | _ => none

/-- The template of a wide instruction, without holes. -/
def encodeTemplate (i : Instr) : Option Template := i.wide.map Wide.template

/-- The instruction the decoder reads from an instruction whose bits are w (spec/opcode_table.json's numbering):
a slot word when nbits is at most 32, a template when it is larger. -/
def decodeTableWord (nbits w : Nat) : Option Instr :=
  if nbits ≤ 32 then (decodeSlot (BitVec.ofNat 32 w)).toOption
  else (decodeTemplate (BitVec.ofNat 128 w)).toOption

end Sys2Proof
end

