-- ==== Sys2Proof/Machine/Maps.lean ====
section
/-! DEFINITION. Numbered tables, register vectors, bytes and byte memories: reads and writes. -/

namespace Sys2Proof

/-- What a byte that nothing has written reads as (R309, R384; assumption 2). -/
def unlisted : Byte := 0

/-- The canonical form of a memory: addresses strictly rising, no entry equal to an unlisted byte. -/
def Memory.wf : Memory → Bool
  | [] => true
  | [c] => c.2 != unlisted
  | c :: d :: r => c.2 != unlisted && decide (c.1 < d.1) && Memory.wf (d :: r)

namespace Machine

/-! ### Numbered tables -/

/-- The entry at k, or d where none is listed. -/
def fget {α : Type} (d : α) (m : FMap α) (k : Nat) : α :=
  match m with
  | [] => d
  | (k', v) :: r => if k = k' then v else fget d r k

/-- The entry at k, if one is listed. -/
def ffind {α : Type} (m : FMap α) (k : Nat) : Option α :=
  match m with
  | [] => none
  | (k', v) :: r => if k = k' then some v else ffind r k

/-- The table with entry k set to v. -/
def fput {α : Type} (m : FMap α) (k : Nat) (v : α) : FMap α :=
  match m with
  | [] => [(k, v)]
  | (k', v') :: r =>
    if k = k' then (k, v) :: r
    else if k < k' then (k, v) :: (k', v') :: r
    else (k', v') :: fput r k v

/-- The table without entry k. -/
def fdel {α : Type} (m : FMap α) (k : Nat) : FMap α := m.filter fun e => e.1 != k

/-! ### Register vectors -/

/-- Element i of a register vector. -/
def vget {α : Type} [Inhabited α] {n : Nat} (v : Vector α n) (i : Nat) : α := v.toArray.getD i default

/-- The vector with element i set. -/
def vset {α : Type} {n : Nat} (v : Vector α n) (i : Nat) (x : α) : Vector α n := v.setIfInBounds i x

/-! ### Bytes -/

/-- The little-endian value of bytes (R7). -/
def leNat : List Byte → Nat
  | [] => 0
  | b :: r => b.toNat + 256 * leNat r

/-- The low n bytes of a number, little-endian (R7). -/
def leBytes : Nat → Nat → List Byte
  | 0, _ => []
  | n + 1, x => BitVec.ofNat 8 x :: leBytes n (x / 256)

/-- The 512 bytes of a row. -/
def rowBytes (r : Row) : List Byte := leBytes 512 r.toNat

/-- The row of 512 bytes. -/
def rowOf (bs : List Byte) : Row := BitVec.ofNat 4096 (leNat bs)

/-- The granule of 64 bytes. -/
def granOf (bs : List Byte) : Granule := BitVec.ofNat 512 (leNat bs)

/-- The 64 bytes of a granule. -/
def granBytes (g : Granule) : List Byte := leBytes 64 g.toNat

/-! ### Byte memories -/

/-- The byte at an address. -/
def readByte (m : Memory) (a : Nat) : Byte := fget unlisted m a

/-- n bytes from an address upward. -/
def readBytes (m : Memory) (a : Nat) : Nat → List Byte
  | 0 => []
  | n + 1 => readByte m a :: readBytes m (a + 1) n

/-- The cells of bytes laid from an address upward, those that differ from an unlisted byte. -/
def cellsOf (a : Nat) : List Byte → Memory
  | [] => []
  | b :: r => if b = unlisted then cellsOf (a + 1) r else (a, b) :: cellsOf (a + 1) r

/-- The memory with bytes written from an address upward. -/
def writeBytes (m : Memory) (a : Nat) (bs : List Byte) : Memory :=
  m.filter (fun c => c.1 < a) ++ (cellsOf a bs ++ m.filter (fun c => a + bs.length ≤ c.1))

/-- The memory with n bytes from an address upward set to zero. -/
def zeroBytes (m : Memory) (a n : Nat) : Memory :=
  m.filter (fun c => c.1 < a) ++ m.filter (fun c => a + n ≤ c.1)

/-- The little-endian word of n bytes at an address. -/
def readLe (m : Memory) (a n : Nat) : Nat := leNat (readBytes m a n)

/-- The memory with the low n bytes of x written little-endian. -/
def writeLe (m : Memory) (a n x : Nat) : Memory := writeBytes m a (leBytes n x)

end Machine

end Sys2Proof
end

