-- ==== Sys2Proof/Machine/Float.lean ====
section
/-! DEFINITION. Number formats, rounding, conversions and the arithmetic of floating-point and integer elements (R15 to R32, R88 to R92, R121 to R130). -/

namespace Sys2Proof

/-- The fields of a floating-point format (R18, R21): exponent bits, mantissa bits, bias; (0, 0, 0) for the others. -/
def Fmt.par : Fmt → Nat × Nat × Int
  | .fp32 => (8, 23, 127)
  | .bf16 => (8, 7, 127)
  | .fp16 => (5, 10, 15)
  | .e5m2 => (5, 2, 15)
  | .e4m3 => (4, 3, 7)
  | .e2m1 => (2, 1, 1)
  | .e3m0 => (3, 0, 4)
  | _ => (0, 0, 0)

/-- Floating-point formats. -/
def Fmt.isFloat : Fmt → Bool
  | .fp32 | .bf16 | .fp16 | .e4m3 | .e5m2 | .e2m1 | .e3m0 => true
  | _ => false

/-- Formats with infinities (R18). -/
def Fmt.hasInf : Fmt → Bool
  | .fp32 | .bf16 | .fp16 | .e5m2 => true
  | _ => false

/-- Formats without NaN (R22). -/
def Fmt.noNan : Fmt → Bool
  | .e2m1 | .e3m0 => true
  | _ => false

/-- The canonical NaN of a format (R19). -/
def Fmt.qnan : Fmt → Nat
  | .fp32 => 0x7FC00000
  | .bf16 => 0x7FC0
  | .fp16 => 0x7E00
  | .e5m2 => 0x7E
  | .e4m3 => 0x7F
  | _ => 0

/-- The code of the largest finite magnitude (R18, R21). -/
def Fmt.maxCode (f : Fmt) : Nat :=
  match f with
  | .e4m3 => 0x7E
  | .e2m1 | .e3m0 => 7
  | _ => let (eb, mb, _) := f.par; (2 ^ eb - 1) * 2 ^ mb - 1

/-- The sign bit of a code. -/
def Fmt.signBit (f : Fmt) (neg : Bool) : Nat := if neg then 2 ^ (f.width - 1) else 0

/-- The code of an infinity. -/
def Fmt.infCode (f : Fmt) (neg : Bool) : Nat :=
  let (eb, mb, _) := f.par
  f.signBit neg + (2 ^ eb - 1) * 2 ^ mb

/-- The smallest and largest value of an integer format (R17). -/
def Fmt.range (f : Fmt) : Int × Int :=
  match f with
  | .uint8 => (0, 255)
  | _ => (-(2 ^ (f.width - 1)), 2 ^ (f.width - 1) - 1)

namespace Machine

/-- Exception flags as FPCTL holds them: IV DZ OF UF IX (R27). -/
abbrev Flags := BitVec 5

/-- The invalid flag. -/
def fIV : Flags := 0x10

/-- The divide-by-zero flag. -/
def fDZ : Flags := 0x08

/-- The overflow flag. -/
def fOF : Flags := 0x04

/-- The underflow flag. -/
def fUF : Flags := 0x02

/-- The inexact flag. -/
def fIX : Flags := 0x01

/-- The low n bits of an integer as two's complement (R17). -/
def signedOf (n : Nat) (x : Nat) : Int := (BitVec.ofNat n x).toInt

/-- An integer modulo 2 ^ n. -/
def wrapTo (n : Nat) (x : Int) : Nat := (BitVec.ofInt n x).toNat

/-- What an element of a floating-point format holds (R18, R19): a NaN, an infinity, or (-1)^neg m 2^e. -/
inductive FVal where
  | nan (signalling : Bool)
  | inf (neg : Bool)
  | fin (neg : Bool) (m : Nat) (e : Int)
deriving DecidableEq, Repr

/-- The value of a code (R18, R19, R21). -/
def fval (f : Fmt) (bits : Nat) : FVal :=
  let (eb, mb, bias) := f.par
  let x := bits % 2 ^ f.width
  let neg := x / 2 ^ (f.width - 1) == 1
  let ex := x / 2 ^ mb % 2 ^ eb
  let man := x % 2 ^ mb
  if f.hasInf ∧ ex = 2 ^ eb - 1 then
    if man = 0 then .inf neg else .nan (man / 2 ^ (mb - 1) == 0)
  else if f = .e4m3 ∧ ex = 15 ∧ man = 7 then .nan false
  else if ex = 0 then .fin neg man (1 - bias - mb)
  else .fin neg (2 ^ mb + man) (ex - bias - mb)

/-- Whether a rounding goes up in magnitude, from the parity of the lower code, the discarded part and half a unit. -/
def roundUp (m : Rm) (neg odd : Bool) (rem half : Nat) : Bool :=
  match m with
  | .rne => decide (rem > half) || (rem == half && odd)
  | .rtz => false
  | .rup => !neg
  | .rdn => neg
  | .rto => !odd

/-- m 2^e at quantum 2^q: the whole part, the discarded part, and half a unit of it. -/
def quantize (m : Nat) (e q : Int) : Nat × Nat × Nat :=
  if q ≤ e then (m * 2 ^ (e - q).toNat, 0, 1)
  else
    let s := (q - e).toNat
    (m / 2 ^ s, m % 2 ^ s, 2 ^ (s - 1))

/-- Rounding of the nonzero magnitude m 2^e at quantum 2^q whose codes start at `base`: the code and whether it is
inexact (R24). -/
def roundAt (m : Nat) (e q base : Int) (mode : Rm) (neg : Bool) : Int × Bool :=
  let (k, rem, half) := quantize m e q
  let lo := base + k
  if rem = 0 then (lo, false)
  else (if roundUp mode neg (lo % 2 != 0) rem half then lo + 1 else lo, true)

/-- What overflow delivers (R26). -/
def overflowCode (f : Fmt) (mode : Rm) (neg : Bool) : Nat :=
  if f.hasInf then
    match mode with
    | .rne => f.infCode neg
    | .rtz | .rto => f.signBit neg + f.maxCode
    | .rup => if neg then f.signBit true + f.maxCode else f.infCode false
    | .rdn => if neg then f.infCode true else f.maxCode
  else f.signBit neg + f.maxCode

/-- `round` of (-1)^neg m 2^e into a floating-point format, with the flags OF, UF and IX (R24 to R26, R28). A zero
keeps the sign given. -/
def roundF (f : Fmt) (mode : Rm) (neg : Bool) (m : Nat) (e : Int) : Nat × Flags :=
  if m = 0 then (f.signBit neg, 0)
  else
    let (_, mb, bias) := f.par
    let emin : Int := 1 - bias
    let top : Int := m.log2 + e
    let qmin : Int := emin - mb
    let q := max (top - mb) qmin
    let (code, ix) := roundAt m e q ((q - qmin) * 2 ^ mb) mode neg
    if code > f.maxCode then (overflowCode f mode neg, fOF ||| fIX)
    else
      let q' := top - mb
      let (c', _) := roundAt m e q' ((q' - qmin) * 2 ^ mb) mode neg
      let tiny := decide (top < emin) && decide (c' < 2 ^ mb)
      (f.signBit neg + code.toNat, (if ix then fIX else 0) ||| (if ix && tiny then fUF else 0))

/-- The sum of two signed dyadics. A zero sum of operands of unlike sign takes its sign by R25; two zeros of one sign keep it
(assumption 58). -/
def addDyadic (mode : Rm) (n1 : Bool) (m1 : Nat) (e1 : Int) (n2 : Bool) (m2 : Nat) (e2 : Int) : Bool × Nat × Int :=
  let e := min e1 e2
  let i1 : Int := m1 * 2 ^ (e1 - e).toNat
  let i2 : Int := m2 * 2 ^ (e2 - e).toNat
  let v := (if n1 then -i1 else i1) + (if n2 then -i2 else i2)
  if v = 0 then (if n1 = n2 then n1 else mode == .rdn, 0, e) else (decide (v < 0), v.natAbs, e)

/-- Whether a value is a NaN, and a signalling one. -/
def FVal.isNan : FVal → Bool
  | .nan _ => true
  | _ => false

/-- Whether a value is a signalling NaN. -/
def FVal.isSnan : FVal → Bool
  | .nan s => s
  | _ => false

/-- The NaN an operand makes of a result: invalid for a signalling one (R89). -/
def nanResult (f : Fmt) (snan : Bool) : Nat × Flags := (f.qnan, if snan then fIV else 0)

/-- A sum of two values (R89). -/
def addVal (f : Fmt) (mode : Rm) (x y : FVal) : Nat × Flags :=
  if x.isNan || y.isNan then nanResult f (x.isSnan || y.isSnan)
  else match x, y with
    | .inf a, .inf b => if a = b then (f.infCode a, 0) else (f.qnan, fIV)
    | .inf a, _ => (f.infCode a, 0)
    | _, .inf b => (f.infCode b, 0)
    | .fin n1 m1 e1, .fin n2 m2 e2 =>
      let (n, m, e) := addDyadic mode n1 m1 e1 n2 m2 e2
      roundF f mode n m e
    | _, _ => (f.qnan, 0)

/-- The value with its sign turned. -/
def FVal.neg : FVal → FVal
  | .inf n => .inf !n
  | .fin n m e => .fin (!n) m e
  | v => v

/-- The exact product of two values; `none` for 0 times an infinity (R89). -/
def mulExact (x y : FVal) : Option FVal :=
  match x, y with
  | .inf a, .inf b => some (.inf (a != b))
  | .inf a, .fin b m _ => if m = 0 then none else some (.inf (a != b))
  | .fin a m _, .inf b => if m = 0 then none else some (.inf (a != b))
  | .fin a m e, .fin b k g => some (.fin (a != b) (m * k) (e + g))
  | v, _ => some v

/-- A product of two values (R89). -/
def mulVal (f : Fmt) (mode : Rm) (x y : FVal) : Nat × Flags :=
  if x.isNan || y.isNan then nanResult f (x.isSnan || y.isSnan)
  else match mulExact x y with
    | none => (f.qnan, fIV)
    | some (.inf n) => (f.infCode n, 0)
    | some (.fin n m e) => roundF f mode n m e
    | some (.nan _) => (f.qnan, 0)

/-- A fused multiply-add: the product is not rounded (R89). -/
def fmaVal (f : Fmt) (mode : Rm) (x y z : FVal) : Nat × Flags :=
  if x.isNan || y.isNan || z.isNan then nanResult f (x.isSnan || y.isSnan || z.isSnan)
  else match mulExact x y with
    | none => (f.qnan, fIV)
    | some p => addVal f mode p z

/-- FADD and VADD. -/
def fAdd (f : Fmt) (m : Rm) (a b : Nat) : Nat × Flags := addVal f m (fval f a) (fval f b)

/-- FSUB and VSUB: a NaN keeps its kind. -/
def fSub (f : Fmt) (m : Rm) (a b : Nat) : Nat × Flags := addVal f m (fval f a) (fval f b).neg

/-- FMUL and VMUL. -/
def fMul (f : Fmt) (m : Rm) (a b : Nat) : Nat × Flags := mulVal f m (fval f a) (fval f b)

/-- FFMA and VFMA: a b + c. -/
def fFma (f : Fmt) (m : Rm) (a b c : Nat) : Nat × Flags := fmaVal f m (fval f a) (fval f b) (fval f c)

/-- The order of two numbers as reals: an integer below, at or above zero. -/
def cmpVal (x y : FVal) : Int :=
  match x, y with
  | .inf a, .inf b => if a = b then 0 else if a then -1 else 1
  | .inf a, _ => if a then -1 else 1
  | _, .inf b => if b then 1 else -1
  | .fin n1 m1 e1, .fin n2 m2 e2 =>
    let e := min e1 e2
    let i1 : Int := m1 * 2 ^ (e1 - e).toNat
    let i2 : Int := m2 * 2 ^ (e2 - e).toNat
    (if n1 then -i1 else i1) - (if n2 then -i2 else i2)
  | _, _ => 0

/-- The sign of a value. -/
def FVal.isNeg : FVal → Bool
  | .inf n => n
  | .fin n _ _ => n
  | .nan _ => false

/-- FMIN and FMAX: an operand's own pattern (R90). -/
def fMinMax (isMax : Bool) (f : Fmt) (a b : Nat) : Nat × Flags :=
  let x := fval f a
  let y := fval f b
  let fl : Flags := if x.isSnan || y.isSnan then fIV else 0
  let a' := a % 2 ^ f.width
  let b' := b % 2 ^ f.width
  if x.isNan && y.isNan then (f.qnan, fl)
  else if x.isNan then (b', fl)
  else if y.isNan then (a', fl)
  else
    let c := cmpVal x y
    let aLess := decide (c < 0) || (c == 0 && x.isNeg && !y.isNeg)
    (if aLess != isMax then a' else b', fl)

/-- FCMP, FCMP.W and VCMP: the condition and IV (R91). -/
def fCmp (c : Cond) (f : Fmt) (a b : Nat) : Bool × Flags :=
  let x := fval f a
  let y := fval f b
  let un := x.isNan || y.isNan
  let sn : Flags := if x.isSnan || y.isSnan then fIV else 0
  let an : Flags := if un then fIV else 0
  match c with
  | .eq => (!un && cmpVal x y == 0, sn)
  | .ne => (un || cmpVal x y != 0, sn)
  | .lt => (!un && decide (cmpVal x y < 0), an)
  | .le => (!un && decide (cmpVal x y ≤ 0), an)
  | .un => (un, sn)

/-- An integer clamped to a format's range. -/
def clampTo (f : Fmt) (v : Int) : Int := max f.range.1 (min f.range.2 v)

/-- The integer an element of an integer format holds (R17, R43). -/
def ival (f : Fmt) (bits : Nat) : Int :=
  match f with
  | .uint8 => (bits % 256 : Nat)
  | _ => signedOf f.width bits

/-- A floating-point value rounded to an integer and saturated (R31, R32). -/
def toIntF (fd : Fmt) (mode : Rm) (x : FVal) : Nat × Flags :=
  match x with
  | .nan _ => (0, fIV)
  | .inf n => (wrapTo fd.width (if n then fd.range.1 else fd.range.2), fIV)
  | .fin n m e =>
    let (k, ix) := roundAt m e 0 0 mode n
    let v : Int := if n then -k else k
    if v < fd.range.1 ∨ v > fd.range.2 then (wrapTo fd.width (clampTo fd v), fIV)
    else (wrapTo fd.width v, if ix then fIX else 0)

/-- A value of one format delivered to a floating-point format (R31, R32). -/
def toFloatF (fd : Fmt) (mode : Rm) (x : FVal) : Nat × Flags :=
  match x with
  | .nan s => if fd.noNan then (0, fIV) else (fd.qnan, if s then fIV else 0)
  | .inf n => if fd.hasInf then (fd.infCode n, 0) else (fd.signBit n + fd.maxCode, fOF ||| fIX)
  | .fin n m e => roundF fd mode n m e

/-- A conversion of one element (R31, R32). The result stands in the low bits of the target's width. -/
def cvt (fa fd : Fmt) (mode : Rm) (bits : Nat) : Nat × Flags :=
  if fa.isFloat then
    if fd.isFloat then toFloatF fd mode (fval fa bits) else toIntF fd mode (fval fa bits)
  else
    let v := ival fa bits
    if fd.isFloat then
      if v = 0 then (0, 0) else roundF fd mode (decide (v < 0)) v.natAbs 0
    else (wrapTo fd.width (clampTo fd v), 0)

/-! ### Exponential, logarithm, reciprocal, reciprocal square root (R123) -/

/-- floor (2^256 ln 2). -/
def ln2 : Nat := 80260960185991308862233904206310070533990667611589946606122867505419956976171

/-- The series of exp with n terms left: acc + term (x / k) (x / (k + 1)) ..., fixed point of 256 bits. -/
def expSeries : Nat → Nat → Nat → Nat → Nat → Nat
  | 0, _, _, _, acc => acc
  | n + 1, k, x, term, acc =>
    let t := term * x / 2 ^ 256 / k
    expSeries n (k + 1) x t (acc + t)

/-- 2^x of a finite value, rounded RNE into FP32: exact for an integer x, otherwise irrational, so a sticky bit below
the computed ones decides as the exact value would (assumption 10). -/
def exp2F (n : Bool) (m : Nat) (e : Int) : Nat × Flags :=
  if m = 0 then roundF .fp32 .rne false 1 0
  else if (m.log2 : Int) + e ≥ 10 then
    if n then roundF .fp32 .rne false 1 (-1000) else roundF .fp32 .rne false 1 1000
  else
    -- x in units of 2^-200: exact, or below 2^-176 in magnitude and then only its sign matters
    let (k, r, _) := quantize m e (-200)
    let k' := if r = 0 then k else k + 1
    let v : Int := if n then -k' else k'
    let whole := v / 2 ^ 200
    let frac := (v % 2 ^ 200).toNat
    if frac = 0 then roundF .fp32 .rne false 1 whole
    else
      let y := expSeries 80 1 (frac * ln2 / 2 ^ 200) (2 ^ 256) (2 ^ 256)
      roundF .fp32 .rne false (2 * (y / 2 ^ 56) + 1) (whole - 201)

/-- The fraction bits of log2 of y / 2^400 in [1, 2), by repeated squaring. -/
def log2Bits : Nat → Nat → Nat → Nat
  | 0, _, acc => acc
  | n + 1, y, acc =>
    let z := y * y / 2 ^ 400
    if z ≥ 2 ^ 401 then log2Bits n (z / 2) (2 * acc + 1) else log2Bits n z (2 * acc)

/-- log2 of a positive value, rounded RNE into FP32: exact for a power of two, otherwise irrational (assumption 10). The zero
that is log2 of 1 has no sign in R25 or R123: the model gives +0 (assumption 97). -/
def log2F (m : Nat) (e : Int) : Nat × Flags :=
  let top : Int := m.log2 + e
  if m = 2 ^ m.log2 then roundF .fp32 .rne (decide (top < 0)) top.natAbs 0
  else
    let frac := log2Bits 140 (m * 2 ^ 400 / 2 ^ m.log2) 0
    let v : Int := top * 2 ^ 140 + frac
    if v < 0 then roundF .fp32 .rne true (2 * (v.natAbs - 1) + 1) (-141)
    else roundF .fp32 .rne false (2 * v.natAbs + 1) (-141)

/-- 1 / x of a nonzero value, rounded RNE into FP32. -/
def rcpF (n : Bool) (m : Nat) (e : Int) : Nat × Flags :=
  let q := 2 ^ 100 / m
  roundF .fp32 .rne n (2 * q + (if q * m = 2 ^ 100 then 0 else 1)) (-e - 101)

/-- floor of the square root, by bits from 2^k down. -/
def isqrt : Nat → Nat → Nat → Nat
  | 0, r, _ => r
  | k + 1, r, x => let t := r + 2 ^ k; if t * t ≤ x then isqrt k t x else isqrt k r x

/-- 1 / sqrt x of a positive value, rounded RNE into FP32. -/
def rsqF (m : Nat) (e : Int) : Nat × Flags :=
  let (m', e') := if e % 2 = 0 then (m, e) else (2 * m, e - 1)
  let r := isqrt 110 0 (2 ^ 200 / m')
  roundF .fp32 .rne false (2 * r + (if r * r * m' = 2 ^ 200 then 0 else 1)) (-(e' / 2) - 101)

/-- VEXP2 of an FP32 element (R123). -/
def fExp2 (a : Nat) : Nat × Flags :=
  match fval .fp32 a with
  | .nan s => nanResult .fp32 s
  | .inf n => (if n then 0 else Fmt.fp32.infCode false, 0)
  | .fin n m e => exp2F n m e

/-- VLOG2 of an FP32 element (R123). -/
def fLog2 (a : Nat) : Nat × Flags :=
  match fval .fp32 a with
  | .nan s => nanResult .fp32 s
  | .inf n => if n then (Fmt.fp32.qnan, 0) else (Fmt.fp32.infCode false, 0)
  | .fin n m e => if m = 0 then (Fmt.fp32.infCode true, 0) else if n then (Fmt.fp32.qnan, 0) else log2F m e

/-- VRCP of an FP32 element (R123). -/
def fRcp (a : Nat) : Nat × Flags :=
  match fval .fp32 a with
  | .nan s => nanResult .fp32 s
  | .inf n => (Fmt.fp32.signBit n, 0)
  | .fin n m e => if m = 0 then (Fmt.fp32.infCode n, fDZ) else rcpF n m e

/-- VRSQ of an FP32 element (R123). -/
def fRsq (a : Nat) : Nat × Flags :=
  match fval .fp32 a with
  | .nan s => nanResult .fp32 s
  | .inf n => if n then (Fmt.fp32.qnan, fIV) else (0, 0)
  | .fin n m e =>
    if m = 0 then (Fmt.fp32.infCode n, fDZ) else if n then (Fmt.fp32.qnan, fIV) else rsqF m e

/-- VABS and VNEG of an FP32 element: the sign bit alone changes, a NaN becomes the canonical one (R122). -/
def fSign (neg : Bool) (a : Nat) : Nat × Flags :=
  let x := fval .fp32 a
  if x.isNan then nanResult .fp32 x.isSnan
  else
    let mag := a % 2 ^ 31
    (if neg then (if x.isNeg then mag else mag + 2 ^ 31) else mag, 0)

/-! ### Fold elements (R44, R45) -/

/-- The largest fold value. -/
def foldMax : Int := 2 ^ 95 - 1

/-- The sum of two FLD elements (R45). -/
def addFld (x y : Nat) : Nat :=
  let part (z : Nat) : Int × Int × Bool := (signedOf 96 z, signedOf 9 (z / 2 ^ 96), z / 2 ^ 112 % 2 == 1)
  let (f1, e1, r1) := part x
  let (f2, e2, r2) := part y
  let e := min e1 e2
  let s := f1 * 2 ^ (e1 - e).toNat + f2 * 2 ^ (e2 - e).toNat
  let c := max (-foldMax - 1) (min foldMax s)
  wrapTo 96 c + wrapTo 9 e * 2 ^ 96 + (if r1 || r2 || s != c then 2 ^ 112 else 0)

/-- An element as the module writes it: the bits of a FLD element that R44 does not name are zero. -/
def writtenElem (f : Fmt) (x : Nat) : Nat := if f = .fld then x % 2 ^ 105 + x / 2 ^ 112 % 2 * 2 ^ 112 else x

/-- The combination of two elements by a reduce or an accumulate (R44, R221, R246): t with operand x. -/
def combine (f : Fmt) (c : Comb) (m : Rm) (t x : Nat) : Nat :=
  match c with
  | .repl => writtenElem f x
  | .sum =>
    if f.isFloat then (fAdd f m t x).1
    else if f = .fld then addFld t x
    else (t + x) % 2 ^ f.width
  | .min | .max =>
    if f.isFloat then (fMinMax (c == .max) f t x).1
    else
      let a := ival f t
      let b := ival f x
      wrapTo f.width (if c = .min then min a b else max a b)

end Machine

end Sys2Proof
end

