-- ==== Sys2Proof/Machine/State.lean ====
section
/-! DEFINITION. The state of one module as plain data: every register, queue, memory, engine and table the spec names, and the state right after reset. -/

namespace Sys2Proof.Machine

/-! ### Faults and refusals -/

/-- Why the machine stops. -/
inductive Fault where
  /-- Raised by `step` alone, at any turn but a power-on, when Lovage has stopped the module (R397): nothing of it acts any
  more. Safe. -/
  | moduleStopped
deriving DecidableEq, Repr

/-- Why an instruction has no meaning. -/
inductive Refusal where
  /-- Raised by an arm of `exec` whose instruction has no meaning yet. Safe: the machine stops where the hardware goes on. -/
  | notModelled (mnemonic : String)
deriving DecidableEq, Repr

/-! ### The scalar thread of a tile or a sequencer context -/

/-- Trap levels (R318). -/
inductive Lvl where
  | tl0 | tl1 | tl2
deriving DecidableEq, Repr, Inhabited

/-- One delayed write of an exposed pipeline (R62, R66, R104, R109, R135, R217). -/
inductive Act where
  | latch (pos : Nat) (v : Row)
  | sreg (i : BitVec 5) (v : Word)
  | so (i : BitVec 3) (v : Word)
  | vo (i : BitVec 3) (v : Row)
  | trow (k : Nat) (v : Row)             -- row 32 g + r of the tile file
  | pred (i : BitVec 3) (b : Bool)
  | sb (v : BitVec 5)
  | cursor (i : BitVec 3) (v : BitVec 5)
  | layout (i : BitVec 3) (v : Word)
  | sysw (num : BitVec 14) (v : Word)
  | flags (f : BitVec 5)                 -- FPCTL IV DZ OF UF IX (R27)
  | accRow (k : Nat) (v : Row)           -- row 128 i + r of the accumulator store
deriving DecidableEq, Repr

/-- A delayed write: the issue cycle from which it is visible, and the bundle that issued it (R67). -/
structure Pend where
  due : Nat
  seq : Nat
  act : Act
deriving DecidableEq, Repr

/-- An outstanding answer of a nominal load or atomic (R69). `value` is the old word once an atomic has performed. -/
structure Load where
  id : Nat
  due : Nat
  seq : Nat
  pos : Nat
  dest : Option SDst                     -- none when N is 1
  va : Word
  pa : Nat
  size : Nat
  signed : Bool
  cached : Bool                          -- a load of a G = 0 page goes through the data cache (R206)
  atomic : Bool
  value : Option Word
deriving DecidableEq, Repr

/-- The atomic operations (R210). -/
inductive AOp where
  | add | min | max | xchg | cas | fadd
deriving DecidableEq, Repr

/-- What waits for an atomic unit (R209, R211). -/
inductive PostOp where
  | store (bytes : List Byte)
  | atomic (op : AOp) (size : Nat) (x e : Word)
deriving DecidableEq, Repr

/-- A posted write on its way to its atomic unit (R209, R274). -/
structure Post where
  id : Nat
  pa : Nat
  scope : Scope
  op : PostOp
  took : Option Nat                      -- the first of its agent's loads that has taken its bytes before it performs (R270)
deriving DecidableEq, Repr

/-- A bypass latch and the issue cycle at which its value landed (R59, R325). -/
structure Latch where
  val : Row
  landed : Nat
deriving DecidableEq, Repr, Inhabited

/-- The state banked by trap level (R318); `n` is the issue cycle of the next bundle of the level. -/
structure Bank where
  pc : Word
  sb : BitVec 5
  p : BitVec 8                           -- bit 0 is p0 and reads 1
  hi : Vector Word 4                     -- s28 to s31
  lat : Vector Latch 8
  pend : List Pend
  loads : List Load
  n : Nat
deriving DecidableEq, Repr

/-- An entry of the loop stack (R98). -/
structure LoopEntry where
  start : Word
  endPc : Word
  rem : BitVec 32
  pipelined : Bool
  stages : BitVec 3                      -- S - 1
  saved : BitVec 8
deriving DecidableEq, Repr, Inhabited

/-- The trap registers of one level (R319). -/
structure TrapRegs where
  epc : Word
  cause : Word
  addr : Word
  stat : Word
  hbase : Word
  qcap : Word
deriving DecidableEq, Repr

/-- The scalar state of a tile or of a sequencer context (R298, R318). -/
structure Thread where
  lvl : Lvl
  b0 : Bank
  b1 : Bank
  b2 : Bank
  s : Vector Word 28
  ps : BitVec 8
  loops : List LoopEntry                 -- top first
  li : Vector Word 6
  fpctl : Word
  tr1 : TrapRegs
  tr2 : TrapRegs
  issue : Word
  bundles : Nat                          -- bundles issued or tried, the model's own numbering
  posts : List Post
  readyAt : Nat                          -- the cycle before which nothing issues (R70)
deriving DecidableEq, Repr

/-! ### Tiles -/

/-- States of a handle slot (R225). -/
inductive HState where
  | free | alloc | busy | orphan
deriving DecidableEq, Repr, Inhabited

/-- A slot of the handle table (R224). -/
structure HSlot where
  st : HState
  gen : BitVec 8
  og : Option (BitVec 8)
  loc : Bool
  rem : Bool
  err : BitVec 8
  evt : Bool
deriving DecidableEq, Repr

/-- What a tile knows of a lock it asked for (R257, R262). -/
inductive LockSt where
  | requested | held | refused
deriving DecidableEq, Repr

/-- An entry of the window directory (R235). -/
structure WDir where
  isOpen : Bool
  gen : BitVec 8
  started : Option Word                  -- the group of the started access epoch
  posted : Bool                          -- the tile's own post, not yet waited out
  locks : List (Nat × LockSt)            -- by target rank
  notices : List Nat                     -- post notices not yet consumed: owner ranks, oldest first
  fence : Bool                           -- a fence epoch is open
deriving DecidableEq, Repr

/-- A request that a waiting bundle registers (R143, R237, R238, R251, R257). -/
inductive WaitReq where
  | lease
  | wopen (base ctl : Word)
  | wfen (wid : BitVec 8) (nosucc : Bool)
  | wdrop (wid : BitVec 8)
  | wlock (wid : BitVec 8) (rank : Nat) (ex : Bool)
deriving DecidableEq, Repr

/-- A dictionary bank: its listed entries, its tag (R172, R186), and what an entry that is not listed is: undefined, or the
zero that Lovage wrote into the dictionaries of a cluster (R384). -/
structure DictBank where
  entries : FMap Template
  tag : Word
  blank : Option Template
deriving DecidableEq, Repr

/-- A load window (R179): the bank, the bank as it was before the load with the entries that were damaged in it, and the
last issue cycle inside. -/
structure LoadWin where
  bank : Bool
  old : DictBank
  bad : List Nat
  last : Nat
deriving DecidableEq, Repr

/-- A DLOAD whose stall has not ended (R174): bank, view and linear offset of the image, entry count, tag to write,
the granules already read, and whether the bank was the active one at its issue (R179). -/
structure Fill where
  bank : Bool
  addr : Nat
  count : Nat
  tag : Word
  got : FMap Granule
  opens : Bool
deriving DecidableEq, Repr

/-- Whether a tile issues (R307, R331, R107). -/
inductive Run where
  | free                                 -- bound to no launch
  | running
  | parked                               -- at a STEP, for a cut
  | ended                                -- END has issued
  | stopped                              -- killed or halted, not yet freed (R326, R327)
deriving DecidableEq, Repr, Inhabited

/-- A count-mode event whose trap the holder takes at its next boundary, with the array cycle it came at (R168). -/
structure Late where
  at_ : Nat
  cause : BitVec 8
  addr : Word
  pos : Nat
deriving DecidableEq, Repr

/-- One state of a granule: whether the write that led to it went through the swizzled view, or the operation of an engine
that wrote it (R198). -/
structure ViewState where
  content : Granule
  swz : Option Bool
  op : Option Nat
deriving DecidableEq, Repr

/-- A tile: its thread and everything the launch, the vector unit, the dictionary, the handles and the scratchpad
keep for it. -/
structure Tile where
  th : Thread
  run : Run
  part : BitVec 6                        -- partition and launch slot the tile is bound to
  slot : BitVec 4
  rank : BitVec 16
  tx : BitVec 8
  ty : BitVec 8
  tz : BitVec 8
  ts : BitVec 8
  nrank : BitVec 17
  param : Word
  imageId : BitVec 32
  stepNo : BitVec 14
  stepCnt : Word
  t : FMap Row
  so : Vector Word 8
  cur : Vector (BitVec 5) 8
  vo : Vector Row 8
  acc : FMap Row
  q0 : List Word
  ovf : Bool
  lost : BitVec 16
  q1 : List Word
  q2 : List Row
  q3 : List Row
  ly : Vector Word 8
  handles : FMap HSlot
  dirs : FMap WDir
  spad : Memory                          -- by linear-view offset
  views : FMap (List ViewState)          -- by granule, newest first, since the last VJOIN
  bank0 : DictBank
  bank1 : DictBank
  dsel : Bool
  selLast : Option Nat                   -- the last issue cycle of the open selection windows
  loadWins : List LoadWin
  fill : Option Fill
  dcache : List Nat                      -- lines held, by HBM physical address / 64; at most 512 (R206)
  cutPending : Bool
  cutSrc : BitVec 2
  reported : Bool                        -- parked and its STEPCNT has reached the reduction tree
  astat : BitVec 5                       -- FRNG CSAT IV OF IX
  late : List Late
  lease : Option Bool                    -- asked for by the MLEASE that waits: not yet granted, or granted
  req : Option WaitReq                   -- a window request of a waiting bundle, and what has been granted it
  grant : Option Word
  notify : List (Word × Nat)             -- notify records at the port waiting for q1, with their operation
  ddat : BitVec 128
  served : Nat                           -- stall cycles of bank conflicts served for the next bundle (R197)
  hasEnded : Bool                        -- END has issued in this launch (R232)
deriving DecidableEq, Repr

/-! ### The matrix array -/

/-- The tag of a counter bank (R158); no format is an empty bank. -/
structure BankTag where
  fmt : Option Fmt
  off : Int
  mix : Bool
deriving DecidableEq, Repr

/-- A counter bank of a cell (R38). -/
structure CBank where
  cnt : Vector (BitVec 8) 32
  tag : BankTag
deriving DecidableEq, Repr

/-- A fold register (R39). -/
structure Fold where
  f : BitVec 96
  ebase : Option (BitVec 9)
  count : Nat
  flag : Bool
deriving DecidableEq, Repr

/-- A cell of the array in count mode (R158). -/
structure Cell where
  b0 : CBank
  b1 : CBank
  fold : Fold
  sat : Bool
deriving DecidableEq, Repr

/-- A scale group (R155): the array cycle from which it can be claimed, its tag, its 128 scales. -/
structure ScaleGroup where
  at_ : Nat
  scm : Scm
  sc : List Nat
deriving DecidableEq, Repr

/-- An operand descriptor (R149). -/
structure OperDesc where
  stride : Nat
  swz : Bool
  owner : BitVec 2
  addr : Nat
deriving DecidableEq, Repr

/-- A matrix command as the array runs it (R141, R152, R159, R162), with the scale groups it claimed. -/
inductive ACmd where
  | mma (d : BitVec 4) (f : MmaF) (a b : OperDesc) (ga gb : List (List Nat))
  | mmc (d : BitVec 4) (f : MmcF) (a b : OperDesc) (ga gb : List (List Nat))
  | cfold (bank : Bool) (ebase : BitVec 9)
  | cmerge (into1 : Bool)
  | cclr
  | aclr (d : BitVec 4)
  | cdrain (d : BitVec 4) (m : Rm) (acc : Bool)
  | csave (w : Img) (swz : Bool) (addr : Nat)
  | cload (w : Img) (swz : Bool) (addr : Nat)
deriving DecidableEq, Repr

/-- A command in a run: its issue, its captured enables (R29), and what it has read so far. -/
structure ARec where
  seq : Nat
  pos : Nat
  pc : Word
  csatTe : Bool
  frngTe : Bool
  cmd : ACmd
  sliceA : FMap (List Byte)
  sliceB : FMap (List Byte)
  cells : FMap Cell                      -- read by a CSAVE
  bytes : List Byte                      -- read by a CLOAD
deriving DecidableEq, Repr

/-- What a perform point does (R168). -/
inductive APoint where
  | slice (k : Nat)
  | write
  | block (b : Nat)
  | drain
  | read
deriving DecidableEq, Repr

/-- A pending perform point: its array cycle and its command (R141, R142). -/
structure APerf where
  due : Nat
  cmd : Nat
  point : APoint
deriving DecidableEq, Repr

/-- The matrix array of a cluster (R140 to R158). -/
structure MatArray where
  holder : Option (BitVec 2)
  last : BitVec 2
  age : Nat
  ncmd : Nat
  spent : Bool                           -- released or spent (R145)
  free : Bool                            -- cycles pass without the holder's issue (R140, R143)
  streamEnd : Nat
  cellEnd : Nat
  next : Nat                             -- number of the next command
  cmds : FMap ARec
  perfs : List APerf
  cells : FMap Cell                      -- by 128 i + j
  sa : List ScaleGroup
  sb : List ScaleGroup
  runA : Nat
  runB : Nat
deriving DecidableEq, Repr

/-! ### Copies, windows, collectives -/

/-- A copy as it was checked at issue (R215 to R219). -/
structure CopyP where
  src : Nat
  dst : Nat
  src2 : Nat
  rows : Nat
  rlen : Nat                             -- bytes per source row
  dlen : Nat                             -- bytes per destination row
  sstride : Nat                          -- bytes
  dstride : Nat
  conv : Option Conv
  red : Option (Fmt × Comb × Rm)
  strm : Option Bool                     -- a row stream: q3 when true
deriving DecidableEq, Repr

/-- The window transfers (R243). -/
inductive WKind where
  | get | str | strn | acc | gac | cas
deriving DecidableEq, Repr

/-- A window transfer as it was checked at issue (R240, R241). -/
structure WinP where
  kind : WKind
  laddr : Nat
  target : BitVec 11
  rank : BitVec 16
  wid : BitVec 8
  gen : BitVec 8
  off : Nat
  len : Nat
  esz : Nat
  tag : BitVec 8
  f : Fmt
  comb : Comb
  rm : Rm
deriving DecidableEq, Repr

/-- What an operation in flight is. -/
inductive OpKind where
  | copy (p : CopyP)
  | win (p : WinP)
  | coll (entry : BitVec 9)
deriving DecidableEq, Repr

/-- An operation in flight at a cluster's engines (R214, R242, R361): the handle it reports to and its progress. -/
structure Op where
  tile : BitVec 11
  slot : BitVec 8
  gen : BitVec 8
  evt : Bool
  kind : OpKind
  chan : Option (BitVec 2)
  began : Nat                            -- the cycle at which its channel took it
  loc : Bool
  buf : FMap Granule                     -- source granules read
  done : List Nat                        -- destination granules, packets or rows finished
  sent : Nat                             -- packets sent
  accepted : Option (BitVec 8)           -- the port's decision: 0 or an error code (R248)
  answers : FMap (List Byte)             -- fetched packets, by number
  wrote : List Nat                       -- granules of fetched bytes written locally
  elem : Nat                             -- elements of the packet at its port that have applied (R264)
  part : List Byte                       -- what those elements have fetched
  failed : BitVec 8                      -- an error met on the way
deriving DecidableEq, Repr

/-- What travels from one tile to another tile's port in issue order (R242, R255, R259, R347); a notice has a number of the
same count as operations. -/
inductive FlowItem where
  | packet (op : Nat) (k : Nat) (bytes : List Byte)
  | completion (id : Nat) (wid gen : BitVec 8)
  | release (id : Nat) (wid gen : BitVec 8)
deriving DecidableEq, Repr

/-- A flow: its items, oldest first, and the cycle of the refusal of its head (R348). -/
structure Flow where
  items : List FlowItem
  refused : Option Nat
deriving DecidableEq, Repr

/-- A request of an entry's queue (R258): a lock by a tile, the owner's post, a fence switch. -/
inductive WReq where
  | lock (t : BitVec 11) (ex : Bool)
  | post (group : Word)
  | fence (nosucc : Bool)
deriving DecidableEq, Repr

/-- The epoch state of a window entry (R234, R261). -/
inductive Epoch where
  | closed
  | fence
  | posted (group : Word) (done : List Nat) -- the members whose completion notice has arrived
  | lockedSh (holders : List (BitVec 11))
  | lockedEx (holder : BitVec 11)
deriving DecidableEq, Repr

/-- An entry of a cluster port's window table (R234), with the rank it belongs to. -/
structure WEntry where
  rank : BitVec 16
  gen : BitVec 8
  base : Nat
  len : Nat
  rd : Bool
  w : Bool
  a : Bool
  evt : Bool
  epoch : Epoch
  queue : List WReq
deriving DecidableEq, Repr

/-- A lock, post or fence request on its way to a port (R253, R257, R258). -/
structure ReqMsg where
  id : Nat
  origin : BitVec 11
  target : BitVec 11
  wid : BitVec 8
  req : WReq
  refused : Option Nat
deriving DecidableEq, Repr

/-- A post notice on its way to a member of a launch (R253, R254). -/
structure Notice where
  owner : BitVec 11
  rank : BitVec 16                       -- of the owner
  member : BitVec 11
  slot : BitVec 4
  wid : BitVec 8
  refused : Option Nat                   -- the cycle of its refusal by a full port (R348)
deriving DecidableEq, Repr

/-- States of a collective entry (R369). -/
inductive CtState where
  | free | idle | active
deriving DecidableEq, Repr, Inhabited

/-- An entry of the collective tile table (R356, R357) and its running instance (R361). -/
structure CtEntry where
  st : CtState
  loc : Nat                              -- LOCAL
  dest : Nat
  stage : Nat
  status : Nat
  ef : Nat
  len : Nat
  ty : Fmt
  comp : Bool
  evt : Bool
  timeout : Nat
  pos : Nat
  peers : List (BitVec 15 × BitVec 9)
  gen : BitVec 16
  pendAbort : Bool                       -- an abort notice for gen + 1 is kept
  op : Nat                               -- the operation of the instance
  start : Nat                            -- the cycle of its CTREADY
  dstPages : Option (List (Nat × Nat))   -- translations held: slice-virtual page and its frame; none: not held (R361)
  contrib : Option (List Byte)
  parts : FMap (List Byte)               -- partial sums arrived, by packet number
  fwd : List Nat                         -- packets already sent on
  stageIn : FMap Granule                 -- granules of the final result on their way into STAGE
  staged : List Nat                      -- granules of the final result in STAGE
  committed : Bool
  aborting : Option (BitVec 8 × Bool)    -- aborted, its end still to perform: the error, and whether a status word is written
  proxy : Option (BitVec 6 × BitVec 4)   -- the launch, partition and slot, for whose ended rank the port runs the entry (R316)
deriving DecidableEq, Repr

/-- What a walk found before the last change of a table: a mapping entry, a fault, or a level-2 entry with V = 0 under a
level-1 entry (R205, R343). -/
inductive OldWalk where
  | entry (e : Word)
  | fault (cause : BitVec 8)
  | hole (level1 : Word)
deriving DecidableEq, Repr

/-- A cluster: its array, copy engine, port, window and collective tables, and translation buffer. -/
structure Cluster where
  arr : MatArray
  queue : List Nat                       -- operations in the copy queue, in entry order
  chans : Vector (Option Nat) 4
  ops : FMap Op
  tlb : FMap Word                        -- by 64 KiB page of the slice: the mapping level-1 or level-2 entry
  walks : FMap (List OldWalk)            -- what walks found since the last invalidation, by page (R205)
  wins : FMap WEntry                     -- by 1024 x launch slot + 256 x tile + WID
  cts : FMap CtEntry                     -- by global entry index
  owner : Option (BitVec 6)              -- the partition that owns the cluster; none in the free pool
  wrote : List (Nat × Nat)               -- kills of engines on record: KIND, and 16 x unit in the cluster + launch slot (R326)
deriving DecidableEq, Repr

/-! ### Launches, partitions, the module -/

/-- States of a launch slot (R310). -/
inductive LState where
  | free | queued | running | saved | complete | killed
deriving DecidableEq, Repr, Inhabited

/-- A cut of a launch (R330 to R332): the largest count reported so far, and whether it is complete. -/
structure Cut where
  target : Option Word
  complete : Bool
deriving DecidableEq, Repr

/-- A launch slot (R306, R313). -/
structure LSlot where
  st : LState
  gen : BitVec 8
  order : Nat                            -- issue order of its LAUNCH
  imageId : BitVec 32
  entry : Word
  hb1 : Word
  hb2 : Word
  prm : Word
  shape : Word
  ctl : Word
  err : BitVec 8
  erank : BitVec 16
  nerr : BitVec 16
  cause : BitVec 8
  left : Bool                            -- its context has stopped (R301)
  save : Option Nat
  ranks : List Nat                       -- the ranks whose image is whole, of a launch that is being saved or is SAVED
  cut : Option Cut
  code : Memory                          -- the HBM as it stood at the binding: the code the tiles fetch (R280)
  saving : FMap Nat                      -- by tile: how many bytes of its image have been saved (R336)
deriving DecidableEq, Repr

/-- A start record (R303). -/
structure StartRec where
  prog : Word
  entryLen : Word
  arg : Word
  tag : Word
deriving DecidableEq, Repr

/-- A done record (R303). -/
structure DoneRec where
  tag : Word
  pc : Word
  cause : Word
deriving DecidableEq, Repr

/-- A die sequencer context (R298). -/
structure Seq where
  th : Thread
  cmd : Memory
  running : Bool
  tag : Word
  slots : Vector LSlot 16
  ending : Option Word                   -- END has issued at this PC (R304)
  done : Option DoneRec                  -- a done record waiting for a place (R377)
deriving DecidableEq, Repr

/-- A partition: its PF block, its virtual function's registers, its launch unit and halt line. -/
structure Part where
  en : Bool
  offline : Bool
  lock : Bool
  ptbase : Word
  seqsel : Word
  fqcfg : Word
  svcfg : Word
  svlen : Word
  bwcap : Word
  domain : BitVec 16
  map : List (BitVec 9)                  -- global cluster of each LIDX; PCL is its length
  busy : Bool                            -- a REMOVE waits
  since : Nat                            -- the cycle of its command
  result : BitVec 8
  layout : Nat                           -- layout epoch
  mbin : Vector Word 3
  inbox : List StartRec
  outbox : List DoneRec
  mbOvf : Bool
  cutRej : Bool
  fqProd : BitVec 32
  fqCons : BitVec 32
  fqDrop : BitVec 32
  isr : BitVec 4
  xlinv : Bool
  nonce : Vector Word 4
  attBuf : Word
  attBusy : Bool
  attTo : Nat                            -- the buffer of the report under way
  cecnt : BitVec 32
  rpend : Bool
  halt : Bool                            -- the partition halt line
  haltDone : Bool                        -- every engine has stopped and written its record
deriving DecidableEq, Repr

/-- A direction of a link (R350, R395): good data lanes, spare lanes in use, spare lanes that a retrain will bring into
use, and whether it trained at bring-up. -/
structure LinkDir where
  good : Nat
  spares : Nat
  turning : Nat
  trained : Bool
deriving DecidableEq, Repr

/-- The module (R350 to R354, R392 to R397). -/
structure Mod where
  up : Bool
  bootFailed : Bool                      -- a failed check at bring-up, reported on the management link (R389)
  stopped : Bool
  throttled : Bool
  pos : BitVec 4
  member : BitVec 16
  lost : BitVec 16                       -- RINGST.LOST
  isolated : BitVec 16                   -- positions toward which a port of this module is isolated
  links : List LinkDir                   -- link 0 transmit, link 0 receive, link 1 transmit, ...
  rejoining : BitVec 16
  sinceSilent : Bool                     -- the module fell silent and has been reset since
  numVfs : Word
  vfEnable : Bool
  msix : List (Nat × Nat)                -- messages sent: function and vector, newest first
  reads : List (Option (List Byte))      -- completions of BAR2 accesses, newest first; none: Unsupported Request
  notices : List (BitVec 4)              -- loss notices sent
  joins : List (BitVec 4)                -- join notices sent
  outRack : List CtMsg                   -- collective packets sent to other modules, not yet acknowledged
  oldRoute : Nat                         -- how many of those were sent before the last change of route (R353, R354)
  held : List CtMsg                      -- collective packets held until earlier ones of their flow are acknowledged
  bad : List Place                       -- words with an uncorrectable error
  rowErr : FMap (List Nat)               -- cycles of the corrected errors of an HBM row
  sramErr : FMap (List Nat)              -- cycles of the uncorrectable SRAM and parity errors of a cluster
  repairs : List RepairOf                -- repairs scheduled
  spareUsed : FMap Nat                   -- spare clusters used, by die
  reports : List RepairOf                -- repairs reported to the PF as impossible
deriving DecidableEq, Repr

/-! ### The bundle in issue -/

/-- What the check of an instruction at issue finds (R72, R398; R70). -/
structure FaultInfo where
  cause : BitVec 8
  addr : Word
  slots : BitVec 8
  wr : Bool
  fetch : Bool
  late : Bool
deriving DecidableEq, Repr

/-- The verdict on a slot at issue: it goes, it waits (with a request to register), or it faults. -/
inductive Verdict where
  | go
  | wait (r : Option WaitReq)
  | trap (f : FaultInfo)
deriving DecidableEq, Repr

/-- How `exec` runs: the slot's checks alone, its effect alone, or both with the end of a bundle that holds nothing
else. -/
inductive Phase where
  | check | commit | alone
deriving DecidableEq, Repr

/-- A scratchpad write of the bundle, performed after every read of the bundle (R134). -/
structure SpadWrite where
  pos : Nat
  swz : Bool
  addr : Nat                             -- offset in its view
  bytes : List Byte
deriving DecidableEq, Repr

/-- The control transfer a bundle holds. -/
inductive Control where
  | none
  | jump (pc : Word)                     -- a taken branch (R94, R96)
  | refetch                              -- FFENCE (R177)
  | trap (n : BitVec 7) (pos : Nat)
  | tret
  | end_
  | step
deriving DecidableEq, Repr

/-- The bundle in issue. -/
structure Issue where
  phase : Phase
  agent : Agent
  pos : Nat
  pc : Word
  nextPc : Word
  verdict : Verdict
  control : Control
  writes : List SpadWrite
  incs : BitVec 8                        -- cursors to advance (R62)
  pops : Vector Nat 4                    -- queue advances (R63)
  cost : Nat                             -- stall cycles after the bundle (R96, R174, R199)
deriving DecidableEq, Repr

/-- The state of the module. -/
structure State where
  cycle : Nat
  turns : List Turn
  turnNo : Nat
  choice : Nat                           -- counter of free values (assumption 7)
  nextId : Nat                           -- operations, posts and loads, in issue order
  iss : Issue
  hbm : Memory
  tiles : FMap Tile
  clusters : FMap Cluster
  seqs : FMap Seq
  parts : FMap Part
  flows : FMap Flow                      -- by 2048 x origin + target
  reqs : List ReqMsg
  notes : List Notice
  ctMsgs : List CtMsg
  modl : Mod
deriving DecidableEq, Repr

/-! ### Reset -/

/-- A banked copy at reset (R110; assumption 1). -/
def Bank.reset : Bank :=
  { pc := 0, sb := 0, p := 1, hi := Vector.replicate 4 0, lat := Vector.replicate 8 ⟨0, 0⟩, pend := [], loads := [],
    n := 0 }

/-- Trap registers at reset (R319; assumption 1). -/
def TrapRegs.reset : TrapRegs := ⟨0, 0, 0, 0, 0, 0⟩

/-- A thread at reset (R27, R110, R302; assumption 1). -/
def Thread.reset : Thread :=
  { lvl := .tl0, b0 := Bank.reset, b1 := Bank.reset, b2 := Bank.reset, s := Vector.replicate 28 0,
    ps := 0, loops := [], li := Vector.replicate 6 0, fpctl := 0x100,
    tr1 := TrapRegs.reset, tr2 := TrapRegs.reset, issue := 0, bundles := 0, posts := [], readyAt := 0 }

/-- A handle slot at the start of a launch (R224). -/
def HSlot.reset : HSlot := ⟨.free, 0, none, false, false, 0, false⟩

/-- A directory entry at the start of a launch (R235). -/
def WDir.reset : WDir := ⟨false, 0, none, false, [], [], false⟩

/-- A dictionary bank with no defined entry (R172). -/
def DictBank.reset : DictBank := ⟨[], 0, none⟩

/-- A tile at reset. -/
def Tile.reset : Tile :=
  { th := Thread.reset, run := .free, part := 0, slot := 0, rank := 0, tx := 0, ty := 0, tz := 0, ts := 0, nrank := 0,
    param := 0, imageId := 0, stepNo := 0, stepCnt := 0, t := [], so := Vector.replicate 8 0, cur := Vector.replicate 8 0,
    vo := Vector.replicate 8 0, acc := [], q0 := [], ovf := false, lost := 0, q1 := [], q2 := [], q3 := [],
    ly := Vector.replicate 8 0, handles := [], dirs := [], spad := [], views := [], bank0 := DictBank.reset,
    bank1 := DictBank.reset, dsel := false, selLast := none, loadWins := [], fill := none, dcache := [],
    cutPending := false, cutSrc := 0, reported := false, astat := 0, late := [], lease := none, req := none, grant := none,
    notify := [], ddat := 0, served := 0,
    hasEnded := false }

/-- An empty counter bank (R158). -/
def CBank.reset : CBank := ⟨Vector.replicate 32 0, ⟨none, 0, false⟩⟩

/-- A cleared fold register (R39). -/
def Fold.reset : Fold := ⟨0, none, 0, false⟩

/-- A cleared cell (R158). -/
def Cell.reset : Cell := ⟨CBank.reset, CBank.reset, Fold.reset, false⟩

/-- An array at module reset (R144). -/
def MatArray.reset : MatArray :=
  { holder := none, last := 3, age := 0, ncmd := 0, spent := false, free := false, streamEnd := 0,
    cellEnd := 0, next := 0, cmds := [], perfs := [], cells := [], sa := [], sb := [], runA := 127, runB := 127 }

/-- A collective entry that is FREE (R369). -/
def CtEntry.reset : CtEntry :=
  { st := .free, loc := 0, dest := 0, stage := 0, status := 0, ef := 0, len := 0, ty := .fp32, comp := false,
    evt := false, timeout := 0, pos := 0, peers := [], gen := 0, pendAbort := false, op := 0, start := 0,
    dstPages := none, contrib := none, parts := [], fwd := [], stageIn := [], staged := [], committed := false,
    aborting := none, proxy := none }

/-- A cluster at reset: in the free pool (R384, R396). -/
def Cluster.reset : Cluster :=
  { arr := MatArray.reset, queue := [], chans := Vector.replicate 4 none, ops := [], tlb := [], walks := [], wins := [],
    cts := [], owner := none, wrote := [] }

/-- A launch slot at reset (R302). -/
def LSlot.reset : LSlot :=
  { st := .free, gen := 0, order := 0, imageId := 0, entry := 0, hb1 := 0, hb2 := 0, prm := 0, shape := 0, ctl := 0,
    err := 0, erank := 0, nerr := 0, cause := 0, left := false, save := none, ranks := [],
    cut := none, code := [], saving := [] }

/-- A sequencer context at reset: idle (R298). -/
def Seq.reset : Seq :=
  { th := Thread.reset, cmd := [], running := false, tag := 0, slots := Vector.replicate 16 LSlot.reset,
    ending := none, done := none }

/-- A partition block at reset (R376, R382). -/
def Part.reset : Part :=
  { en := false, offline := false, lock := false, ptbase := 0, seqsel := 0, fqcfg := 0, svcfg := 0, svlen := 0,
    bwcap := 0, domain := 0, map := [], busy := false, since := 0, result := 0, layout := 0, mbin := Vector.replicate 3 0,
    inbox := [], outbox := [], mbOvf := false, cutRej := false, fqProd := 0, fqCons := 0, fqDrop := 0, isr := 0,
    xlinv := false, nonce := Vector.replicate 4 0, attBuf := 0, attBusy := false, attTo := 0, cecnt := 0, rpend := false,
    halt := false, haltDone := false }

/-- The module at reset, before it has come up (R352, R396). -/
def Mod.reset : Mod :=
  { up := false, bootFailed := false, stopped := false, throttled := false, pos := 0, member := 0, lost := 0, isolated := 0, links := [],
    rejoining := 0, sinceSilent := false, numVfs := 0, vfEnable := false, msix := [], reads := [], notices := [], joins := [],
    outRack := [], oldRoute := 0, held := [], bad := [], rowErr := [], sramErr := [], repairs := [], spareUsed := [], reports := [] }

/-- No bundle in issue. -/
def Issue.reset : Issue :=
  { phase := .alone, agent := .tile 0, pos := 0, pc := 0, nextPc := 0, verdict := .go, control := .none,
    writes := [], incs := 0, pops := Vector.replicate 4 0, cost := 0 }

/-- The module right after reset: nothing bound, nothing configured, every memory unlisted (R110, R302, R376, R382). -/
def State.reset : State :=
  { cycle := 0, turns := [], turnNo := 0, choice := 0, nextId := 0, iss := Issue.reset, hbm := [], tiles := [],
    clusters := [], seqs := [], parts := [], flows := [], reqs := [], notes := [], ctMsgs := [], modl := Mod.reset }

end Sys2Proof.Machine
end

