-- ==== Sys2Proof/Machine/Ops.lean ====
section
/-! DEFINITION. The named operations every meaning is built from: agents and their threads, registers and delayed writes, partitions and their fault queues, kills, taking a trap and returning from one (R9, R66, R318 to R329, R379). -/

namespace Sys2Proof.Machine

/-! ### Parts of the state -/

/-- A tile by its physical id within the module. -/
def State.tile (s : State) (t : Nat) : Tile := fget Tile.reset s.tiles t

/-- The state with a tile replaced. -/
def State.setTile (s : State) (t : Nat) (x : Tile) : State := { s with tiles := fput s.tiles t x }

/-- The state with a tile changed. -/
def State.modTile (s : State) (t : Nat) (f : Tile → Tile) : State := s.setTile t (f (s.tile t))

/-- A cluster by its global number. -/
def State.cluster (s : State) (c : Nat) : Cluster := fget Cluster.reset s.clusters c

/-- The state with a cluster changed. -/
def State.modCluster (s : State) (c : Nat) (f : Cluster → Cluster) : State :=
  { s with clusters := fput s.clusters c (f (s.cluster c)) }

/-- The state with a cluster's array changed. -/
def State.modArr (s : State) (c : Nat) (f : MatArray → MatArray) : State :=
  s.modCluster c fun k => { k with arr := f k.arr }

/-- A sequencer context by 8 x die + context. -/
def State.seqCtx (s : State) (q : Nat) : Seq := fget Seq.reset s.seqs q

/-- The state with a sequencer context changed. -/
def State.modSeq (s : State) (q : Nat) (f : Seq → Seq) : State :=
  { s with seqs := fput s.seqs q (f (s.seqCtx q)) }

/-- A partition by its number. -/
def State.part (s : State) (v : Nat) : Part := fget Part.reset s.parts v

/-- The state with a partition changed. -/
def State.modPart (s : State) (v : Nat) (f : Part → Part) : State :=
  { s with parts := fput s.parts v (f (s.part v)) }

/-- The state with the module's own part changed. -/
def State.modMod (s : State) (f : Mod → Mod) : State := { s with modl := f s.modl }

/-- The thread of an agent. -/
def State.threadOf (s : State) (a : Agent) : Thread :=
  match a with
  | .tile t => (s.tile t.toNat).th
  | .seq q => (s.seqCtx q.toNat).th

/-- The state with an agent's thread changed. -/
def State.modThreadOf (s : State) (a : Agent) (f : Thread → Thread) : State :=
  match a with
  | .tile t => s.modTile t.toNat fun x => { x with th := f x.th }
  | .seq q => s.modSeq q.toNat fun x => { x with th := f x.th }

/-- The thread that issues. -/
def State.thread (s : State) : Thread := s.threadOf s.iss.agent

/-- The state with the issuing thread changed. -/
def State.modThread (s : State) (f : Thread → Thread) : State := s.modThreadOf s.iss.agent f

/-- The number of the issuing tile; 0 for a sequencer context, which has none of a tile's state (R298). -/
def State.curId (s : State) : Nat :=
  match s.iss.agent with
  | .tile t => t.toNat
  | .seq _ => 0

/-- The issuing tile. -/
def State.cur (s : State) : Tile := s.tile s.curId

/-- The state with the issuing tile changed; a sequencer context has no tile state (R298). -/
def State.modCur (s : State) (f : Tile → Tile) : State :=
  match s.iss.agent with
  | .tile t => s.modTile t.toNat f
  | .seq _ => s

/-- Whether the issuing agent is a tile. -/
def State.onTile (s : State) : Bool :=
  match s.iss.agent with
  | .tile _ => true
  | .seq _ => false

/-- The cluster of the issuing tile. -/
def State.curCluster (s : State) : Nat := s.curId / 4

/-- The state with the bundle in issue changed. -/
def State.modIss (s : State) (f : Issue → Issue) : State := { s with iss := f s.iss }

/-! ### Registers of a thread -/

/-- The copy of the banked state at the current level (R318). -/
def Thread.bank (t : Thread) : Bank :=
  match t.lvl with
  | .tl0 => t.b0
  | .tl1 => t.b1
  | .tl2 => t.b2

/-- The thread with the current level's copy changed. -/
def Thread.modBank (t : Thread) (f : Bank → Bank) : Thread :=
  match t.lvl with
  | .tl0 => { t with b0 := f t.b0 }
  | .tl1 => { t with b1 := f t.b1 }
  | .tl2 => { t with b2 := f t.b2 }

/-- The copy of a level. -/
def Thread.bankAt (t : Thread) (l : Lvl) : Bank :=
  match l with
  | .tl0 => t.b0
  | .tl1 => t.b1
  | .tl2 => t.b2

/-- The number of a level (R110). -/
def Lvl.num : Lvl → Nat
  | .tl0 => 0
  | .tl1 => 1
  | .tl2 => 2

/-- A scalar; s28 to s31 are the current level's (R318). -/
def Thread.getS (t : Thread) (i : BitVec 5) : Word :=
  if i.toNat < 28 then vget t.s i.toNat else vget t.bank.hi (i.toNat - 28)

/-- The thread with a scalar written. -/
def Thread.putS (t : Thread) (i : BitVec 5) (v : Word) : Thread :=
  if i.toNat < 28 then { t with s := vset t.s i.toNat v }
  else t.modBank fun b => { b with hi := vset b.hi (i.toNat - 28) v }

/-- A predicate; p0 reads true (R93). -/
def Thread.getP (t : Thread) (i : BitVec 3) : Bool := i == 0 || t.bank.p.getLsbD i.toNat

/-- The thread with a predicate written; a write to p0 is ignored (R91). -/
def Thread.putP (t : Thread) (i : BitVec 3) (v : Bool) : Thread :=
  if i = 0 then t
  else t.modBank fun b =>
    { b with p := if v then b.p ||| (1#8 <<< i.toNat) else b.p &&& ~~~(1#8 <<< i.toNat) }

/-- The thread with a delayed write added (R66). -/
def Thread.push (t : Thread) (due : Nat) (a : Act) : Thread :=
  t.modBank fun b => { b with pend := b.pend ++ [⟨due, t.bundles, a⟩] }

/-- The issue cycle of the bundle in issue. -/
def State.now (s : State) : Nat := s.thread.bank.n

/-- The state with a delayed write of the issuing thread added. -/
def State.push (s : State) (due : Nat) (a : Act) : State := s.modThread fun t => t.push due a

/-- `dst`: a result of the slot in issue, into its latch after the latency and into the main file one bundle later;
N suppresses the main file (R10, R66, R68). -/
def State.result (s : State) (lat : Nat) (n : Bool) (v : Row) (dest : Act) : State :=
  let s' := s.push (s.now + lat) (.latch s.iss.pos v)
  if n then s' else s'.push (s.now + lat + 1) dest

/-! ### Faults -/

/-- A fault of the slot in issue (R74). -/
def State.faultAt (s : State) (cause : BitVec 8) (addr : Word) : Verdict :=
  .trap ⟨cause, addr, 1#8 <<< s.iss.pos, false, false, false⟩

/-- A fault whose access was a write or an atomic (R319, STAT.WR). -/
def State.faultWr (s : State) (cause : BitVec 8) (addr : Word) : Verdict :=
  .trap ⟨cause, addr, 1#8 <<< s.iss.pos, true, false, false⟩

/-- A fault whose ADDR is the PC of the bundle (R320). -/
def State.faultPc (s : State) (cause : BitVec 8) : Verdict := s.faultAt cause s.iss.pc

/-- Cause codes. -/
def cILLEGAL_BUNDLE : BitVec 8 := 0x01
/-- INVALID_ENCODING. -/
def cINVALID_ENCODING : BitVec 8 := 0x02
/-- DICT_UNDEFINED. -/
def cDICT_UNDEFINED : BitVec 8 := 0x03
/-- PRIVILEGE. -/
def cPRIVILEGE : BitVec 8 := 0x04
/-- DIVZERO. -/
def cDIVZERO : BitVec 8 := 0x05
/-- ALIGN. -/
def cALIGN : BitVec 8 := 0x06
/-- XLATE_NOTPRESENT. -/
def cXLATE_NOTPRESENT : BitVec 8 := 0x07
/-- XLATE_RIGHTS. -/
def cXLATE_RIGHTS : BitVec 8 := 0x08
/-- STALE_HANDLE. -/
def cSTALE_HANDLE : BitVec 8 := 0x09
/-- HANDLE_EXHAUSTED. -/
def cHANDLE_EXHAUSTED : BitVec 8 := 0x0A
/-- LEASE_REQUIRED. -/
def cLEASE_REQUIRED : BitVec 8 := 0x0B
/-- STEP_IN_LEASE. -/
def cSTEP_IN_LEASE : BitVec 8 := 0x0C
/-- COUNT_SATURATED. -/
def cCOUNT_SATURATED : BitVec 8 := 0x0D
/-- FOLD_RANGE. -/
def cFOLD_RANGE : BitVec 8 := 0x0E
/-- SCALE_STREAM. -/
def cSCALE_STREAM : BitVec 8 := 0x0F
/-- LOOP_STACK. -/
def cLOOP_STACK : BitVec 8 := 0x10
/-- FP_INVALID. -/
def cFP_INVALID : BitVec 8 := 0x11
/-- ECC_UNCORRECTABLE. -/
def cECC : BitVec 8 := 0x12
/-- STEP_NOT_QUIET. -/
def cSTEP_NOT_QUIET : BitVec 8 := 0x13
/-- SAVE_AREA. -/
def cSAVE_AREA : BitVec 8 := 0x14
/-- TRAP_DEPTH. -/
def cTRAP_DEPTH : BitVec 8 := 0x15
/-- QUEUE_EMPTY. -/
def cQUEUE_EMPTY : BitVec 8 := 0x16
/-- VIEW_RANGE. -/
def cVIEW_RANGE : BitVec 8 := 0x17
/-- WINDOW_ID. -/
def cWINDOW_ID : BitVec 8 := 0x18
/-- LAUNCH_SHAPE. -/
def cLAUNCH_SHAPE : BitVec 8 := 0x19

/-- The first verdict that is not `go`. -/
def Verdict.andThen (a b : Verdict) : Verdict :=
  match a with
  | .go => b
  | _ => a

/-- A check: `go` when it holds, the fault otherwise. -/
def checkThat (ok : Bool) (f : Verdict) : Verdict := if ok then .go else f

/-! ### HBM writes, fault queue, interrupts -/

/-- The words of HBM that a write of n bytes at pa covers wholly lose their damage (R392). -/
def uncovered (pa n : Nat) : Place → Bool
  | .hbm w => !(pa ≤ 8 * w && 8 * w + 8 ≤ pa + n)
  | _ => true

/-- A tile without the cached copies of the written lines (R207). -/
def Tile.dropLines (x : Tile) (pa n : Nat) : Tile :=
  { x with dcache := x.dcache.filter fun l => !(pa < 64 * l + 64 && 64 * l < pa + n) }

/-- The tiles of a cluster without the cached copies of the written lines (R207). -/
def State.dropLines (s : State) (c pa n : Nat) : State :=
  { s with tiles := s.tiles.map fun e => if e.1 / 4 = c then (e.1, e.2.dropLines pa n) else e }

/-- A write that performs in HBM: visible to every agent at once (R269, R270), cached copies invalidated (R207). -/
def State.hbmWrite (s : State) (pa : Nat) (bs : List Byte) : State :=
  let s := s.dropLines (pa / 2 ^ 31) pa bs.length
  { s with
    hbm := writeBytes s.hbm pa bs
    modl := { s.modl with bad := s.modl.bad.filter (uncovered pa bs.length) } }

/-- An interrupt vector of a virtual function raised; no second message while its ISR bit is set, none where no such
function exists, nor later for a bit set meanwhile; also of a function whose partition is disabled (R378, R383). The spec names
the PCIe MSI-X rules and gives no enable or mask of theirs: the model holds none, and every message goes out (assumption 86). -/
def State.raise (s : State) (v k : Nat) : State :=
  if (s.part v).isr.getLsbD k then s
  else
    let s := s.modPart v fun p => { p with isr := p.isr ||| (1#4 <<< k) }
    if s.modl.vfEnable && decide (v < s.modl.numVfs.toNat) then s.modMod fun m => { m with msix := (v, k) :: m.msix } else s

/-- The number of records of a fault queue, of every SZ (R379, R382; assumption 86). -/
def Part.fqSize (p : Part) : Nat := 2 ^ ((p.fqcfg.extractLsb' 0 4).toNat + 6)

/-- The base of a fault queue (R382). -/
def Part.fqBase (p : Part) : Nat := (p.fqcfg.extractLsb' 12 28).toNat * 4096

/-- A 32-byte record written to a partition's fault queue, or dropped and counted when it is full (R379). -/
def State.faultRecord (s : State) (v : Nat) (ws : List Word) : State :=
  let p := s.part v
  if (p.fqProd - p.fqCons).toNat ≥ p.fqSize then
    (s.modPart v fun p => { p with fqDrop := if p.fqDrop = 0xFFFFFFFF then p.fqDrop else p.fqDrop + 1 }).raise v 1
  else
    let s := s.hbmWrite (p.fqBase + 32 * (p.fqProd.toNat % p.fqSize)) (ws.flatMap fun w => leBytes 8 w.toNat)
    (s.modPart v fun p => { p with fqProd := p.fqProd + 1 }).raise v 1

/-- The context of a partition, 8 x die + context (R382, SEQSEL). -/
def Part.seqNo (p : Part) : Nat := (p.seqsel.extractLsb' 4 3).toNat * 8 + (p.seqsel.extractLsb' 0 3).toNat

/-- The launch slot of a partition's context. -/
def State.lslot (s : State) (v k : Nat) : LSlot :=
  let _ : Inhabited LSlot := ⟨LSlot.reset⟩
  vget (s.seqCtx (s.part v).seqNo).slots k

/-- The state with a launch slot changed. -/
def State.modLslot (s : State) (v k : Nat) (f : LSlot → LSlot) : State :=
  s.modSeq (s.part v).seqNo fun q =>
    let _ : Inhabited LSlot := ⟨LSlot.reset⟩
    { q with slots := vset q.slots k (f (vget q.slots k)) }

/-- The launch handle of a slot (R306). -/
def State.launchHandle (s : State) (v k : Nat) : Word :=
  BitVec.ofNat 64 (k + 256 * (s.lslot v k).gen.toNat)

/-- The last word of a stop record: CYCLE, SEQ, HANDLE (R328). -/
def State.stopTail (s : State) (v k : Nat) : Word :=
  BitVec.ofNat 64 ((s.cycle % 2 ^ 32) * 2 ^ 32 + ((s.part v).seqsel.extractLsb' 0 7).toNat * 2 ^ 16 +
    (s.launchHandle v k).toNat % 2 ^ 16)

/-- The first word of a stop record (R328). -/
def stopHead (kind cause orig tl rank unit : Nat) : Word :=
  BitVec.ofNat 64 (kind * 2 ^ 56 + cause * 2 ^ 48 + orig * 2 ^ 40 + tl * 2 ^ 38 + rank * 2 ^ 16 + unit)

/-- The physical tile id with the module position (R4). -/
def State.physId (s : State) (t : Nat) : Nat := s.modl.pos.toNat * 2048 + t

/-- The stop record of a tile (R327, R328). -/
def State.tileRecord (s : State) (t cause orig : Nat) (addr : Word) : State :=
  let x := s.tile t
  s.faultRecord x.part.toNat
    [stopHead 1 cause orig x.th.lvl.num x.rank.toNat (s.physId t), x.th.bank.pc, addr,
      s.stopTail x.part.toNat x.slot.toNat]

/-- A cause is set in a launch slot by the first kill of its context (R312, R326). -/
def LSlot.killedBy (l : LSlot) (cause : BitVec 8) : LSlot := { l with cause := if l.cause = 0 then cause else l.cause }

/-- Whether a tile is bound and has not been stopped. -/
def Tile.alive (x : Tile) : Bool := x.run != .free && x.run != .stopped

/-- A tile's context is killed: the tile's stop record first, then the partition halt line (R326). -/
def State.killTile (s : State) (t : Nat) (cause orig : BitVec 8) (addr : Word) : State :=
  if !(s.tile t).alive then s else
  let v := (s.tile t).part.toNat
  let s := s.tileRecord t cause.toNat orig.toNat addr
  let s := s.modLslot v (s.tile t).slot.toNat fun l => l.killedBy cause
  let s := s.modTile t fun x => { x with run := .stopped }
  s.modPart v fun p => { p with halt := true }

/-- The place of an engine and a launch among the kills on record of a cluster (R326). -/
def killKey (kind unit k : Nat) : Nat × Nat := (kind, 16 * unit + k)

/-- The context of tile t's launch is killed by an engine of cluster c: its record, then the halt line; an engine that has
written the record of a launch writes no second one for it (R326, R327). -/
def State.killAt (s : State) (t c kind chan : Nat) (cause : BitVec 8) : State :=
  let x := s.tile t
  let v := x.part.toNat
  let key := killKey kind chan x.slot.toNat
  if (s.cluster c).wrote.contains key then s
  else
    let s := s.faultRecord v
      [stopHead kind cause.toNat 0 0 0 (s.physId (c * 4 + chan)), 0, 0, s.stopTail v x.slot.toNat]
    let s := s.modLslot v x.slot.toNat fun l => l.killedBy cause
    let s := s.modCluster c fun k => { k with wrote := key :: k.wrote }
    s.modPart v fun p => { p with halt := true }

/-- The context of tile t's launch is killed by an engine of its own cluster (R326). -/
def State.killByEngine (s : State) (t kind chan : Nat) (cause : BitVec 8) : State := s.killAt t (t / 4) kind chan cause

/-- An error of a launch's tile: to the launch's error record while the launch lives, to the fault queue when it has
retired (KIND 6) or its context has stopped (KIND 7) (R301, R313). -/
def State.launchError (s : State) (t : Nat) (code : Nat) : State :=
  let x := s.tile t
  let v := x.part.toNat
  let k := x.slot.toNat
  let l := s.lslot v k
  let record (kind : Nat) : State :=
    s.faultRecord v [stopHead kind 0 code 0 x.rank.toNat (s.physId t), 0, 0, s.stopTail v k]
  if l.left then record 7
  else match l.st with
    | .queued | .running | .saved =>
      s.modLslot v k fun l => { l with
        err := if l.nerr = 0 then BitVec.ofNat 8 code else l.err
        erank := if l.nerr = 0 then x.rank else l.erank
        nerr := if l.nerr = 0xFFFF then l.nerr else l.nerr + 1 }
    | _ => record 6

/-! ### Sequencer contexts: done records -/

/-- The partition whose context this is, if any is enabled: the lowest-numbered one that names it (R298; assumption 73). -/
def State.partOfSeq (s : State) (q : Nat) : Option Nat :=
  ((List.range 64).filter fun v => (s.part v).en && (s.part v).seqNo == q).head?

/-- Whether a partition is the one that its context serves: a context that serves another, or none, has no launches of this
one (R298, R382; assumption 73). -/
def State.isServed (s : State) (v : Nat) : Bool := s.partOfSeq (s.part v).seqNo == some v

/-- A done record written to the mailbox, or held until a place is free (R303, R377). -/
def State.doneRecord (s : State) (q : Nat) (d : DoneRec) : State :=
  match s.partOfSeq q with
  | none => s.modSeq q fun x => { x with done := some d }
  | some v =>
    if (s.part v).outbox.length < 8 then
      let s := s.modPart v fun p => { p with outbox := p.outbox ++ [d] }
      (s.raise v 0).modSeq q fun x => { x with done := none }
    else s.modSeq q fun x => { x with done := some d }

/-- A launch slot freed, its generation one higher (R304, R310). -/
def LSlot.freed (l : LSlot) : LSlot := { LSlot.reset with gen := l.gen + 1 }

/-- A launch slot when its context stops: a retired launch is freed, a live one is on its own (R301). -/
def LSlot.leave (l : LSlot) : LSlot :=
  match l.st with
  | .free => l
  | .complete | .killed => l.freed
  | _ => { l with left := true }

/-- A thread without its loops: every loop position is empty and its index reads 0 (R98). -/
def Thread.dropLoops (t : Thread) : Thread := { t with loops := [], li := Vector.replicate 6 0 }

/-- A fault stops a context: the bundle does not commit, a done record is written, the context is idle (R301). -/
def State.seqStop (s : State) (q : Nat) (cause : BitVec 8) (pc : Word) : State :=
  let tag := (s.seqCtx q).tag
  let s := s.modSeq q fun x => { x with
    running := false
    ending := none
    slots := Vector.ofFn fun k => (let _ : Inhabited LSlot := ⟨LSlot.reset⟩; (vget x.slots k.val)).leave
    th := { x.th.dropLoops with b0 := { x.th.b0 with pend := [], loads := [] } } }
  s.doneRecord q ⟨tag, pc, cause.setWidth 64⟩

/-! ### Taking a trap (R321, R322) and returning (R116, R325) -/

/-- Where a trap found at a level goes: a level, or a kill (R321). A level has a handler where its whole HBASE is not zero, the
ignored bits [1:0] among it (R319; assumption 77). -/
def Thread.route (t : Thread) (cause : BitVec 8) : Option Lvl :=
  if cause = cECC then none
  else match t.lvl with
    | .tl0 => if t.tr1.hbase ≠ 0 then some .tl1 else if t.tr2.hbase ≠ 0 then some .tl2 else none
    | .tl1 => if t.tr2.hbase ≠ 0 then some .tl2 else none
    | .tl2 => none

/-- STAT as trap entry writes it (R319, R322). -/
def statWord (lvl : Lvl) (f : FaultInfo) : Word :=
  BitVec.ofNat 64 (lvl.num * 2 ^ 17 + (if f.late then 2 ^ 16 else 0) + f.slots.toNat * 2 ^ 8 +
    (if f.wr then 2 else 0) + (if f.fetch then 1 else 0))

/-- A banked copy entered by a trap: at the handler, every latch zero (R71, R322). -/
def Bank.enter (b : Bank) (hbase : Word) : Bank :=
  { b with pc := hbase &&& ~~~3#64, lat := Vector.replicate 8 ⟨0, 0⟩ }

/-- The trap registers as entry writes them (R322). -/
def TrapRegs.enter (r : TrapRegs) (lvl : Lvl) (epc : Word) (f : FaultInfo) (qhead : Word) : TrapRegs :=
  { r with epc := epc, cause := f.cause.setWidth 64, addr := f.addr, stat := statWord lvl f, qcap := qhead }

/-- A thread at the handler of level m: level L frozen as it stands, the registers of the other level not written
(R322, R323). -/
def Thread.enter (t : Thread) (m : Lvl) (epc : Word) (f : FaultInfo) (qhead : Word) : Thread :=
  match m with
  | .tl1 => { t with lvl := .tl1, tr1 := t.tr1.enter t.lvl epc f qhead, b1 := t.b1.enter t.tr1.hbase }
  | .tl2 => { t with lvl := .tl2, tr2 := t.tr2.enter t.lvl epc f qhead, b2 := t.b2.enter t.tr2.hbase }
  | .tl0 => t

/-- A tile whose instruction stream changes group: selection and load windows end, and a load under way opens none (R71,
R178, R179). -/
def Tile.newGroup (x : Tile) : Tile :=
  { x with
    selLast := none
    loadWins := []
    fill := x.fill.map fun f => { f with opens := false }
    served := 0 }

/-- FP_INVALID sets the sticky IV although its bundle does not commit (R30). -/
def State.stickyInvalid (s : State) (cause : BitVec 8) : State :=
  if cause = cFP_INVALID then s.modThread fun t => { t with fpctl := t.fpctl ||| 0x10 } else s

/-- The array that ran on while its holder, tile t, waited in an MLEASE stops with the trap: the holder waits no more
(R140, R143). -/
def State.holdArray (s : State) (t : Nat) : State :=
  if (s.cluster (t / 4)).arr.holder = some (BitVec.ofNat 2 t) then s.modArr (t / 4) fun m => { m with free := false } else s

/-- TAKING A TRAP: a fault, a software trap or a late event of the issuing agent, with the PC it returns to.
A sequencer context stops (R301); a tile enters the next level that has a handler, after 4 stall cycles (R322), which add to
the stall that the bundle of a software trap has made (R70, R115; assumption 71), or its context is killed (R321). An MLEASE
that waited, or whose bundle did not issue after its grant, has asked in vain (assumption 37). -/
def State.takeTrap (s : State) (epc : Word) (f : FaultInfo) : State :=
  let s := s.stickyInvalid f.cause
  match s.iss.agent with
  | .seq q => s.seqStop q.toNat f.cause s.iss.pc
  | .tile t =>
    let x := s.tile t.toNat
    match x.th.route f.cause with
    | none =>
      if f.cause = cECC then s.killTile t.toNat cECC 0 f.addr
      else s.killTile t.toNat cTRAP_DEPTH f.cause f.addr
    | some m =>
      (s.holdArray t.toNat).modTile t.toNat fun x =>
        { x.newGroup with
          lease := none
          th := { x.th.enter m epc f (x.q0.headD 0) with readyAt := s.cycle + 5 + s.iss.cost } }

/-- A copy of a level that runs again: a latch reads zero unless its result landed at exactly the resumed cycle (R325). -/
def Bank.resume (b : Bank) (pc : Word) : Bank :=
  { b with pc := pc, lat := Vector.ofFn fun k => if (vget b.lat k.val).landed = b.n then vget b.lat k.val else ⟨0, 0⟩ }

/-- RETURNING FROM A TRAP: the level that was interrupted runs again at EPC; bits [1:0] of EPC are ignored (R116, R319,
R325). Level M always returns to level M - 1, also where TL2 was entered from TL0 (R116; assumption 13). -/
def Thread.tret (t : Thread) : Thread :=
  match t.lvl with
  | .tl0 => t
  | .tl1 => { t with lvl := .tl0, b0 := t.b0.resume (t.tr1.epc &&& ~~~3#64) }
  | .tl2 =>
    { t with lvl := .tl1, b1 := t.b1.resume (t.tr2.epc &&& ~~~3#64) }

end Sys2Proof.Machine
end

