-- ==== Sys2Proof/Machine/Repair.lean ====
section
/-! DEFINITION. Error counts of rows and clusters, and repairs scheduled (R392 to R394). -/

namespace Sys2Proof.Machine

/-- Cycles in 24 hours at 1.05 GHz (R5, R394). -/
def dayCycles : Nat := 24 * 3600 * 1050000000

/-- The HBM row of a 64-bit word (assumption 17). -/
def rowOfWordNo (w : Nat) : Nat := w / 128

/-- The cluster a repair is for. -/
def repairCluster : RepairOf → Nat
  | .row r => r * 1024 / 2 ^ 31
  | .cluster c => c.toNat

/-- RPEND of a partition as it has to be: set while a repair of one of its clusters is scheduled, with the health vector where
it changes (R376, R378, R394). -/
def State.settleRpend (s : State) (v : BitVec 6) : State :=
  let due := s.modl.repairs.any fun r => (s.cluster (repairCluster r)).owner == some v
  if (s.part v.toNat).rpend = due then s
  else (s.modPart v.toNat fun p => { p with rpend := due }).raise v.toNat 3

/-- RPEND of the partition that owns a cluster settled. -/
def State.settleOwner (s : State) (c : Nat) : State :=
  match (s.cluster c).owner with
  | some v => s.settleRpend v
  | none => s

/-- A repair scheduled (R394). -/
def State.schedule (s : State) (r : RepairOf) : State :=
  if s.modl.repairs.contains r then s
  else (s.modMod fun m => { m with repairs := m.repairs ++ [r] }).settleOwner (repairCluster r)

/-- The times of errors of one kind within the last 24 hours, this one among them. -/
def recentErrors (now : Nat) (ts : List Nat) : List Nat := now :: ts.filter fun t => decide (now < t + dayCycles)

/-- An uncorrectable SRAM error (kind 0) or a parity error (kind 1) of a cluster: the second within 24 hours schedules a
spare swap (R394). -/
def State.clusterError (s : State) (c kind : Nat) : State :=
  let ts := recentErrors s.cycle (fget [] s.modl.sramErr (2 * c + kind))
  let s := s.modMod fun m => { m with sramErr := fput m.sramErr (2 * c + kind) ts }
  if ts.length ≥ 2 then s.schedule (.cluster (BitVec.ofNat 9 c)) else s

/-- A corrected error of an HBM row: the second within 24 hours schedules its repair (R394). -/
def State.rowError (s : State) (r : Nat) : State :=
  let ts := recentErrors s.cycle (fget [] s.modl.rowErr r)
  let s := s.modMod fun m => { m with rowErr := fput m.rowErr r ts }
  if ts.length ≥ 2 then s.schedule (.row r) else s

end Sys2Proof.Machine
end

