-- ==== Sys2Proof/Config.lean ====
section
/-! DEFINITION. What the spec leaves open and every run is free in: uninterpreted constants without a body. Nothing can be proved of their values. -/

namespace Sys2Proof

/-- The turn taken at a turn number once the state's own list of turns is empty: which agent or engine moves next
is open (R269; assumption 3). -/
opaque Config.schedule : Nat → Turn

/-- Which candidate bank, or which of the old and new entry, a dictionary slot expands under inside a selection or
load window (R178, R179): by the tile, its bundle number and the slot's position (assumption 6). -/
opaque Config.bankChoice : Nat → Nat → Nat → Nat

/-- Which of the candidate instants a granule read returns when its writes went through the other view without VJOIN
(R198): by the free-value counter (assumption 7). -/
opaque Config.viewChoice : Nat → Nat

/-- Which of the candidate instants a granule that an SLD decodes returns, at its check and at its commit alike (R156, R198): by
the turn number and the granule (assumption 7). -/
opaque Config.scaleChoice : Nat → Nat → Nat

/-- Which of the translations that R205 admits an access uses: by the number of the turn, the granule and which access of the
turn it is (assumption 15). -/
opaque Config.xlateChoice : Nat → Nat → Nat → Nat

/-- Which line a full data cache gives up for a new one (R206): by the free-value counter (assumption 7). -/
opaque Config.victim : Nat → Nat

/-- What a sequencer context, which has no operand files, reads from one (R298): by the context, its bundle number and the
entry (assumption 34). -/
opaque Config.contextFile : Nat → Nat → Nat → Word

/-- Whether a CTREADY whose DEST alone has no translation writes its status word (R361, R362): by the free-value counter
(assumption 25). -/
opaque Config.abortStatus : Nat → Bool

/-- A byte of the contribution that a rank which has ended counts with in a collective round of its launch (R316): by the
free-value counter and the byte's place (assumption 89). -/
opaque Config.endedContribution : Nat → Nat → Byte

/-- Which of the packets of an entry that wait for an answer a PEER_LOST response of another module's station answers (R353): by
the turn number (assumption 42). -/
opaque Config.lostAnswer : Nat → Nat

/-- The fabric domain of the partition that a tile of another module lies in (R355, R388): by the turn number and the
tile's physical id (assumption 55). -/
opaque Config.peerDomain : Nat → Nat → BitVec 16

/-- SHAKE256 digests of 64 bytes, byte 0 in the low bits (R389, R390; assumption 8). -/
opaque Config.shake256 : List Byte → BitVec 512

/-- The firmware set whose digest the attestation report holds (R390; assumption 8). -/
opaque Config.firmware : Nat → List Byte

/-- The Falcon-1024 signature of a message under the module identity key (R390; assumption 8). -/
opaque Config.sign : List Byte → List Byte

/-- The length of the signature of a message, where it is at most 1,536 bytes (R390; assumption 8). -/
opaque Config.signatureLength : List Byte → Nat

/-- Whether the bank of an HBM row has a spare row left for a post-package repair (R394; assumption 9). -/
opaque Config.spareRowLeft : Nat → Bool

end Sys2Proof
end

