-- ==== Sys2Proof/Machine/Operands.lean ====
section
/-! DEFINITION. Operand forms: what a field reads at issue (R56 to R60), where a destination field writes (R61, R78), rows as elements (R7), and the operands, destinations and unit of every slot instruction (R53 to R55, R75, R80). -/

namespace Sys2Proof

/-- The row a native vector destination field names. -/
def VDn.op (d : VDn) : VOp := .row d.g (0#1 ++ d.o) d.inc

/-- The row a template's vector destination names. -/
def VDst.op : VDst → VOp
  | .row g o inc => .row g o inc
  | .file i => .file i

/-- The delayed write of a resolved scalar destination. -/
def SDst.act (d : SDst) (v : Word) : Machine.Act :=
  match d with
  | .reg i => .sreg i v
  | .based i => .sreg i v
  | .file i => .so i v

namespace Machine

/-! ### Rows as elements -/

/-- Element i of width w of a row. -/
def elem (w : Nat) (r : Row) (i : Nat) : Nat := r.toNat / 2 ^ (w * i) % 2 ^ w

/-- The elements of width w of a row, element 0 first. -/
def elems (w : Nat) (r : Row) : List Nat := (List.range (4096 / w)).map (elem w r)

/-- The number with elements of width w, element 0 least significant. -/
def packNat (w : Nat) : List Nat → Nat
  | [] => 0
  | x :: r => x % 2 ^ w + 2 ^ w * packNat w r

/-- The row of elements of width w. -/
def packRow (w : Nat) (xs : List Nat) : Row := BitVec.ofNat 4096 (packNat w xs)

/-- The row whose every element of width w is x. -/
def fillRow (w x : Nat) : Row := packRow w (List.replicate (4096 / w) x)

/-- A row whose elements of width w are f of the elements of another row. -/
def mapRow (w : Nat) (f : Nat → Nat) (a : Row) : Row := packRow w ((elems w a).map f)

/-- A row whose elements of width w are f of the elements of two rows. -/
def zipRow (w : Nat) (f : Nat → Nat → Nat) (a b : Row) : Row := packRow w (List.zipWith f (elems w a) (elems w b))

/-! ### Reads -/

/-- The code of a level-11 immediate in a format (R60). -/
def immCode (f : Fmt) (v : BitVec 3) : Nat :=
  if f.isFloat then (roundF f .rne (decide (v.toInt < 0)) v.toInt.natAbs 0).1 else wrapTo f.width v.toInt

/-- The head of a queue; zero where there is none (R63; an empty queue is refused or waited for before any read). -/
def Tile.queueHead (x : Tile) (q : BitVec 2) : Row :=
  match q.toNat with
  | 0 => rowOfWord (x.q0.headD 0)
  | 1 => rowOfWord (x.q1.headD 0)
  | 2 => x.q2.headD 0
  | _ => x.q3.headD 0

/-- The records or rows that wait in a queue. -/
def Tile.queueLen (x : Tile) (q : BitVec 2) : Nat :=
  match q.toNat with
  | 0 => x.q0.length
  | 1 => x.q1.length
  | 2 => x.q2.length
  | _ => x.q3.length

/-- Whether a field reads the head of an empty queue: the bundle stalls until it is no longer empty, or is refused at step 7
(R63, R64). -/
def State.readsEmpty (s : State) : SOp → Bool
  | .queue q => s.cur.queueLen q == 0
  | _ => false

/-- A latch of the issuing thread (R59). -/
def State.latch (s : State) (k : BitVec 3) : Row := (vget s.thread.bank.lat k.toNat).val

/-- A scalar operand entry of the issuing tile. A context has no operand files (R298): what it reads there is free
(assumption 34). -/
def State.operandFile (s : State) (i : Nat) : Word :=
  match s.iss.agent with
  | .tile t => vget (s.tile t.toNat).so i
  | .seq q => Config.contextFile q.toNat s.thread.bundles i

/-- A scalar-form field, read as a 64-bit value (R56, R58 to R60). -/
def State.readS (s : State) : SOp → Word
  | .reg i => s.thread.getS i
  | .based i => s.thread.getS (s.thread.bank.sb + i)
  | .file i => s.operandFile i.toNat
  | .latch k => wordOfRow (s.latch k)
  | .queue q => wordOfRow (s.cur.queueHead q)
  | .imm v => v.signExtend 64

/-- A scalar-form field read in a format by a slot of unit SF: the low bits of the value, or an immediate encoded in
the format (R60, R88, R92; INT16 from [15:0], assumption 88). -/
def State.readF (s : State) (f : Fmt) : SOp → Nat
  | .imm v => immCode f v
  | o => (s.readS o).toNat % 2 ^ f.width

/-- The number of row (cg + o) mod 32 of tile register tg (R57, R118). -/
def Tile.rowNo (x : Tile) (g : BitVec 3) (o : Nat) : Nat := 32 * g.toNat + ((vget x.cur g.toNat).toNat + o) % 32

/-- A row of the tile file. -/
def Tile.row (x : Tile) (k : Nat) : Row := fget 0 x.t k

/-- A row of the accumulator store, 128 i + r. -/
def Tile.accRow (x : Tile) (k : Nat) : Row := fget 0 x.acc k

/-- A vector-form field; an immediate fills the row with elements of the format (R57 to R60). -/
def State.readV (s : State) (f : Fmt) : VOp → Row
  | .row g o _ => s.cur.row (s.cur.rowNo g o.toNat)
  | .file i => vget s.cur.vo i.toNat
  | .latch k => s.latch k
  | .queue q => s.cur.queueHead q
  | .imm v => fillRow f.width (immCode f v)

/-- The index a descriptor field resolves to (R75). -/
def State.descIndex (s : State) : DOp → BitVec 5
  | .reg i => i
  | .based i => s.thread.bank.sb + i

/-- Descriptor scalar m (R75). -/
def State.readD (s : State) (o : DOp) (m : Nat) : Word := s.thread.getS (s.descIndex o + BitVec.ofNat 5 m)

/-! ### Destinations -/

/-- The delayed write of a scalar destination, resolved at issue (R61, R66, R78). -/
def State.toS (s : State) (d : SDst) (v : Word) : Act :=
  match d with
  | .reg i => .sreg i v
  | .based i => .sreg (s.thread.bank.sb + i) v
  | .file i => .so i v

/-- A scalar destination with its base applied, as an answer keeps it (R66). -/
def State.fixS (s : State) (d : SDst) : SDst :=
  match d with
  | .based i => .reg (s.thread.bank.sb + i)
  | d => d

/-- The delayed write of a vector destination, resolved at issue. -/
def State.toV (s : State) (d : VOp) (v : Row) : Act :=
  match d with
  | .row g o _ => .trow (s.cur.rowNo g o.toNat) v
  | .file i => .vo i v
  | _ => .trow 0 v

/-- `dst` of a scalar result (R10). -/
def State.dstS (s : State) (lat : Nat) (n : Bool) (d : SDst) (v : Word) : State :=
  s.result lat n (rowOfWord v) (s.toS d v)

/-- `dst` of a row (R10). -/
def State.dstV (s : State) (lat : Nat) (n : Bool) (d : VOp) (v : Row) : State :=
  s.result lat n v (s.toV d v)

/-- `dst` of a predicate: 0 or 1 in the latch (R91, R93). -/
def State.dstP (s : State) (lat : Nat) (n : Bool) (p : BitVec 3) (b : Bool) : State :=
  s.result lat n (rowOfWord (if b then 1 else 0)) (.pred p b)

end Machine

end Sys2Proof
end

