-- ==== Sys2Proof/Machine/Registers.lean ====
section
/-! DEFINITION. The system registers of a tile and of a sequencer context: what SYSR reads and what a SYSW changes when it takes effect (R9, R27, R104, R109 to R111, R169, R184 to R186, R302, R319, R352). -/

namespace Sys2Proof.Machine

/-! ### Values put together from parts of the state -/

/-- Whether a selection or load window is open for the bundle at issue cycle n (R178, R179, R185). -/
def Tile.windowOpen (x : Tile) (n : Nat) : Bool :=
  (match x.selLast with
    | some l => decide (n ≤ l)
    | none => false) || x.loadWins.any fun w => decide (n ≤ w.last)

/-- DICTST (R185). -/
def Tile.dictst (x : Tile) (n : Nat) : Word :=
  BitVec.ofNat 64 ((if x.windowOpen n then 2 else 0) + (if x.dsel then 1 else 0))

/-- CURS (R110). -/
def Tile.curs (x : Tile) : Word :=
  BitVec.ofNat 64 (packNat 5 (x.cur.toList.map BitVec.toNat))

/-- EVSTAT (R111). -/
def Tile.evstat (x : Tile) : Word :=
  BitVec.ofNat 64 (x.lost.toNat * 2 ^ 24 + x.q1.length % 256 * 2 ^ 8 + (if x.ovf then 2 ^ 7 else 0) + x.q0.length % 128)

/-- ASTAT of tile k of a cluster (R169). -/
def astatWord (x : Tile) (m : MatArray) (k : Nat) : Word :=
  let held := m.holder == some (BitVec.ofNat 2 k)
  BitVec.ofNat 64 ((if held then m.age % 2 ^ 16 * 2 ^ 32 + 2 ^ 23 + (if m.spent then 2 ^ 22 else 0) +
    m.ncmd % 128 * 2 ^ 14 else 0) + x.astat.toNat)

/-- The width code of a link direction (R350). -/
def LinkDir.code (l : LinkDir) : Nat :=
  let n := min 64 (l.good + l.spares)
  if !l.trained then 0 else if n ≥ 64 then 3 else if n ≥ 32 then 2 else if n ≥ 16 then 1 else 0

/-- The module position that a link faces, if the ring holds it (R352; assumption 14). -/
def Mod.faces (m : Mod) (link : Nat) : Option Nat :=
  let k := ((List.range 16).filter fun i => m.member.getLsbD i).length
  if k ≤ 1 then none
  else
    let p := (m.pos.toNat + (if link % 2 = 0 then 1 else k - 1)) % k
    if m.member.getLsbD p then some p else none

/-- A direction of a link: transmit, then receive. -/
def Mod.dir (m : Mod) (link : Nat) (tx : Bool) : LinkDir :=
  m.links.getD (2 * link + if tx then 0 else 1) ⟨0, 0, 0, false⟩

/-- Whether a link is up: both directions at a width (R350). -/
def Mod.linkUp (m : Mod) (link : Nat) : Bool := (m.dir link true).code != 0 && (m.dir link false).code != 0

/-- The WIDTH field of RINGST: transmit codes in [4n + 1:4n], receive codes in [4n + 3:4n + 2]. -/
def Mod.widths (m : Mod) : Nat :=
  packNat 2 ((List.range 4).flatMap fun n =>
    if (m.faces n).isSome && m.linkUp n then [(m.dir n true).code, (m.dir n false).code] else [0, 0])

/-- RINGST (R352). -/
def Mod.ringst (m : Mod) : Word :=
  BitVec.ofNat 64 (m.lost.toNat * 2 ^ 48 + m.member.toNat * 2 ^ 32 + m.widths)

/-- A trap register of a level by its order in R319. -/
def TrapRegs.read (r : TrapRegs) (k : Nat) : Word :=
  match k with
  | 0 => r.epc
  | 1 => r.cause
  | 2 => r.addr
  | 3 => r.stat
  | 4 => r.hbase
  | _ => r.qcap

/-- A trap register written, its writable fields alone (R319); QCAP is read only. -/
def TrapRegs.write (r : TrapRegs) (k : Nat) (v : Word) : TrapRegs :=
  match k with
  | 0 => { r with epc := v }
  | 1 => { r with cause := v &&& 0xFF }
  | 2 => { r with addr := v }
  | 3 => { r with stat := v &&& 0x7FF03 }
  | 4 => { r with hbase := v }
  | _ => r

/-! ### Reading -/

/-- The registers a tile and a context both hold (R110, R302). -/
def State.sysCommon (s : State) (t : Thread) (num : Nat) : Option Word :=
  match num with
  | 0x000 => some t.fpctl
  | 0x001 => some (BitVec.ofNat 64 t.lvl.num)
  | 0x002 => some (t.bank.sb.setWidth 64)
  | 0x005 => some ((t.bank.p ||| 1).setWidth 64)
  | 0x008 => some (BitVec.ofNat 64 t.loops.length)
  | 0x010 => some (vget t.li 0)
  | 0x011 => some (vget t.li 1)
  | 0x012 => some (vget t.li 2)
  | 0x013 => some (vget t.li 3)
  | 0x014 => some (vget t.li 4)
  | 0x015 => some (vget t.li 5)
  | 0x030 => some (BitVec.ofNat 64 s.cycle)
  | 0x031 => some t.issue
  | _ => none

/-- A system register of tile k as SYSR reads it (R110, R169, R184, R319, R352); an unlisted number reads zero (R9). -/
def State.sysTile (s : State) (k num : Nat) : Word :=
  let x := s.tile k
  match s.sysCommon x.th num with
  | some v => v
  | none =>
    if 0x100 ≤ num ∧ num ≤ 0x105 then x.th.tr1.read (num - 0x100)
    else if 0x110 ≤ num ∧ num ≤ 0x115 then x.th.tr2.read (num - 0x110)
    else match num with
    | 0x003 => x.curs
    | 0x004 => x.th.ps.setWidth 64
    | 0x020 => BitVec.ofNat 64 (s.physId k)
    | 0x021 => x.rank.setWidth 64
    | 0x022 => x.tx.setWidth 64
    | 0x023 => x.ty.setWidth 64
    | 0x024 => x.tz.setWidth 64
    | 0x025 => x.ts.setWidth 64
    | 0x026 => x.nrank.setWidth 64
    | 0x027 => x.param
    | 0x028 => x.imageId.setWidth 64
    | 0x032 => x.stepNo.setWidth 64
    | 0x033 => x.stepCnt
    | 0x040 => x.evstat
    | 0x050 => astatWord x (s.cluster (k / 4)).arr (k % 4)
    | 0x060 => x.dictst x.th.bank.n
    | 0x061 => x.bank0.tag
    | 0x062 => x.bank1.tag
    | 0x080 => s.modl.ringst
    | _ => 0

/-- The number of FREE launch slots of a context (R302). -/
def Seq.lfree (q : Seq) : Nat := (q.slots.toList.filter fun l => l.st == .free).length

/-- A system register of a context as SYSR reads it (R302); every other number reads zero (R9). -/
def State.sysSeq (s : State) (q num : Nat) : Word :=
  match s.sysCommon (s.seqCtx q).th num with
  | some v => v
  | none =>
    match num with
    | 0x070 => BitVec.ofNat 64 (q / 8 * 16 + q % 8)
    | 0x071 =>
      match s.partOfSeq q with
      | some v => BitVec.ofNat 64 (s.part v).map.length
      | none => 0
    | 0x072 => BitVec.ofNat 64 (s.seqCtx q).lfree
    | _ => 0

/-- A system register as the issuing agent reads it at issue (R109). -/
def State.sysRead (s : State) (num : BitVec 14) : Word :=
  match s.iss.agent with
  | .tile t => s.sysTile t.toNat num.toNat
  | .seq q => s.sysSeq q.toNat num.toNat

/-- The lowest trap level that may access a register (R110, R319). -/
def sysLevel (num : BitVec 14) : Nat :=
  if 0x100 ≤ num.toNat ∧ num.toNat ≤ 0x105 then 1 else if 0x110 ≤ num.toNat ∧ num.toNat ≤ 0x115 then 2 else 0

/-- Whether the access is from a level below the register's (R109); a context has no trap levels (R9, R298). -/
def State.sysDenied (s : State) (num : BitVec 14) : Bool :=
  s.onTile && decide (s.thread.lvl.num < sysLevel num)

/-! ### A SYSW that takes effect -/

/-- FPCTL after a write: masks written, flags cleared by ones (R8, R27). -/
def fpctlWrite (old v : Word) : Word := (v &&& 0xC100) ||| (old &&& 0x1F &&& ~~~v)

/-- A thread's register written (R104, R109). -/
def Thread.sysWrite (t : Thread) (tile : Bool) (num : Nat) (v : Word) : Thread :=
  if num = 0 then { t with fpctl := fpctlWrite t.fpctl v }
  else if !tile then t
  else if num = 4 then { t with ps := v.setWidth 8 }
  else if 0x100 ≤ num ∧ num ≤ 0x104 then { t with tr1 := t.tr1.write (num - 0x100) v }
  else if 0x110 ≤ num ∧ num ≤ 0x114 then { t with tr2 := t.tr2.write (num - 0x110) v }
  else t

/-- A tile's register outside its thread written: EVSTAT.OVF and the flags of ASTAT are cleared by ones (R111, R169). -/
def Tile.sysWrite (x : Tile) (num : Nat) (v : Word) : Tile :=
  if num = 0x040 then (if v.getLsbD 7 then { x with ovf := false, lost := 0 } else x)
  else if num = 0x050 then { x with astat := x.astat &&& ~~~(v.setWidth 5) }
  else { x with th := x.th.sysWrite true num v }

end Sys2Proof.Machine
end

