-- ==== Sys2Proof/Machine/Memory.lean ====
section
/-! DEFINITION. The address spaces of a tile and of a sequencer context, translation, scratchpad reads and writes through both views, loads, posted stores and atomics of the slice (R192 to R213, R269 to R275, R300, R387). -/

namespace Sys2Proof

/-- The order of scopes. -/
def Scope.num : Scope → Nat
  | .tile => 0 | .cluster => 1 | .die => 2 | .module => 3 | .system => 4

namespace Machine

/-! ### Damaged words (R392) -/

/-- Whether bytes of HBM lie in a damaged word. -/
def State.hbmBad (s : State) (pa n : Nat) : Bool :=
  s.modl.bad.any fun p => match p with
    | .hbm w => decide (pa < 8 * w + 8 ∧ 8 * w < pa + n)
    | _ => false

/-- Whether bytes of a scratchpad, by linear offset, lie in a damaged word. -/
def State.spadBad (s : State) (t a n : Nat) : Bool :=
  s.modl.bad.any fun p => match p with
    | .scratch u w => u.toNat == t && decide (a < 8 * w + 8 ∧ 8 * w < a + n)
    | _ => false

/-- Whether a row of the tile file holds a damaged word. -/
def State.trowBad (s : State) (t k : Nat) : Bool :=
  s.modl.bad.any fun p => match p with
    | .tfile u w => u.toNat == t && w / 64 == k
    | _ => false

/-- Whether the first n elements of a row of the accumulator store lie in a damaged word (R200). -/
def State.accBad (s : State) (t k n : Nat) : Bool :=
  s.modl.bad.any fun p => match p with
    | .acc u w => u.toNat == t && w / 64 == k && decide (2 * (w % 64) < n)
    | _ => false

/-- Whether a dictionary entry, bank x 2048 + index, holds a damaged word. -/
def State.dictBad (s : State) (t e : Nat) : Bool :=
  s.modl.bad.any fun p => match p with
    | .dict u w => u.toNat == t && w / 2 == e
    | _ => false

/-- The damaged words that a test does not name stay. -/
def State.clean (s : State) (gone : Place → Bool) : State :=
  s.modMod fun m => { m with bad := m.bad.filter fun p => !gone p }

/-! ### Address ranges (R192, R193, R196) -/

/-- The first and last address of each range of R192. -/
def ranges : List (Nat × Nat) :=
  [(0x0, 0x2FFFFF), (0x400000, 0x6FFFFF), (0x100000000, 0x17FFFFFFF)]

/-- The range an address lies in. -/
def rangeOf (a : Nat) : Option (Nat × Nat) := ranges.find? fun r => r.1 ≤ a && a ≤ r.2

/-- The lowest address of an access that lies outside the range of its first byte, if one does (R193). -/
def outside (a n : Nat) : Option Nat :=
  match rangeOf a with
  | none => some a
  | some r => if a + n ≤ r.2 + 1 then none else some (r.2 + 1)

/-- The scratchpad range check: as `outside`, with the slice outside too. -/
def outsideSpad (a n : Nat) : Option Nat :=
  if a ≤ 0x6FFFFF then outside a n else some a

/-- The swizzle function (R196). -/
def swizzle (y : Nat) : Nat :=
  y / 1024 * 1024 + ((y / 64 % 16) ^^^ (y / 1024 % 16)) * 64 + y % 64

/-- The linear offset of an offset of a view. -/
def linOf (swz : Bool) (y : Nat) : Nat := if swz then swizzle y else y

/-- Whether a scratchpad address is in the swizzled view, and its offset in its view (R195). -/
def spadView (a : Nat) : Bool × Nat := if a < 0x400000 then (false, a) else (true, a - 0x400000)

/-! ### Translation (R201 to R205, R387) -/

/-- The right to read. -/
def rRD : Nat := 2
/-- The right to write. -/
def rW : Nat := 4
/-- The right to fetch. -/
def rX : Nat := 8

/-- The rights an access needs that an entry lacks. -/
def lacks (e : Word) (need : Nat) : Bool := (BitVec.ofNat 64 need &&& ~~~e) != 0

/-- PADDR as an address. -/
def entryAddr (e : Word) : Nat := (e.extractLsb' 8 32).toNat * 256

/-- The index of a cluster within a partition (R202). -/
def Part.lidx (p : Part) (c : Nat) : Option Nat := p.map.findIdx? fun k => k.toNat == c

/-- Whether an address lies in the partition's slices. -/
def Part.owns (p : Part) (pa : Nat) : Bool := p.map.any fun k => k.toNat == pa / 2 ^ 31

/-- The save region of a cluster, within its slice: base and end (R387). -/
def Part.saveRegion (p : Part) (c : Nat) : Nat × Nat :=
  let b := c * 2 ^ 31 + 65536 * (p.svcfg.extractLsb' 16 15).toNat
  (b, min (b + (p.svcfg.extractLsb' 8 8).toNat * 4 * p.svlen.toNat) ((c + 1) * 2 ^ 31))

/-- Whether a frame overlaps a save region or the fault queue; an empty region overlaps nothing (R387). -/
def Part.pinned (p : Part) (pa n : Nat) : Bool :=
  let r := p.saveRegion (pa / 2 ^ 31)
  decide (r.1 < r.2 ∧ pa < r.2 ∧ r.1 < pa + n) || decide (pa < p.fqBase + 32 * p.fqSize ∧ p.fqBase < pa + n)

/-- The address of the level-1 entry for w in the table of cluster c's index; none for a cluster without one (R203). -/
def Part.level1At (p : Part) (c w : Nat) : Option Nat :=
  (p.lidx c).map fun l => (p.ptbase.extractLsb' 12 28).toNat * 4096 + 0x2000 * l + 8 * (w / 2 ^ 21)

/-- A table entry as it stands. -/
def State.tableEntry (s : State) (a : Nat) : Word := BitVec.ofNat 64 (readLe s.hbm a 8)

/-- The checks of a mapping entry of cluster c for a page of n bytes (R203, R387). -/
def Part.checkEntry (p : Part) (c : Nat) (e : Word) (n : Nat) : Except (BitVec 8) Word :=
  if !p.owns (entryAddr e) then .error cXLATE_RIGHTS
  else if !e.getLsbD 4 && entryAddr e / 2 ^ 31 != c then .error cXLATE_RIGHTS
  else if e.getLsbD 4 && e.getLsbD 2 then .error cXLATE_RIGHTS
  else if p.pinned (entryAddr e) n then .error cXLATE_RIGHTS
  else .ok e

/-- What level 1 of the walk of w finds: the mapping entry, the address of a level-2 entry, or the fault (R203). -/
def State.walkUpper (s : State) (p : Part) (c w : Nat) : Except (BitVec 8) (Word ⊕ Nat) :=
  match p.level1At c w with
  | none => .error cXLATE_NOTPRESENT
  | some a =>
    let e := s.tableEntry a
    if s.hbmBad a 8 then .error cECC
    else if !e.getLsbD 0 || e.extractLsb' 40 24 != 0 || e.extractLsb' 6 2 != 0 then .error cXLATE_NOTPRESENT
    else if e.getLsbD 5 then
      if e.extractLsb' 8 13 != 0 then .error cXLATE_NOTPRESENT else (p.checkEntry c e (2 ^ 21)).map .inl
    else if !p.owns (entryAddr e) then .error cXLATE_RIGHTS
    else .ok (.inr (entryAddr e + 8 * (w / 2 ^ 16 % 32)))

/-- The walk of w through the table of cluster c's index: the mapping entry, or the fault (R203, R387). -/
def State.walk (s : State) (p : Part) (c w : Nat) : Except (BitVec 8) Word :=
  match s.walkUpper p c w with
  | .error f => .error f
  | .ok (.inl e) => .ok e
  | .ok (.inr a) =>
    let e := s.tableEntry a
    if s.hbmBad a 8 then .error cECC
    else if !e.getLsbD 0 || e.extractLsb' 40 24 != 0 || e.extractLsb' 5 3 != 0 || e.extractLsb' 8 8 != 0 then
      .error cXLATE_NOTPRESENT
    else p.checkEntry c e (2 ^ 16)

/-- What a walk found, as a cluster keeps it: the mapping entry, a fault, or the fault of a level-2 entry with V = 0 under its
level-1 entry; a damaged table entry leaves nothing (R205, R343). -/
def State.walked (s : State) (p : Part) (c w : Nat) : Option OldWalk :=
  match s.walk p c w with
  | .ok e => some (.entry e)
  | .error f =>
    if f = cECC then none
    else match s.walkUpper p c w with
      | .ok (.inr a) =>
        if (s.tableEntry a).getLsbD 0 then some (.fault f) else some (.hole (((p.level1At c w).map s.tableEntry).getD 0))
      | _ => some (.fault f)

/-- What an earlier walk still offers an access: what it found then, but the fault of a level-2 entry with V = 0 no longer
while the same level-1 entry stands, since a change of that entry to V = 1 needs no invalidation (R205, R343). -/
def OldWalk.offers (o : OldWalk) (level1 : Word) : Option (Except (BitVec 8) Word) :=
  match o with
  | .entry e => some (.ok e)
  | .fault f => some (.error f)
  | .hole e => if e = level1 then none else some (.error cXLATE_NOTPRESENT)

/-- The HBM physical address of w under a mapping entry (R202). -/
def mapped (e : Word) (w : Nat) : Nat :=
  if e.getLsbD 5 then entryAddr e + w % 2 ^ 21 else entryAddr e + w % 2 ^ 16

/-- The translations under which an access to slice-virtual offset w of cluster c may go: the entry that the cluster's
buffer holds, what earlier walks since its last invalidation found, and what a walk of the table as it stands finds (R203
to R205, R343). -/
def State.mappings (s : State) (c w : Nat) : List (Except (BitVec 8) Word) :=
  let k := s.cluster c
  let page := w / 2 ^ 16
  let (level1, now) : Word × List (Except (BitVec 8) Word) := match k.owner with
    | some v => ((((s.part v.toNat).level1At c w).map s.tableEntry).getD 0, [s.walk (s.part v.toNat) c w])
    | none => (0, [])
  ((ffind k.tlb page).toList.map Except.ok ++ ((fget [] k.walks page).filterMap (OldWalk.offers · level1) ++ now)).dedup

/-- Which access of a turn asks for a translation: that of a slot or an engine, the fetch of a slot's end bundle, or the fetch
of the bundle itself. -/
def Issue.access (k : Issue) (need : Nat) : Nat :=
  k.pos + 8 * if need = rX then (if k.phase = .alone then 2 else 1) else 0

/-- The translation that access k of a turn uses: each granule of each access is free among those admitted (R205;
assumption 15). -/
def State.mapping (s : State) (c w k : Nat) : Except (BitVec 8) Word :=
  match s.mappings c w with
  | [] => .error cXLATE_NOTPRESENT
  | [e] => e
  | e :: f :: r =>
    let l := e :: f :: r
    l.getD (Config.xlateChoice s.turnNo (w / 64) k % l.length) e

/-- A translation buffer without the entry of a page, which accesses may still use until the next invalidation (R204,
R205). -/
def Cluster.dropEntry (k : Cluster) (page : Nat) : Cluster := { k with tlb := fdel k.tlb page }

/-- A cluster in which a walk for a page has found something: kept until the next invalidation, and a mapping enters the
buffer of 1024 entries while it has room (R204, R205). -/
def Cluster.keepWalk (k : Cluster) (page : Nat) (o : OldWalk) : Cluster :=
  let l := fget [] k.walks page
  { k with
    walks := if l.contains o then k.walks else fput k.walks page (o :: l)
    tlb := match o with
      | .entry e => if (ffind k.tlb page).isSome ∨ 1024 ≤ k.tlb.length then k.tlb else fput k.tlb page e
      | _ => k.tlb }

/-- A cluster whose buffer has been invalidated: nothing of an earlier table is used any more (R205). -/
def Cluster.invalidated (k : Cluster) : Cluster := { k with tlb := [], walks := [] }

/-- The translation of slice-virtual offset w of cluster c: physical address and G (R203, R204). -/
def State.translate (s : State) (c w need : Nat) : Except (BitVec 8) (Nat × Bool) :=
  match s.mapping c w (s.iss.access need) with
  | .error e => .error e
  | .ok e => if lacks e need then .error cXLATE_RIGHTS else .ok (mapped e w, e.getLsbD 4)

/-! ### Where a data access goes -/

/-- The place of a data access: scratchpad (view, offset), command memory, or HBM (cluster whose table translates it,
slice-virtual offset). -/
inductive Target where
  | spad (swz : Bool) (off : Nat)
  | cmd (off : Nat)
  | hbm (c w : Nat)
deriving DecidableEq, Repr

/-- The place of an address of a tile (R192). -/
def tileTarget (c a : Nat) : Target :=
  if a ≤ 0x6FFFFF then .spad (spadView a).1 (spadView a).2 else .hbm c (a - 0x100000000)

/-- The place of an address of a sequencer context, and the lowest address of an access outside its range (R300). -/
def State.seqTarget (s : State) (q a n : Nat) : Except Nat Target :=
  if a < 0x20000 then (if a + n ≤ 0x20000 then .ok (.cmd a) else .error 0x20000)
  else if a < 0x200000000 then .error a
  else
    let l := (a - 0x200000000) / 2 ^ 31
    let w := (a - 0x200000000) % 2 ^ 31
    match s.partOfSeq q with
    | none => .error a
    | some v =>
      match (s.part v).map[l]? with
      | none => .error a
      | some c =>
        if w + n ≤ 2 ^ 31 then .ok (.hbm c.toNat w)
        else if l + 1 < (s.part v).map.length then .ok (.hbm c.toNat w) else .error (a - w + 2 ^ 31)

/-- The place of an access of the issuing agent, or the address VIEW_RANGE reports (R193, R300). -/
def State.target (s : State) (a : Word) (n : Nat) : Except Nat Target :=
  match s.iss.agent with
  | .tile t =>
    match outside a.toNat n with
    | some x => .error x
    | none => .ok (tileTarget (t.toNat / 4) a.toNat)
  | .seq q => s.seqTarget q.toNat a.toNat n

/-- A fault of an access, with STAT.WR for a write or an atomic (R319). -/
def State.faultAcc (s : State) (wr : Bool) (cause : BitVec 8) (addr : Word) : Verdict :=
  if wr then s.faultWr cause addr else s.faultAt cause addr

/-- The checks of a scalar access at issue: range, alignment, translation, and damaged words where it reads at issue
(R134, R208, R213, R300). -/
def State.accessCheck (s : State) (a : Word) (size need : Nat) (wr : Bool) : Verdict :=
  match s.target a size with
  | .error x => s.faultAcc wr cVIEW_RANGE (BitVec.ofNat 64 x)
  | .ok tg =>
    if a.toNat % size ≠ 0 then s.faultAcc wr cALIGN a
    else match tg with
      | .spad swz off =>
        checkThat (need == rW || !s.spadBad s.curId (linOf swz off) size) (s.faultAcc wr cECC a)
      | .cmd _ => .go
      | .hbm c w =>
        match s.translate c w need with
        | .error e => s.faultAcc wr e a
        | .ok _ => .go

/-! ### Scratchpads -/

/-- Bytes cut at granule boundaries: each piece with its offset (R271). -/
def splitGran : Nat → Nat → List Byte → List (Nat × List Byte)
  | 0, _, _ => []
  | n + 1, off, bs =>
    if bs.isEmpty then []
    else
      let k := 64 - off % 64
      (off, bs.take k) :: splitGran n (off + k) (bs.drop k)

/-- The pieces of a write. -/
def pieces (off : Nat) (bs : List Byte) : List (Nat × List Byte) := splitGran (bs.length + 1) off bs

/-- Bytes of a scratchpad as they stand, through a view. -/
def Tile.spadBytes (x : Tile) (swz : Bool) (off n : Nat) : List Byte :=
  (List.range n).map fun k => readByte x.spad (linOf swz (off + k))

/-- A granule of a scratchpad as it stands, by linear granule. -/
def Tile.gran (x : Tile) (g : Nat) : Granule := granOf (readBytes x.spad (64 * g) 64)

/-- A granule with bytes from offset o replaced. -/
def patchGran (g : Granule) (o : Nat) (bs : List Byte) : Granule :=
  let l := granBytes g
  granOf (l.take o ++ (bs ++ l.drop (o + bs.length)))

/-- The states since the latest write through a view, newest first, that one among them. -/
def sinceOwn (swz : Bool) : List ViewState → List ViewState
  | [] => []
  | v :: r => if v.swz = some swz then [v] else v :: sinceOwn swz r

/-- The contents a read through a view may return, newest first: back to the latest write through that view, or to the
last VJOIN; the newest alone where nothing in that span went through the other view (R198). -/
def viewStates (swz : Bool) (h : List ViewState) : List Granule :=
  let l := sinceOwn swz h
  (if l.any fun v => v.swz == some (!swz) then l else l.take 1).map ViewState.content

/-- The contents a read of a linear granule through a view may return. -/
def Tile.granStates (x : Tile) (swz : Bool) (g : Nat) : List Granule :=
  match ffind x.views g with
  | none => [x.gran g]
  | some h => (viewStates swz h).dedup

/-- The states that a granule has passed through since the last VJOIN, newest first; one that has no history stands as it stood
then (R198). -/
def Tile.history (x : Tile) (g : Nat) : List ViewState := (ffind x.views g).getD [⟨x.gran g, none, none⟩]

/-- A granule read by the tile's own access through a view: one of its possible states (R198; assumption 7). -/
def State.readGran (s : State) (t : Nat) (swz : Bool) (g : Nat) : Granule × State :=
  match (s.tile t).granStates swz g with
  | [] => (0, s)
  | [x] => (x, s)
  | x :: y :: r =>
    let l := x :: y :: r
    (l.getD (Config.viewChoice s.choice % l.length) x, { s with choice := s.choice + 1 })

/-- Whole granules of a view, one after another, from view granule k. -/
def State.readGrans (s : State) (t : Nat) (swz : Bool) (k : Nat) : Nat → List Byte × State
  | 0 => ([], s)
  | n + 1 =>
    let r := s.readGran t swz (linOf swz (64 * k) / 64)
    let rest := r.2.readGrans t swz (k + 1) n
    (granBytes r.1 ++ rest.1, rest.2)

/-- A granule as the decoder of an SLD reads it through a view in this turn, at the check and at the commit alike: one of its
possible states (R156, R198; assumption 7). -/
def State.scaleGran (s : State) (t : Nat) (swz : Bool) (g : Nat) : Granule :=
  match (s.tile t).granStates swz g with
  | [] => 0
  | [x] => x
  | x :: y :: r =>
    let l := x :: y :: r
    l.getD (Config.scaleChoice s.turnNo g % l.length) x

/-- Bytes of a tile's own scratchpad as the decoder of an SLD reads them through a view (R156, R198). -/
def State.scaleBytes (s : State) (t : Nat) (swz : Bool) (off n : Nat) : List Byte :=
  if n = 0 then []
  else
    let k := off / 64
    let grans := (List.range ((off + n - 1) / 64 + 1 - k)).flatMap fun i =>
      granBytes (s.scaleGran t swz (linOf swz (64 * (k + i)) / 64))
    (grans.drop (off % 64)).take n

/-- Bytes of the tile's own scratchpad read through a view (R198). -/
def State.readView (s : State) (t : Nat) (swz : Bool) (off n : Nat) : List Byte × State :=
  if n = 0 then ([], s)
  else
    let k := off / 64
    let r := s.readGrans t swz k ((off + n - 1) / 64 + 1 - k)
    ((r.1.drop (off % 64)).take n, r.2)

/-- A tile's scratchpad with a piece inside one granule written. -/
def Tile.putPiece (x : Tile) (swz : Bool) (off : Nat) (bs : List Byte) : Tile :=
  { x with spad := writeBytes x.spad (linOf swz off) bs }

/-- The damaged words that a piece covers are whole again. -/
def State.cleanPiece (s : State) (t : Nat) (swz : Bool) (off : Nat) (bs : List Byte) : State :=
  let a := linOf swz off
  s.clean fun p => match p with
    | .scratch u w => u.toNat == t && decide (a ≤ 8 * w ∧ 8 * w + 8 ≤ a + bs.length)
    | _ => false

/-- A write of the tile's own through a view: the granule's history keeps every state since the last VJOIN (R198). -/
def State.writeView (s : State) (t : Nat) (swz : Bool) (off : Nat) (bs : List Byte) : State :=
  (pieces off bs).foldl (fun s p =>
    let g := linOf swz p.1 / 64
    let s := s.modTile t fun x =>
      let y := x.putPiece swz p.1 p.2
      { y with views := fput x.views g (⟨y.gran g, some swz, none⟩ :: x.history g) }
    s.cleanPiece t swz p.1 p.2) s

/-- A write by operation id, a copy, a window transfer or a collective: one more state of the granule, through neither view
(R198). -/
def State.writeSpad (s : State) (id t : Nat) (swz : Bool) (off : Nat) (bs : List Byte) : State :=
  (pieces off bs).foldl (fun s p =>
    let g := linOf swz p.1 / 64
    let s := s.modTile t fun x =>
      let y := x.putPiece swz p.1 p.2
      { y with views := fput x.views g (⟨y.gran g, none, some id⟩ :: x.history g) }
    s.cleanPiece t swz p.1 p.2) s

/-- A history without the states before the last write of an operation. -/
def cutBefore (id : Nat) : List ViewState → List ViewState
  | [] => []
  | v :: r => if v.op = some id then [v] else v :: cutBefore id r

/-- A tile whose views both hold what an operation wrote, once its REMOTE has come; a granule with one state left has no
history any more (R198; assumption 56). -/
def Tile.joinOp (x : Tile) (id : Nat) : Tile :=
  { x with views := (x.views.map fun e => (e.1, cutBefore id e.2)).filter fun e => e.2.length != 1 }

/-- The issuing tile's two views agree on every write performed so far (R198, R199). -/
def State.joinViews (s : State) : State := s.modCur fun x => { x with views := [] }

/-- A scratchpad write of the bundle in issue, performed at its end (R134). -/
def State.deferWrite (s : State) (swz : Bool) (off : Nat) (bs : List Byte) : State :=
  s.modIss fun i => { i with writes := i.writes ++ [⟨i.pos, swz, off, bs⟩] }

/-! ### Accesses of engines at tile-virtual addresses -/

/-- The data of bytes inside one granule at a tile-virtual address, or the cause that refuses them. -/
def State.readAt (s : State) (t a n : Nat) : Except (BitVec 8) (List Byte) :=
  match tileTarget (t / 4) a with
  | .spad swz off => if s.spadBad t (linOf swz off) n then .error cECC else .ok ((s.tile t).spadBytes swz off n)
  | .hbm c w =>
    match s.translate c w rRD with
    | .error e => .error e
    | .ok (pa, _) => if s.hbmBad pa n then .error cECC else .ok (readBytes s.hbm pa n)
  | .cmd _ => .error cXLATE_NOTPRESENT

/-- The state with bytes inside one granule written by operation id at a tile-virtual address, or the cause that refuses
them. -/
def State.writeAt (s : State) (id t a : Nat) (bs : List Byte) : Except (BitVec 8) State :=
  match tileTarget (t / 4) a with
  | .spad swz off => .ok (s.writeSpad id t swz off bs)
  | .hbm c w =>
    match s.translate c w rW with
    | .error e => .error e
    | .ok (pa, _) => .ok (s.hbmWrite pa bs)
  | .cmd _ => .error cXLATE_NOTPRESENT

/-- Bytes of any length read granule by granule, in ascending order. -/
def State.readSpan (s : State) (t : Nat) : List (Nat × Nat) → Except (BitVec 8) (List Byte)
  | [] => .ok []
  | (a, n) :: r =>
    match s.readAt t a n with
    | .error e => .error e
    | .ok x =>
      match s.readSpan t r with
      | .error e => .error e
      | .ok y => .ok (x ++ y)

/-- Bytes of any length written by operation id, granule by granule, in ascending order. -/
def State.writeSpan (s : State) (id t : Nat) : List (Nat × List Byte) → Except (BitVec 8) State
  | [] => .ok s
  | (a, bs) :: r =>
    match s.writeAt id t a bs with
    | .error e => .error e
    | .ok s => s.writeSpan id t r

/-- An extent cut at granule boundaries: addresses and lengths. -/
def granCuts (a n : Nat) : List (Nat × Nat) := (pieces a (List.replicate n 0)).map fun p => (p.1, p.2.length)

/-! ### Loads, stores and atomics -/

/-- A loaded value extended to 64 bits (R208). -/
def extend (signed : Bool) (size x : Nat) : Word :=
  if signed then BitVec.ofInt 64 (signedOf (8 * size) x) else BitVec.ofNat 64 x

/-- A number for an operation, a posted write or an outstanding answer, in issue order. -/
def State.freshId (s : State) : Nat × State := (s.nextId, { s with nextId := s.nextId + 1 })

/-- The scope of an access of an agent to HBM (R272). -/
def scopeOf (a : Agent) (pa : Nat) : Scope :=
  match a with
  | .tile t =>
    if pa / 2 ^ 31 = t.toNat / 4 then .cluster else if pa / 2 ^ 37 = t.toNat / 256 then .die else .module
  | .seq q => if pa / 2 ^ 37 = q.toNat / 8 then .die else .module

/-- The thread with an outstanding answer added at its level. -/
def Thread.addLoad (t : Thread) (l : Load) : Thread := t.modBank fun b => { b with loads := b.loads ++ [l] }

/-- An outstanding answer of the slot in issue (R69). -/
def State.pendLoad (s : State) (dest : Option SDst) (va : Word) (pa size : Nat) (signed cached atomic : Bool)
    (id : Nat) : State :=
  s.modThread fun t => t.addLoad
    { id := id, due := t.bank.n + 8, seq := t.bundles, pos := s.iss.pos, dest := dest, va := va, pa := pa, size := size,
      signed := signed, cached := cached, atomic := atomic, value := none }

/-- A load at issue: from the scratchpad or command memory at once, latency 5; from the slice an answer that is
awaited, latency 8 (R208, R209, R300). -/
def State.load (s : State) (n : Bool) (d : SDst) (a : Word) (size : Nat) (signed : Bool) : State :=
  match s.target a size with
  | .error _ => s
  | .ok (.spad swz off) =>
    let r := s.readView s.curId swz off size
    r.2.dstS 5 n d (extend signed size (leNat r.1))
  | .ok (.cmd off) =>
    match s.iss.agent with
    | .seq q => s.dstS 5 n d (extend signed size (readLe (s.seqCtx q.toNat).cmd off size))
    | .tile _ => s
  | .ok (.hbm c w) =>
    match s.translate c w rRD with
    | .error _ => s
    | .ok (pa, g) =>
      let f := s.freshId
      f.2.pendLoad (if n then none else some (s.fixS d)) a pa size signed (!g && s.onTile) false f.1

/-- The thread with a posted write added. -/
def Thread.addPost (t : Thread) (p : Post) : Thread := { t with posts := t.posts ++ [p] }

/-- A store at issue: to the scratchpad at the end of the bundle, to command memory at once, to the slice posted
(R134, R209). -/
def State.store (s : State) (a : Word) (size : Nat) (v : Word) : State :=
  match s.target a size with
  | .error _ => s
  | .ok (.spad swz off) => s.deferWrite swz off (leBytes size v.toNat)
  | .ok (.cmd off) =>
    match s.iss.agent with
    | .seq q => s.modSeq q.toNat fun x => { x with cmd := writeLe x.cmd off size v.toNat }
    | .tile _ => s
  | .ok (.hbm c w) =>
    match s.translate c w rW with
    | .error _ => s
    | .ok (pa, _) =>
      let f := s.freshId
      f.2.modThread fun t => t.addPost ⟨f.1, pa, scopeOf s.iss.agent pa, .store (leBytes size v.toNat), none⟩

/-- The new word of an atomic (R210). -/
def AOp.apply (op : AOp) (size : Nat) (x e old : Nat) : Nat :=
  let w := 8 * size
  match op with
  | .add => (old + x) % 2 ^ w
  | .min => if signedOf w x < signedOf w old then x % 2 ^ w else old
  | .max => if signedOf w old < signedOf w x then x % 2 ^ w else old
  | .xchg => x % 2 ^ w
  | .cas => if old = e % 2 ^ w then x % 2 ^ w else old
  | .fadd => (fAdd .fp32 .rne old (x % 2 ^ 32)).1

/-- An atomic at issue: on the scratchpad or command memory it performs at once, with its write at the end of the
bundle; on the slice it goes to the atomic unit (R210 to R213). -/
def State.atomic (s : State) (n : Bool) (d : SDst) (op : AOp) (size : Nat) (a x e : Word) : State :=
  let ext (old : Nat) : Word := extend (op != .fadd) size old
  match s.target a size with
  | .error _ => s
  | .ok (.spad swz off) =>
    let r := s.readView s.curId swz off size
    let old := leNat r.1
    (r.2.dstS 8 n d (ext old)).deferWrite swz off (leBytes size (op.apply size x.toNat e.toNat old))
  | .ok (.cmd off) =>
    match s.iss.agent with
    | .seq q =>
      let old := readLe (s.seqCtx q.toNat).cmd off size
      (s.modSeq q.toNat fun c => { c with cmd := writeLe c.cmd off size (op.apply size x.toNat e.toNat old) }).dstS 5 n d
        (ext old)
    | .tile _ => s
  | .ok (.hbm c w) =>
    match s.translate c w (rRD + rW) with
    | .error _ => s
    | .ok (pa, _) =>
      let f := s.freshId
      let s1 := f.2.pendLoad (if n then none else some (s.fixS d)) a pa size (op != .fadd) false true f.1
      let s2 := s1.modThread fun t => t.addPost ⟨f.1, pa, scopeOf s.iss.agent pa, .atomic op size x e, none⟩
      match s.iss.agent with
      | .tile t => s2.modTile t.toNat fun y => y.dropLines pa size
      | .seq _ => s2

/-! ### Order of slice accesses (R211, R274, R275) -/

/-- Whether two accesses touch a common byte. -/
def overlaps (a n b m : Nat) : Bool := decide (a < b + m ∧ b < a + n)

/-- The bytes of a posted write. -/
def Post.size (p : Post) : Nat :=
  match p.op with
  | .store bs => bs.length
  | .atomic _ n _ _ => n

/-- The pseudo-channel of an HBM physical address (R201). -/
def channelOf (pa : Nat) : Nat := pa / 2 ^ 31 * 12 + pa % 2 ^ 31 / 256 % 12

/-- A load or atomic put before the first younger one. -/
def insertLoad (l : Load) : List Load → List Load
  | [] => [l]
  | k :: r => if l.id ≤ k.id then l :: k :: r else k :: insertLoad l r

/-- Every outstanding answer of a thread that has not performed, at any level, oldest first. -/
def Thread.unperformed (t : Thread) : List Load :=
  ((t.b0.loads ++ (t.b1.loads ++ t.b2.loads)).filter fun l => l.value.isNone).foldr insertLoad []

/-- Whether every plain access issued before number id has performed (R276, R278). -/
def Thread.quietBefore (t : Thread) (id : Nat) : Bool :=
  (t.posts.all fun p => decide (id ≤ p.id)) && t.unperformed.all fun l => decide (id ≤ l.id)

/-- Whether every plain access of a thread has performed. -/
def Thread.quiet (t : Thread) : Bool := t.posts.isEmpty && t.unperformed.isEmpty

/-- Whether a posted write must perform before a later one: one of the same scope, of the same pseudo-channel or of a common
byte, or one that comes after a load which took the earlier one's bytes and performs no sooner than it (R211, R270, R274;
assumption 20). -/
def Post.before (p q : Post) : Bool :=
  decide (p.id < q.id) && (p.scope == q.scope || channelOf p.pa == channelOf q.pa || overlaps p.pa p.size q.pa q.size ||
    p.took.any fun k => decide (k < q.id))

/-- Whether a posted write may perform now: every earlier load has performed, and every earlier write that must perform
before it (R211, R274). -/
def Thread.mayApply (t : Thread) (p : Post) : Bool :=
  (t.unperformed.all fun l => decide (p.id ≤ l.id)) && t.posts.all fun q => !q.before p

/-- Whether a load may perform now at the unit: no earlier posted write and no earlier load of a common byte waits. -/
def Thread.mayLoad (t : Thread) (l : Load) : Bool :=
  (t.posts.all fun q => decide (l.id ≤ q.id) || !overlaps q.pa q.size l.pa l.size) &&
    t.unperformed.all fun k => decide (l.id ≤ k.id) || !overlaps k.pa k.size l.pa l.size

/-- The tile's own latest posted store to the bytes of a load, and the bytes that the load may take from it before it
performs (R270). -/
def Thread.forward (t : Thread) (l : Load) : Option (Post × List Byte) :=
  match (t.posts.filter fun q => decide (q.id < l.id) && overlaps q.pa q.size l.pa l.size).getLast? with
  | some q =>
    match q.op with
    | .store bs =>
      if q.pa ≤ l.pa ∧ l.pa + l.size ≤ q.pa + bs.length ∧
          (t.unperformed.all fun k => decide (l.id ≤ k.id) || !overlaps k.pa k.size l.pa l.size) then
        some (q, (bs.drop (l.pa - q.pa)).take l.size)
      else none
    | .atomic _ _ _ _ => none
  | none => none

/-- Load k has taken the bytes of posted store p: it counts as performed no sooner than the store (R270, R274; assumption
20). -/
def Thread.take (t : Thread) (p k : Nat) : Thread :=
  { t with posts := t.posts.map fun q => if q.id = p then { q with took := some (min k (q.took.getD k)) } else q }

/-- The thread with every level's copy changed. -/
def Thread.mapBanks (t : Thread) (f : Bank → Bank) : Thread := { t with b0 := f t.b0, b1 := f t.b1, b2 := f t.b2 }

/-- An answer that has come: its delayed writes at its own offsets, the outstanding answer gone (R66, R69). -/
def Bank.answer (b : Bank) (l : Load) (v : Word) : Bank :=
  if b.loads.any fun k => k.id == l.id then
    { b with
      loads := b.loads.filter fun k => k.id != l.id
      pend := b.pend ++ (⟨l.due, l.seq, .latch l.pos (rowOfWord v)⟩ ::
        match l.dest with
        | some d => [⟨l.due + 1, l.seq, d.act v⟩]
        | none => []) }
  else b

/-- The answer of a load or atomic of a thread. -/
def Thread.answer (t : Thread) (l : Load) (v : Word) : Thread := t.mapBanks fun b => b.answer l v

/-- A load or an atomic of a thread has performed and found a value, which its answer will bring. -/
def Thread.performed (t : Thread) (id : Nat) (v : Word) : Thread :=
  t.mapBanks fun b => { b with loads := b.loads.map fun l => if l.id = id then { l with value := some v } else l }

/-- A posted write applied at its atomic unit (R211). -/
def State.applyPost (s : State) (a : Agent) (p : Post) : State :=
  let s := s.modThreadOf a fun t => { t with posts := t.posts.filter fun q => q.id != p.id }
  match p.op with
  | .store bs => s.hbmWrite p.pa bs
  | .atomic op size x e =>
    let old := readLe s.hbm p.pa size
    (s.hbmWrite p.pa (leBytes size (op.apply size x.toNat e.toNat old))).modThreadOf a fun t =>
      t.performed p.id (extend (op != .fadd) size old)

/-! ### Answers and damaged words (R209, R213, R301) -/

/-- The outstanding answer of a number. -/
def Thread.findLoad (t : Thread) (k : Nat) : Option Load :=
  (t.b0.loads ++ t.b1.loads ++ t.b2.loads).find? fun l => l.id == k

/-- A line enters a data cache of 512 lines; a full one gives up a line for it (R206; assumption 7). -/
def Tile.cacheLine (x : Tile) (line k : Nat) : Tile :=
  let old := x.dcache.erase line
  { x with dcache := line :: if old.length < 512 then old else old.eraseIdx (Config.victim k % old.length) }

/-- A load's line enters the tile's data cache (R206). -/
def State.cacheLine (s : State) (a : Agent) (l : Load) : State :=
  match a with
  | .tile t =>
    if l.cached then { s.modTile t.toNat fun x => x.cacheLine (l.pa / 64) s.choice with choice := s.choice + 1 } else s
  | .seq _ => s

/-- Whether the tile holds a clean copy of a load's line (R206, R207). -/
def State.lineHeld (s : State) (a : Agent) (l : Load) : Bool :=
  match a with
  | .tile t => l.cached && (s.tile t.toNat).dcache.contains (l.pa / 64)
  | .seq _ => false

/-- An uncorrectable error in the data of a load: the context is killed; a sequencer context that still runs stops, with
the PC of its next bundle in the done record (R209, R301, R303; assumption 57). -/
def State.loadDamage (s : State) (a : Agent) (l : Load) : State :=
  match a with
  | .tile t => s.killTile t.toNat cECC 0 l.va
  | .seq q => if (s.seqCtx q.toNat).running then s.seqStop q.toNat cECC (s.threadOf a).bank.pc else s

/-- An uncorrectable error in the word of an atomic (R213). -/
def State.postDamage (s : State) (p : Post) : Bool :=
  match p.op with
  | .store _ => false
  | .atomic _ n _ _ => s.hbmBad p.pa n

/-- A posted write performs, or the damaged word of an atomic kills (R211, R213). -/
def State.performPost (s : State) (a : Agent) (p : Post) : State :=
  if s.postDamage p then
    let r := s.modThreadOf a fun t => { t with posts := t.posts.filter fun q => q.id != p.id }
    match (s.threadOf a).findLoad p.id with
    | some l => r.loadDamage a l
    | none => r
  else s.applyPost a p

/-! ### Earlier loads before a later store (R274) -/

/-- The posted writes of a thread that a test names, and all that must perform before them, oldest first. -/
def Thread.postsFor (t : Thread) (need : Post → Bool) : List Post :=
  t.posts.reverse.foldl (fun l p => if need p || l.any p.before then p :: l else l) []

/-- The posted writes that stand before a load at its unit: an atomic's own, or the earlier ones of a common byte. -/
def Post.meets (p : Post) (l : Load) : Bool :=
  if l.atomic then p.id == l.id else decide (p.id < l.id) && overlaps p.pa p.size l.pa l.size

/-- A load performs at the unit: its value is found, or its damaged word kills (R209). -/
def State.readLoad (s : State) (a : Agent) (l : Load) : State :=
  if s.hbmBad l.pa l.size && !s.lineHeld a l then s.loadDamage a l
  else (s.cacheLine a l).modThreadOf a fun t => t.performed l.id (extend l.signed l.size (readLe s.hbm l.pa l.size))

/-- The posted writes of an agent that a test names perform, and all that must perform before them. -/
def State.performPosts (s : State) (a : Agent) (need : Post → Bool) : State :=
  ((s.threadOf a).postsFor need).foldl (fun s p => s.performPost a p) s

/-- A load or an atomic performs now, after the posted writes that stand before it. -/
def State.performLoad (s : State) (a : Agent) (l : Load) : State :=
  let s := s.performPosts a fun p => p.meets l
  if l.atomic then s else s.readLoad a l

/-- Whether a load or an atomic stands before a store of a bundle and slot: within one bundle every load does, and an atomic of
a lower slot (R134, R274; assumption 20). -/
def Load.before (l : Load) (seq pos : Nat) : Bool := decide (l.seq < seq ∨ l.seq = seq ∧ (l.atomic = false ∨ l.pos < pos))

/-- Every load and atomic of an agent that stands before a store of a bundle and slot performs, and every posted store whose
bytes such a load has taken: no store performs before them (R270, R274, R282). -/
def State.performEarlier (s : State) (a : Agent) (seq pos : Nat) : State :=
  (((s.threadOf a).unperformed.filter fun l => l.before seq pos).foldl (fun s l => s.performLoad a l) s).performPosts a
    fun p => p.took.isSome

end Machine

end Sys2Proof
end

