-- ==== Sys2Proof/Machine/Array.lean ====
section
/-! DEFINITION. What the matrix array computes and when it changes state: multiply mode, count mode, folds, drains, images, perform points and their events (R33 to R45, R140 to R170). -/

namespace Sys2Proof.Machine

/-! ### Tables walked in order -/

/-- The table with the entries at rising numbers changed; d stands for an entry that is not listed. -/
def fupdate {α : Type} (d : α) (f : Nat → α → α) : List Nat → FMap α → FMap α
  | [], m => m
  | k :: ks, m =>
    let pre := m.takeWhile fun e => decide (e.1 < k)
    match m.dropWhile fun e => decide (e.1 < k) with
    | [] => pre ++ (k, f k d) :: fupdate d f ks []
    | e :: r => pre ++ if e.1 = k then (k, f k e.2) :: fupdate d f ks r else (k, f k d) :: fupdate d f ks (e :: r)

/-- A dimension field: 0 is 128 (R80). -/
def dim (m : BitVec 7) : Nat := if m = 0 then 128 else m.toNat

/-- The numbers of the cells (i, j) with i < m and j < n, rising. -/
def cellsIn (m n : Nat) : List Nat := (List.range m).flatMap fun i => (List.range n).map fun j => 128 * i + j

/-! ### Slices and scales -/

/-- Bytes of a k-slice of a number of elements of a width (R150). -/
def sliceLen (count width : Nat) : Nat := 64 * ((count * width + 511) / 512)

/-- The k-steps per array cycle (R151). -/
def stepsPerCycle (width : Nat) : Nat := if width = 16 then 1 else if width = 8 then 2 else 4

/-- The block size of a command (R33, R160). -/
def blockSize (scm : Scm) (k : Nat) : Nat :=
  match scm with
  | .none => k
  | .b32 => 32
  | .b16 => 16

/-- The scale blocks a command claims groups for (R155, R160). -/
def blocksOf (scm : Scm) (k : Nat) : Nat :=
  match scm with
  | .none => 0
  | .b32 => k / 32
  | .b16 => k / 16

/-- The combined offset of cell (i, j) in block b (R33, R155). -/
def offsetAt (ga gb : List (List Nat)) (b i j : Nat) : Int :=
  match ga[b]?, gb[b]? with
  | some x, some y => (x.getD i 127 : Int) + (y.getD j 127 : Int) - 254
  | _, _ => 0

/-- Slice numbers 0 to k - 1 as read, each as one number. -/
def slicesOf (m : FMap (List Byte)) (k : Nat) : List Nat := (List.range k).map fun x => leNat (fget [] m x)

/-- Elements of one row or column over all slices. -/
def column (width : Nat) (slices : List Nat) (i : Nat) : List Nat :=
  slices.map fun x => x / 2 ^ (width * i) % 2 ^ width

/-! ### Multiply mode (R153, R154) -/

/-- A product with its scale offset. -/
def scaledProduct (x : FVal × FVal × Int) : Option FVal :=
  match mulExact x.1 x.2.1 with
  | some (.fin n m e) => some (.fin n m (e + x.2.2))
  | v => v

/-- The exact sum of finite values; the first stands alone. -/
def sumFinite : List FVal → Bool × Nat × Int
  | [] => (false, 0, 0)
  | v :: r => r.foldl (fun a x => match x with
      | .fin n m e => addDyadic .rne a.1 a.2.1 a.2.2 n m e
      | _ => a) (match v with
      | .fin n m e => (n, m, e)
      | _ => (false, 0, 0))

/-- The sum of one group of products, rounded (R89, R153). -/
def groupSum (xs : List (FVal × FVal × Int)) : Nat × Flags :=
  let ops := xs.flatMap fun x => [x.1, x.2.1]
  if ops.any FVal.isSnan then (Fmt.fp32.qnan, fIV)
  else if ops.any FVal.isNan then (Fmt.fp32.qnan, 0)
  else
    let ps := xs.filterMap scaledProduct
    let infs := ps.filterMap fun p => match p with
      | .inf n => some n
      | _ => none
    if ps.length ≠ xs.length ∨ infs.contains true ∧ infs.contains false then (Fmt.fp32.qnan, fIV)
    else match infs with
      | n :: _ => (Fmt.fp32.infCode n, 0)
      | [] => let v := sumFinite ps; roundF .fp32 .rne v.1 v.2.1 v.2.2

/-- A group added to the accumulator. -/
def addGroup (xs : List (FVal × FVal × Int)) (acc : Nat × Flags) : Nat × Flags :=
  let g := groupSum xs
  let r := fAdd .fp32 .rne acc.1 g.1
  (r.1, acc.2 ||| g.2 ||| r.2)

/-- The k-steps of one cell in groups of four. -/
def mmaGroups : List (FVal × FVal × Int) → Nat × Flags → Nat × Flags
  | a :: b :: c :: d :: r, acc => mmaGroups r (addGroup [a, b, c, d] acc)
  | [], acc => acc
  | xs, acc => addGroup xs acc

/-- Flags of FPCTL's layout as ASTAT holds them: IV OF IX (R154, R169). -/
def astatFlags (f : Flags) : BitVec 5 :=
  (if f &&& fIV = 0 then 0 else 4) ||| (if f &&& fOF = 0 then 0 else 2) ||| (if f &&& fIX = 0 then 0 else 1)

/-- A row with elements changed from element 0 on, and the flags of the changes. -/
def patchRow (r : Row) (n : Nat) (f : Nat → Nat → Nat × Flags) : Row × Flags :=
  let xs := (elems 32 r).zipIdx.map fun x => if x.2 < n then f x.2 x.1 else (x.1, 0)
  (packRow 32 (xs.map (·.1)), xs.foldl (fun a x => a ||| x.2) 0)

/-- Rows 0 to m - 1 of an accumulator tile with their first n elements changed. -/
def Tile.patchAcc (x : Tile) (d : BitVec 4) (m n : Nat) (f : Nat → Nat → Nat → Nat × Flags) : Tile × Flags :=
  (List.range m).foldl (fun a i =>
    let k := 128 * d.toNat + i
    let r := patchRow (a.1.accRow k) n (f i)
    ({ a.1 with acc := fput a.1.acc k r.1 }, a.2 ||| r.2)) (x, 0)

/-- The value of one cell of an MMA; a is the column of A, b that of B, z the element as it stands (R153). -/
def mmaCell (f : MmaF) (ga gb : List (List Nat)) (i j : Nat) (a b : List Nat) (z : Nat) : Nat × Flags :=
  let blk := blockSize f.scm f.k.toNat
  let xs := (a.zip b).zipIdx.map fun x =>
    (fval f.fa x.1.1, fval f.fb x.1.2, offsetAt ga gb (x.2 / blk) i j)
  mmaGroups xs (if f.acc then z else 0, 0)

/-! ### Count mode (R36 to R40, R160 to R164) -/

/-- The magnitudes of the classes in units of 2^unitExp (R37). -/
def classList : Fmt → List Nat
  | .e2m1 => [1, 2, 3, 4, 6, 8, 9, 12, 16, 18, 24, 32, 36, 48, 64, 72, 96, 144]
  | .e3m0 => [1, 2, 4, 8, 16, 32, 64, 128, 256, 512, 1024, 2048, 4096]
  | .int4 => [1, 2, 3, 4, 5, 6, 7, 8, 9, 10, 12, 14, 15, 16, 18, 20, 21, 24, 25, 28, 30, 32, 35, 36, 40, 42, 48, 49, 56, 64]
  | _ => []

/-- The exponent of the units of a class list. -/
def unitExp : Fmt → Int
  | .e2m1 => -2
  | .e3m0 => -6
  | _ => 0

/-- Sign and magnitude of a 4-bit operand: a product of two magnitudes is in the units of the class list. -/
def operand4 (f : Fmt) (c : Nat) : Bool × Nat :=
  match f with
  | .int4 => let v := signedOf 4 c; (decide (v < 0), v.natAbs)
  | .e2m1 => (c / 8 % 2 == 1, [0, 1, 2, 3, 4, 6, 8, 12].getD (c % 8) 0)
  | _ => (c / 8 % 2 == 1, if c % 8 = 0 then 0 else 2 ^ (c % 8 - 1))

/-- `class`: the index and sign of a product, none for a zero product (R36). -/
def classOf (f : Fmt) (a b : Nat) : Option (Nat × Bool) :=
  let x := operand4 f a
  let y := operand4 f b
  if x.2 * y.2 = 0 then none else some ((classList f).idxOf (x.2 * y.2), x.1 != y.1)

/-- The counters of one run (R160). -/
def countRun (f : Fmt) (a b : List Nat) : Vector (BitVec 8) 32 :=
  let cs := (List.zipWith (classOf f) a b).filterMap id
  Vector.ofFn fun k => cs.foldl (fun n c => if c.1 = k.val then (if c.2 then n - 1 else n + 1) else n) 0

/-- A value clamped to the fold register, and whether it was clamped (R40). -/
def clampFold (v : Int) : Int × Bool :=
  if v > foldMax then (foldMax, true) else if v < -foldMax - 1 then (-foldMax - 1, true) else (v, false)

/-- The fold count one higher, and whether it stood at its limit (R40). -/
def Fold.counted (r : Fold) : Fold × Bool :=
  if r.count = 65535 then (r, true) else ({ r with count := r.count + 1 }, false)

/-- CFOLD of one bank with counters `cnt`, format, offset and MIX: the register and whether this fold sets the
fold-range flag (R39, R40, R163). -/
def Fold.addBank (r : Fold) (cnt : Vector (BitVec 8) 32) (f : Fmt) (o : Int) (mix : Bool) (named : BitVec 9) :
    Fold × Bool :=
  let eb := r.ebase.getD named
  let v : Int := ((classList f).zipIdx.map fun x => (vget cnt x.2).toInt * (x.1 : Int)).foldl (· + ·) 0
  let e := unitExp f + o - eb.toInt + 30
  let whole : Int := if e ≥ 0 then v * 2 ^ e.toNat else v.tdiv (2 ^ (-e).toNat)
  let cut := decide (e < 0) && v.tmod (2 ^ (-e).toNat) != 0
  let s := clampFold (r.f.toInt + whole)
  let c := Fold.counted { r with f := BitVec.ofInt 96 s.1, ebase := some eb }
  let ev := eb != named || decide (o < eb.toInt - 24 ∨ eb.toInt + 24 < o) || cut || s.2 || c.2 || mix
  ({ c.1 with flag := c.1.flag || ev }, ev)

/-- A bank of a cell. -/
def Cell.bank (x : Cell) (k : Bool) : CBank := if k then x.b1 else x.b0

/-- The cell with a bank replaced. -/
def Cell.setBank (x : Cell) (k : Bool) (b : CBank) : Cell := if k then { x with b1 := b } else { x with b0 := b }

/-- CFOLD of a cell, and whether it is a fold event (R163). -/
def Cell.cfold (x : Cell) (k : Bool) (named : BitVec 9) : Cell × Bool :=
  let b := x.bank k
  match b.tag.fmt with
  | none => (x, false)
  | some f =>
    let r := x.fold.addBank b.cnt f b.tag.off b.tag.mix named
    ({ x.setBank k CBank.reset with fold := r.1 }, r.2)

/-- A counter with a number added, saturating, and whether it saturated (R38). -/
def addCount (a b : BitVec 8) : BitVec 8 × Bool :=
  let v := a.toInt + b.toInt
  if v > 127 then (127, true) else if v < -128 then (-128, true) else (BitVec.ofInt 8 v, false)

/-- The tag of a bank that another joins (R164). -/
def BankTag.join (src dst : BankTag) : BankTag :=
  match src.fmt, dst.fmt with
  | none, _ => dst
  | some _, none => src
  | some f, some g =>
    if f = g ∧ src.off = dst.off then { dst with mix := src.mix || dst.mix } else { dst with mix := true }

/-- A bank added into another, and whether a counter saturated (R164, R167). -/
def CBank.join (src dst : CBank) : CBank × Bool :=
  (⟨Vector.ofFn fun k => (addCount (vget dst.cnt k.val) (vget src.cnt k.val)).1, src.tag.join dst.tag⟩,
    (List.range 32).any fun k => (addCount (vget dst.cnt k) (vget src.cnt k)).2)

/-- CMERGE of a cell: into bank k, the other cleared; whether it saturated (R164). -/
def Cell.cmerge (x : Cell) (k : Bool) : Cell × Bool :=
  let r := (x.bank (!k)).join (x.bank k)
  ({ (x.setBank k r.1).setBank (!k) CBank.reset with sat := x.sat || r.2 }, r.2)

/-! ### Drain and images (R42, R44, R166, R167) -/

/-- The value of one drained element: rounded alone, or with the accumulator element (R42, R166). -/
def drainCell (r : Fold) (m : Rm) (acc : Bool) (z : Nat) : Nat × Flags :=
  let f := r.f.toInt
  let e := (r.ebase.getD 0).toInt - 30
  if acc then addVal .fp32 m (.fin (decide (f < 0)) f.natAbs e) (fval .fp32 z)
  else if f = 0 then (0, 0)
  else roundF .fp32 m (decide (f < 0)) f.natAbs e

/-- The code of a bank's format in an image (R167). -/
def imgFmt : Option Fmt → Nat
  | some .e2m1 => 1
  | some .e3m0 => 2
  | some .int4 => 3
  | _ => 0

/-- The format of a code in an image. -/
def fmtImg (c : Nat) : Option Fmt :=
  match c with
  | 1 => some .e2m1
  | 2 => some .e3m0
  | 3 => some .int4
  | _ => none

/-- The bytes of a cell in an image (R167). -/
def Cell.image (x : Cell) (w : Img) : List Byte :=
  let bank (b : CBank) : List Byte :=
    (b.cnt.toList.take 30) ++
      leBytes 2 (b.tag.off.emod 512 |>.toNat |> fun o => o + 512 * imgFmt b.tag.fmt + (if b.tag.mix then 2048 else 0) +
        if x.sat then 4096 else 0)
  match w with
  | .cb0 => bank x.b0
  | .cb1 => bank x.b1
  | .fold =>
    leBytes 16 (x.fold.f.toNat + (x.fold.ebase.getD 0).toNat * 2 ^ 96 + if x.fold.flag then 2 ^ 112 else 0)

/-- The bytes one cell takes in an image. -/
def imgCell : Img → Nat
  | .fold => 16
  | _ => 32

/-- The size of an image. -/
def imgSize (w : Img) : Nat := 16384 * imgCell w

/-- A bank image of one cell added to the cell, and whether a counter saturated (R167). -/
def Cell.loadBank (x : Cell) (k : Bool) (bs : List Byte) : Cell × Bool :=
  let t := leNat (bs.drop 30)
  let src : CBank :=
    ⟨Vector.ofFn fun i => if i.val < 30 then bs.getD i.val 0 else 0,
      ⟨fmtImg (t / 512 % 4), signedOf 9 (t % 512), t / 2048 % 2 == 1⟩⟩
  let r := src.join (x.bank k)
  ({ x.setBank k r.1 with sat := x.sat || r.2 || t / 4096 % 2 == 1 }, r.2)

/-- A fold image of one cell added to the cell, and whether it is a fold event (R45, R167). -/
def Cell.loadFold (x : Cell) (bs : List Byte) : Cell × Bool :=
  let z := leNat bs
  let f := signedOf 96 z
  let e : BitVec 9 := BitVec.ofNat 9 (z / 2 ^ 96)
  let fr := z / 2 ^ 112 % 2 == 1
  if f = 0 ∧ !fr then (x, false)
  else
    let sum : Int × BitVec 9 × Bool :=
      match x.fold.ebase with
      | none => (f, e, false)
      | some g =>
        let m := if e.toInt ≤ g.toInt then e else g
        let s := clampFold (f * 2 ^ (e.toInt - m.toInt).toNat + x.fold.f.toInt * 2 ^ (g.toInt - m.toInt).toNat)
        (s.1, m, s.2)
    let c := Fold.counted { x.fold with f := BitVec.ofInt 96 sum.1, ebase := some sum.2.1 }
    let ev := sum.2.2 || c.2
    ({ x with fold := { c.1 with flag := c.1.flag || fr || ev } }, ev)

/-- The cells of the array changed in order, and whether one reports an event. -/
def foldCells (f : Nat → Cell → Cell × Bool) (ks : List Nat) (cells : FMap Cell) : FMap Cell × Bool :=
  let upd := fupdate (Cell.reset, false) (fun k x => f k x.1) ks (cells.map fun e => (e.1, e.2, false))
  (upd.map fun e => (e.1, e.2.1), upd.any fun e => e.2.2)

/-! ### Events of the holder (R168, R169) -/

/-- The tile that holds the lease of cluster c, by number. -/
def State.holderTile (s : State) (c : Nat) : Nat := 4 * c + ((s.cluster c).arr.holder.getD 0).toNat

/-- Flags ORed into a tile's ASTAT. -/
def State.astatOr (s : State) (t : Nat) (f : BitVec 5) : State := s.modTile t fun x => { x with astat := x.astat ||| f }

/-- A count-mode event: ASTAT always; with the captured enable a trap at the holder's next boundary, or after its END
an entry in the launch's error record (R168). -/
def State.countEvent (s : State) (t : Nat) (cause : BitVec 8) (bit : BitVec 5) (te : Bool) (r : ARec) : State :=
  let s := s.astatOr t bit
  if !te then s
  else if (s.tile t).hasEnded then s.launchError t cause.toNat
  else s.modTile t fun x => { x with late := x.late ++ [⟨(s.cluster (t / 4)).arr.age, cause, r.pc, r.pos⟩] }

/-- The event whose trap a tile takes next, and the events left: those of the same array cycle go with it (R168). -/
def Tile.takeLate (x : Tile) : Option (Late × Tile) :=
  match x.late with
  | [] => none
  | l :: r => some (l, { x with late := r.filter fun e => e.at_ != l.at_ })

/-- A fold event, if one has come. -/
def State.foldEvent (s : State) (t : Nat) (ev : Bool) (r : ARec) : State :=
  if ev then s.countEvent t cFOLD_RANGE 16 r.frngTe r else s

/-- A saturation event, if one has come. -/
def State.satEvent (s : State) (t : Nat) (ev : Bool) (r : ARec) : State :=
  if ev then s.countEvent t cCOUNT_SATURATED 8 r.csatTe r else s

/-! ### Perform points -/

/-- The cells of the array changed. -/
def State.onCells (s : State) (c : Nat) (ks : List Nat) (f : Nat → Cell → Cell × Bool) : State × Bool :=
  let r := foldCells f ks (s.cluster c).arr.cells
  (s.modArr c fun m => { m with cells := r.1 }, r.2)

/-- Every cell of the array. -/
def allCells : List Nat := cellsIn 128 128

/-- A command's record changed. -/
def State.modRec (s : State) (c k : Nat) (f : ARec → ARec) : State :=
  s.modArr c fun m =>
    match ffind m.cmds k with
    | none => m
    | some r => { m with cmds := fput m.cmds k (f r) }

/-- One slice of an operand read from its owner's scratchpad: through the holder's views where the holder owns it
(R151, R198); a damaged word kills the context bound to the owner (R392). -/
def State.readSlice (s : State) (c : Nat) (d : OperDesc) (len k : Nat) : List Byte × State :=
  let o := 4 * c + d.owner.toNat
  let off := d.addr + k * d.stride
  let s := if (List.range (len / 64)).any fun g => s.spadBad o (linOf d.swz (off + 64 * g)) 64 then
      s.killByEngine (if (s.tile o).run = .free then s.holderTile c else o) 2 0 cECC
    else s
  if o = s.holderTile c then s.readView o d.swz off len else ((s.tile o).spadBytes d.swz off len, s)

/-- The formats and lengths of a command's slices. -/
def ACmd.sliceLens : ACmd → Nat × Nat
  | .mma _ f _ _ _ _ => (sliceLen (dim f.m) f.fa.width, sliceLen (dim f.n) f.fb.width)
  | .mmc _ f _ _ _ _ => (sliceLen (dim f.m) f.fa.width, sliceLen (dim f.n) f.fa.width)
  | _ => (0, 0)

/-- The operands of a command. -/
def ACmd.operands : ACmd → Option (OperDesc × OperDesc)
  | .mma _ _ a b _ _ => some (a, b)
  | .mmc _ _ a b _ _ => some (a, b)
  | _ => none

/-- The slices k of both operands read. -/
def State.readSlices (s : State) (c n : Nat) (r : ARec) (k : Nat) : State :=
  match r.cmd.operands with
  | none => s
  | some (a, b) =>
    let x := s.readSlice c a r.cmd.sliceLens.1 k
    let y := x.2.readSlice c b r.cmd.sliceLens.2 k
    y.2.modRec c n fun r => { r with sliceA := fput r.sliceA k x.1, sliceB := fput r.sliceB k y.1 }

/-- The result of an MMA written to the holder's accumulator tile (R153, R154). -/
def State.writeMma (s : State) (c : Nat) (r : ARec) (d : BitVec 4) (f : MmaF) (ga gb : List (List Nat)) : State :=
  let t := s.holderTile c
  let sa := slicesOf r.sliceA f.k.toNat
  let sb := slicesOf r.sliceB f.k.toNat
  let cols := (List.range (dim f.n)).map (column f.fb.width sb)
  let x := (s.tile t).patchAcc d (dim f.m) (dim f.n) fun i =>
    let a := column f.fa.width sa i
    fun j z => mmaCell f ga gb i j a (cols.getD j []) z
  (s.setTile t x.1).astatOr t (astatFlags x.2)

/-- Block b of an MMC written to its bank, folded where FOLD is set (R160). -/
def State.writeBlock (s : State) (c : Nat) (r : ARec) (f : MmcF) (ga gb : List (List Nat)) (b : Nat) : State :=
  let blk := blockSize f.scm f.k.toNat
  let part (m : FMap (List Byte)) : List Nat := ((slicesOf m f.k.toNat).drop (b * blk)).take blk
  let sa := part r.sliceA
  let sb := part r.sliceB
  let rows := (List.range (dim f.m)).map (column 4 sa)
  let cols := (List.range (dim f.n)).map (column 4 sb)
  let bank := f.bank != (b % 2 == 1)
  let x := s.onCells c (cellsIn (dim f.m) (dim f.n)) fun k cell =>
    let i := k / 128
    let j := k % 128
    let cell := cell.setBank bank
      ⟨countRun f.fa (rows.getD i []) (cols.getD j []), ⟨some f.fa, offsetAt ga gb b i j, false⟩⟩
    if f.fold then cell.cfold bank f.ebase else (cell, false)
  x.1.foldEvent (s.holderTile c) x.2 r

/-- The fold registers of cells (i, j), i < m, j < n, drained into an accumulator tile (R166). -/
def State.drain (s : State) (c : Nat) (d : BitVec 4) (m : Rm) (acc : Bool) (rows cols : Nat) : State :=
  let t := s.holderTile c
  let cells := (s.cluster c).arr.cells
  let reg (i j : Nat) : Fold := (fget Cell.reset cells (128 * i + j)).fold
  let x := (s.tile t).patchAcc d rows cols fun i j z => drainCell (reg i j) m acc z
  let frng := cells.any fun e => e.2.fold.flag && decide (e.1 / 128 < rows ∧ e.1 % 128 < cols)
  (s.setTile t x.1).astatOr t (astatFlags x.2 ||| if frng then 16 else 0)

/-- The damaged words among elements (i, j) of an accumulator tile, i < m, j < n, that are written whole are whole again
(R392). -/
def State.cleanAcc (s : State) (t : Nat) (d : BitVec 4) (m n : Nat) : State :=
  s.clean fun p => match p with
    | .acc u w => u.toNat == t && w / 64 / 128 == d.toNat && decide (w / 64 % 128 < m ∧ w % 64 * 2 + 2 ≤ n)
    | _ => false

/-- A damaged word among the accumulator elements that a command reads kills the holder's context (R200, R392). -/
def State.accCheck (s : State) (t : Nat) (d : BitVec 4) (rows cols : Nat) : State :=
  if (List.range rows).any fun i => s.accBad t (128 * d.toNat + i) cols then s.killByEngine t 2 0 cECC else s

/-- The image of the array, as CSAVE reads it. -/
def imageBytes (cells : FMap Cell) (w : Img) : List Byte :=
  (List.range 16384).flatMap fun k => (fget Cell.reset cells k).image w

/-- An image loaded into the array (R167). -/
def State.loadImage (s : State) (c : Nat) (r : ARec) (w : Img) : State :=
  let n := imgCell w
  let arr := r.bytes.toArray
  let at_ (k : Nat) : List Byte := (List.range n).map fun i => arr.getD (k * n + i) 0
  let t := s.holderTile c
  match w with
  | .fold =>
    let x := s.onCells c allCells fun k cell => cell.loadFold (at_ k)
    x.1.foldEvent t x.2 r
  | .cb0 =>
    let x := s.onCells c allCells fun k cell => cell.loadBank false (at_ k)
    x.1.satEvent t x.2 r
  | .cb1 =>
    let x := s.onCells c allCells fun k cell => cell.loadBank true (at_ k)
    x.1.satEvent t x.2 r

/-- A write or fold point of a command. A CSAVE writes its image in program order before the bundle of its cycle: every load
that the tile issued before performs first (R273, R274). -/
def State.writePoint (s : State) (c : Nat) (r : ARec) : State :=
  let t := s.holderTile c
  match r.cmd with
  | .mma d f _ _ ga gb =>
    let s := if f.acc then s.accCheck t d (dim f.m) (dim f.n) else s
    (s.writeMma c r d f ga gb).cleanAcc t d (dim f.m) (if f.acc then 0 else dim f.n)
  | .mmc _ f _ _ ga gb => s.writeBlock c r f ga gb 0
  | .cfold k e =>
    let x := s.onCells c allCells fun _ cell => cell.cfold k e
    x.1.foldEvent t x.2 r
  | .cmerge k =>
    let x := s.onCells c allCells fun _ cell => cell.cmerge k
    x.1.satEvent t x.2 r
  | .cclr => s.modArr c fun m => { m with cells := [] }
  | .aclr d =>
    let x := (s.tile t).patchAcc d 128 128 fun _ _ _ => (0, 0)
    (s.setTile t x.1).cleanAcc t d 128 128
  | .cdrain d m acc =>
    let s := if acc then s.accCheck t d 128 128 else s
    (s.drain c d m acc 128 128).cleanAcc t d 128 (if acc then 0 else 128)
  | .csave w swz addr =>
    (s.performEarlier (.tile (BitVec.ofNat 11 t)) (s.tile t).th.bundles 0).writeView t swz addr (imageBytes r.cells w)
  | .cload w _ _ => s.loadImage c r w

/-- A read point of a CSAVE or a CLOAD. -/
def State.readPoint (s : State) (c n : Nat) (r : ARec) : State :=
  match r.cmd with
  | .csave _ _ _ => s.modRec c n fun r => { r with cells := (s.cluster c).arr.cells }
  | .cload w swz addr =>
    let t := s.holderTile c
    let s := if (List.range (imgSize w / 64)).any fun g => s.spadBad t (linOf swz (addr + 64 * g)) 64 then
        s.killByEngine t 2 0 cECC
      else s
    let x := s.readView t swz addr (imgSize w)
    x.2.modRec c n fun r => { r with bytes := x.1 }
  | _ => s

/-- One perform point of the array: it changes the named state at once (R141, R168). -/
def State.performOne (s : State) (c : Nat) (p : APerf) : State :=
  match ffind (s.cluster c).arr.cmds p.cmd with
  | none => s
  | some r =>
    match p.point with
    | .slice k => s.readSlices c p.cmd r k
    | .write => s.writePoint c r
    | .read => s.readPoint c p.cmd r
    | .block b =>
      match r.cmd with
      | .mmc _ f _ _ ga gb => s.writeBlock c r f ga gb b
      | _ => s
    | .drain =>
      match r.cmd with
      | .mmc d f _ _ _ _ =>
        let t := s.holderTile c
        let s := if f.acc then s.accCheck t d (dim f.m) (dim f.n) else s
        (s.drain c d f.rm f.acc (dim f.m) (dim f.n)).cleanAcc t d (dim f.m) (if f.acc then 0 else dim f.n)
      | _ => s

/-- The perform points that are due (R141). -/
def MatArray.due (m : MatArray) : List APerf := m.perfs.filter fun p => decide (p.due ≤ m.age)

/-- A perform point put in order: by array cycle, then by command (R142). -/
def insertPerf (p : APerf) : List APerf → List APerf
  | [] => [p]
  | q :: r => if q.due < p.due ∨ q.due = p.due ∧ q.cmd ≤ p.cmd then q :: insertPerf p r else p :: q :: r

/-- The due perform points leave the array's list and perform, in order. -/
def State.performDue (s : State) (c : Nat) : State :=
  let due := (s.cluster c).arr.due
  due.foldl (fun s p => s.performOne c p) (s.modArr c fun m =>
    { m with perfs := m.perfs.filter fun p => !decide (p.due ≤ m.age) })

/-- The run ends once the lease is released or spent and both queues have passed their last perform points (R145); it lasts
32,768 array cycles at most, also where the holder never releases its lease (R147; assumption 59). -/
def State.endRun (s : State) (c : Nat) : State :=
  s.modArr c fun m =>
    match m.holder with
    | none => m
    | some h =>
      if (m.spent ∨ 32768 ≤ m.age) ∧ m.perfs.isEmpty then { m with holder := none, last := h, free := false, cmds := [] } else m

end Sys2Proof.Machine
end

