-- ==== Sys2Proof/Machine/Ports.lean ====
section
/-! DEFINITION. Event records, the ranks of a launch, and the cluster ports' window tables: directories, groups, entries, their request queues and what the END of a rank does to them (R112, R233 to R239, R250 to R263). -/

namespace Sys2Proof.Machine

/-! ### Event records (R112) -/

/-- An event record at a tile's q0, or lost when q0 is full. -/
def Tile.event (x : Tile) (kind payload : Nat) : Tile :=
  if x.q0.length < 64 then { x with q0 := x.q0 ++ [BitVec.ofNat 64 (kind * 2 ^ 56 + payload % 2 ^ 56)] }
  else { x with ovf := true, lost := if x.lost = 0xFFFF then x.lost else x.lost + 1 }

/-- An event record at a tile. -/
def State.event (s : State) (t kind payload : Nat) : State := s.modTile t fun x => x.event kind payload

/-! ### Shapes and tile sets (R294, R295) -/

/-- LIDX0. -/
def shLidx0 (w : Word) : Nat := (w.extractLsb' 48 8).toNat
/-- NCL. -/
def shNcl (w : Word) : Nat := (w.extractLsb' 40 8).toNat
/-- TMASK. -/
def shTmask (w : Word) : BitVec 4 := w.extractLsb' 36 4
/-- NX. -/
def shNx (w : Word) : Nat := (w.extractLsb' 24 8).toNat
/-- NY. -/
def shNy (w : Word) : Nat := (w.extractLsb' 16 8).toNat
/-- NZ. -/
def shNz (w : Word) : Nat := (w.extractLsb' 8 8).toNat
/-- NS. -/
def shNs (w : Word) : Nat := (w.extractLsb' 0 8).toNat

/-- The tiles of a cluster that a mask names. -/
def maskTiles (m : BitVec 4) : List Nat := (List.range 4).filter fun k => m.getLsbD k

/-- The global clusters of a tile set in a partition, by rising LIDX (R295). -/
def Part.setClusters (p : Part) (sh : Word) : List Nat := ((p.map.drop (shLidx0 sh)).take (shNcl sh)).map BitVec.toNat

/-- The tiles of a tile set, by rank (R295). -/
def Part.setTiles (p : Part) (sh : Word) : List Nat :=
  (p.setClusters sh).flatMap fun c => (maskTiles (shTmask sh)).map fun k => 4 * c + k

/-! ### Ranks of a launch -/

/-- The tiles bound to a launch that have not been freed. -/
def State.ranks (s : State) (v slot : Nat) : List (Nat × Tile) :=
  s.tiles.filter fun e => e.2.run != .free && e.2.part.toNat == v && e.2.slot.toNat == slot

/-- The tile bound to a rank; none once it has been freed. -/
def State.boundRank (s : State) (v slot rank : Nat) : Option Nat :=
  ((s.ranks v slot).find? fun e => e.2.rank.toNat == rank).map Prod.fst

/-- The tile of a rank of a launch, freed or not: its place in the tile set (R295). -/
def State.rankTile (s : State) (v slot rank : Nat) : Option Nat :=
  (s.boundRank v slot rank).or ((s.part v).setTiles (s.lslot v slot).shape)[rank]?

/-- The rank of a tile in a launch of which it is or has been a part: its own, or its place in the tile set (R295). -/
def State.rankOf (s : State) (v slot t : Nat) : Nat :=
  match (s.ranks v slot).find? fun e => e.1 == t with
  | some e => e.2.rank.toNat
  | none => ((s.part v).setTiles (s.lslot v slot).shape).idxOf t

/-- The ranks of a launch whose tiles have been freed, each with the tile it had (R239, R295). -/
def State.freedRanks (s : State) (v slot : Nat) : List (Nat × Nat) :=
  ((s.part v).setTiles (s.lslot v slot).shape).zipIdx.filter fun e => (s.boundRank v slot e.2).isNone

/-- The tile of every rank of a launch, the freed ones among them (R239). -/
def State.rankTiles (s : State) (v slot : Nat) : List Nat :=
  (s.ranks v slot).map Prod.fst ++ (s.freedRanks v slot).map Prod.fst

/-- Whether the owner of a tile's part in the launch of a slot has executed END: it has, or its tile has been freed since
(R239). -/
def State.ownerEnded (s : State) (slot t : Nat) : Bool :=
  let x := s.tile t
  x.run == .ended || x.run == .free || x.slot.toNat != slot

/-- Whether a rank has executed END (R239). -/
def State.rankEnded (s : State) (v slot rank : Nat) : Bool :=
  match s.boundRank v slot rank with
  | none => true
  | some t => (s.tile t).run == .ended

/-! ### Groups (R252) -/

/-- FIRST. -/
def groupFirst (g : Word) : Nat := (g.extractLsb' 0 16).toNat
/-- COUNT. -/
def groupCount (g : Word) : Nat := (g.extractLsb' 16 16).toNat
/-- STRIDE. -/
def groupStride (g : Word) : Nat := (g.extractLsb' 32 16).toNat

/-- The members of a group. -/
def groupMembers (g : Word) : List Nat := (List.range (groupCount g)).map fun i => groupFirst g + i * groupStride g

/-- Whether every member is below NRANK and none is repeated. -/
def groupOk (g : Word) (nrank : Nat) : Bool :=
  groupCount g == 0 ||
    decide (groupFirst g + (groupCount g - 1) * groupStride g < nrank) && (groupStride g != 0 || groupCount g == 1)

/-! ### Directories and entries (R234, R235) -/

/-- A directory entry of a tile. -/
def Tile.dir (x : Tile) (wid : Nat) : WDir := fget WDir.reset x.dirs wid

/-- The tile with a directory entry changed. -/
def Tile.modDir (x : Tile) (wid : Nat) (f : WDir → WDir) : Tile := { x with dirs := fput x.dirs wid (f (x.dir wid)) }

/-- The directory with a lock on a rank in a state. -/
def WDir.setLock (d : WDir) (rank : Nat) (l : LockSt) : WDir := { d with locks := fput d.locks rank l }

/-- The key of an entry in the window table of its owner's port: an entry belongs to the launch of a slot, and stays until
that launch retires, whatever its tile is bound to by then (R239). -/
def entryKey (slot t wid : Nat) : Nat := 1024 * slot + 256 * (t % 4) + wid

/-- The entry of a tile's part of a window of the launch of a slot. -/
def State.wentry (s : State) (slot t wid : Nat) : Option WEntry := ffind (s.cluster (t / 4)).wins (entryKey slot t wid)

/-- The state with an entry replaced. -/
def State.setEntry (s : State) (slot t wid : Nat) (e : WEntry) : State :=
  s.modCluster (t / 4) fun k => { k with wins := fput k.wins (entryKey slot t wid) e }

/-- The ids for which a tile's port holds an entry of the tile in the launch of a slot. -/
def State.entryIds (s : State) (slot t : Nat) : List Nat :=
  (s.cluster (t / 4)).wins.filterMap fun e => if e.1 / 256 = 4 * slot + t % 4 then some (e.1 % 256) else none

/-- An epoch event record for the owner, where its part asks for them and its tile is still the owner's (R263). -/
def State.entryEvent (s : State) (slot t wid : Nat) (e : WEntry) (rank what : Nat) : State :=
  if e.evt && (s.tile t).slot.toNat == slot && (s.tile t).run != .free then s.event t 2 (wid * 2 ^ 48 + e.gen.toNat * 2 ^ 40 + rank % 2 ^ 16 * 2 ^ 24 + what * 2 ^ 16) else s

/-- The answer to a waiting request of a tile. -/
def State.answerReq (s : State) (t : Nat) (v : Word) : State :=
  s.modTile t fun x => if x.req.isSome then { x with grant := some v } else x

/-- A lock request answered: granted, or refused because the owner has ended (R257). -/
def State.lockResult (s : State) (u wid rank : Nat) (l : LockSt) : State :=
  (s.modTile u fun x => x.modDir wid fun d => d.setLock rank l).answerReq u 1

/-! ### The request queue (R253, R258, R261) -/

/-- The post notices to the members of a group whose tiles still run (R253). -/
def State.postNotices (s : State) (t wid : Nat) (g : Word) : State :=
  let x := s.tile t
  let ms := (s.ranks x.part.toNat x.slot.toNat).filter fun e => (groupMembers g).contains e.2.rank.toNat
  { s with notes := s.notes ++ ms.map fun e =>
      ⟨BitVec.ofNat 11 t, x.rank, BitVec.ofNat 11 e.1, x.slot, BitVec.ofNat 8 wid, none⟩ }

/-- The head of an entry's request queue served, and what follows it, as far as its state admits (R258). -/
def State.serve (s : State) (slot t wid : Nat) : Nat → State
  | 0 => s
  | n + 1 =>
    match s.wentry slot t wid with
    | none => s
    | some e =>
      match e.queue with
      | [] => s
      | q :: r =>
        let pop (ep : Epoch) : State := s.setEntry slot t wid { e with queue := r, epoch := ep }
        let grant (u : BitVec 11) (ep : Epoch) (what : Nat) : State :=
          (((pop ep).lockResult u.toNat wid e.rank.toNat .held).entryEvent slot t wid e (s.tile u.toNat).rank.toNat
            what).serve slot t wid n
        if s.ownerEnded slot t then
          match q with
          | .lock u _ => ((pop .closed).lockResult u.toNat wid e.rank.toNat .refused).serve slot t wid n
          | _ => (pop .closed).serve slot t wid n
        else match q, e.epoch with
          | .lock u false, .closed => grant u (.lockedSh [u]) 1
          | .lock u false, .lockedSh hs => grant u (.lockedSh (hs ++ [u])) 1
          | .lock u true, .closed => grant u (.lockedEx u) 2
          | .post g, .closed => ((pop (.posted g [])).postNotices t wid g).serve slot t wid n
          | _, _ => s

/-- The queue of an entry served. -/
def State.serveAll (s : State) (slot t wid : Nat) : State :=
  match s.wentry slot t wid with
  | none => s
  | some e => s.serve slot t wid (e.queue.length + 1)

/-- The requests that wait in the queues of a port (R258). -/
def Cluster.queued (k : Cluster) : Nat := (k.wins.map fun e => e.2.queue.length).sum

/-! ### Completion notices and the END of a rank (R239, R250, R256, R261) -/

/-- An entry to which a member's completion notice has come: the port no longer accepts its operations (R250, R256). A member
that has ended without a notice counts as complete for the owner's WWAIT alone, and its operations in flight are still
accepted. -/
def WEntry.completedBy (e : WEntry) (r : Nat) : WEntry :=
  match e.epoch with
  | .posted g done =>
    if (groupMembers g).contains r ∧ !done.contains r then { e with epoch := .posted g (done ++ [r]) } else e
  | _ => e

/-- The entries of a rank that has executed END are CLOSED, their queued locks refused and posts discarded. -/
def State.rankEnd (s : State) (t : Nat) : State :=
  let k := (s.tile t).slot.toNat
  (s.entryIds k t).foldl (fun s w =>
    match s.wentry k t w with
    | none => s
    | some e => (s.setEntry k t w { e with epoch := .closed }).serveAll k t w) s

/-! ### Requests of a waiting tile (R251, R257) -/

/-- A request on its way to a port. -/
def State.sendReq (s : State) (origin target wid : Nat) (q : WReq) : State :=
  let f := s.freshId
  { f.2 with reqs := f.2.reqs ++ [⟨f.1, BitVec.ofNat 11 origin, BitVec.ofNat 11 target, BitVec.ofNat 8 wid, q, none⟩] }

/-- What a tile's new request sets going: a fence switch for its own entry, a lock request for the target's. -/
def State.sendWait (s : State) (t : Nat) (q : WaitReq) : State :=
  let x := s.tile t
  match q with
  | .wfen wid nosucc => s.sendReq t t wid.toNat (.fence nosucc)
  | .wlock wid rank ex =>
    match s.rankTile x.part.toNat x.slot.toNat rank with
    | none => s.lockResult t wid.toNat rank .refused
    | some u =>
      (s.modTile t fun x => x.modDir wid.toNat fun d => d.setLock rank .requested).sendReq t u wid.toNat
        (.lock (BitVec.ofNat 11 t) ex)
  | _ => s

/-- A post notice at its member, which it reaches while the member's tile still runs for the launch (R254). -/
def State.takeNotice (s : State) (n : Notice) : State :=
  let y := s.tile n.member.toNat
  if y.run ≠ .free ∧ y.slot = n.slot then
    s.modTile n.member.toNat fun y => y.modDir n.wid.toNat fun d => { d with notices := d.notices ++ [n.rank.toNat] }
  else s

/-! ### Acceptance of a request or a notice at its port (R258, R348) -/

/-- Whether the arrival buffer of a port is full (R348): its 64 places hold the records that wait for q1. -/
def State.bufferFull (s : State) (c : Nat) : Bool :=
  decide (64 ≤ ((List.range 4).map fun k => (s.tile (4 * c + k)).notify.length).sum)

/-- A request that an entry's queue takes, or that finds no entry: a lock is then refused under the target's rank in the
launch (R239, R257). -/
def State.enqueue (s : State) (m : ReqMsg) : State :=
  let t := m.target.toNat
  let x := s.tile m.origin.toNat
  let k := x.slot.toNat
  match s.wentry k t m.wid.toNat with
  | none =>
    match m.req with
    | .lock u _ => s.lockResult u.toNat m.wid.toNat (s.rankOf x.part.toNat k t) .refused
    | _ => s
  | some e => (s.setEntry k t m.wid.toNat { e with queue := e.queue ++ [m.req] }).serveAll k t m.wid.toNat

/-- Whether a request may reach its port: no earlier one of its tile to the same target waits, and a post stands behind
the plain accesses before it (R242, R278). -/
def State.reqReady (s : State) (m : ReqMsg) : Bool :=
  (s.reqs.all fun q => decide (m.id ≤ q.id) || q.origin != m.origin || q.target != m.target) &&
    match m.req with
    | .post _ => (s.tile m.origin.toNat).th.quietBefore m.id
    | _ => true

/-- A request at its port: accepted, or refused when the port's 64 queue places or its arrival buffer are full (R258,
R348). -/
def State.presentReq (s : State) (m : ReqMsg) : State :=
  if !s.reqReady m then s
  else if (s.cluster (m.target.toNat / 4)).queued < 64 ∧ !s.bufferFull (m.target.toNat / 4) then
    { s with reqs := s.reqs.filter fun q => q.id != m.id }.enqueue m
  else { s with reqs := s.reqs.map fun q => if q.id = m.id then { q with refused := some s.cycle } else q }

/-- Post notice k at its member's port: taken, or refused when the port's arrival buffer is full (R253, R348). -/
def State.presentNotice (s : State) (k : Nat) (n : Notice) : State :=
  if s.bufferFull (n.member.toNat / 4) then { s with notes := s.notes.set k { n with refused := some s.cycle } }
  else { s with notes := s.notes.eraseIdx k }.takeNotice n

end Sys2Proof.Machine
end

