-- ==== Sys2Proof/Machine/Slots.lean ====
section
/-! DEFINITION. What a slot instruction names: its unit class, operand fields, implicit reads, destination and post-increments; the limits of a bundle (R53 to R55), the refusals of handler levels and of sequencers (R117, R181, R299, R324) and the queue heads it reads (R63, R64). -/

namespace Sys2Proof

/-- The unit class of a slot (R53): its U field, or the top bits of its wide opcode; none for NOP, the header and a
dictionary slot not yet expanded. -/
def Instr.unit (i : Instr) : Option Nat :=
  match i with
  | .nop | .hdr _ _ | .dictionarySlot _ _ _ _ => none
  | i =>
    match i.slot with
    | some x => some x.u.toNat
    | none => i.wide.map fun x => x.wop.toNat / 128

/-- The scalar-form operand fields of a slot. -/
def Instr.sops : Instr → List SOp
  | .add _ _ a b | .sub _ _ a b | .mul _ _ a b | .mulh _ _ a b | .div _ _ a b | .divu _ _ a b | .rem _ _ a b
  | .and _ _ a b | .or _ _ a b | .xor _ _ a b | .shl _ _ a b | .shr _ _ a b | .sra _ _ a b | .min _ _ a b
  | .max _ _ a b | .slt _ _ a b | .sltu _ _ a b | .seq _ _ a b | .sel _ _ _ a b => [a, b]
  | .addi _ _ a _ | .clz _ _ a | .popc _ _ a | .movsb a | .movc _ a | .movo _ _ a => [a]
  | .fadd _ _ _ a b | .fsub _ _ _ a b | .fmul _ _ _ a b | .ffma _ _ _ a b | .fmin _ _ a b | .fmax _ _ a b
  | .fcmpEq _ _ a b | .fcmpLt _ _ a b | .fcmpLe _ _ a b | .fcmpUn _ _ a b => [a, b]
  | .fcvt _ _ _ a _ _ | .pset _ _ a => [a]
  | .vbcast _ _ a | .vld _ _ a _ | .vst _ a _ => [a]
  | .vlds _ _ a b | .vsts _ a b | .vmova _ _ a b | .vmovt _ a b => [a, b]
  | .cselk _ _ _ b => [b]
  | .cfoldCb0 a | .cfoldCb1 a | .csave _ a | .cload _ a => [a]
  | .ldB _ _ a _ | .ldBu _ _ a _ | .ldH _ _ a _ | .ldHu _ _ a _ | .ldW _ _ a _ | .ldWu _ _ a _ | .ldD _ _ a _
  | .stB _ a _ | .stH _ a _ | .stW _ a _ | .stD _ a _ => [a]
  | .aaddW _ _ a b | .aaddD _ _ a b | .aminW _ _ a b | .aminD _ _ a b | .amaxW _ _ a b | .amaxD _ _ a b
  | .axchgW _ _ a b | .axchgD _ _ a b | .acasW _ _ a b | .acasD _ _ a b | .afaddW _ _ a b => [a, b]
  | .hwaitL _ _ a | .hwaitR _ _ a | .htest _ _ a | .hfree a | .wdrop a | .wfen a | .wcomp a | .wwait a => [a]
  | .wpost a b | .wstart a b | .wlockSh a b | .wlockEx a b | .wunlk a b | .wflsh a b | .dload _ a b => [a, b]
  | .ctready a | .ctwait a | .ctabort a => [a]
  | .jr a | .loop a _ | .loopp _ a _ | .waitl _ a | .lstat _ a => [a]
  | .sldA a b | .sldB a b => [a, b]
  | .lyset _ a => [a]
  | .addiW _ _ a _ | .andiW _ _ a _ | .oriW _ _ a _ | .xoriW _ _ a _ | .muliW _ _ a _ | .sltiW _ _ a _
  | .seqiW _ _ a _ | .fcvtW _ _ _ a _ _ | .ldx _ _ a _ _ _ | .loopW a _ | .looppW _ a _ => [a]
  | .fcmpW _ _ a b _ _ | .stx a b _ _ | .sldW _ _ _ a b => [a, b]
  | .cpyW d _ _ _ | .cpyrW d _ _ => [d]
  | _ => []

/-- The scalars that D names and the slot reads (R55, R61). -/
def Instr.dreads : Instr → List (BitVec 5)
  | .lui _ d _ | .ffma _ _ d _ _ | .acasW _ d _ _ | .acasD _ d _ _ => [d]
  | .stB d _ _ | .stH d _ _ | .stW d _ _ | .stD d _ _ | .sysw d _ => [d]
  | .cpy d _ | .cpyr d _ | .wget d _ | .wstr d _ | .wstrn d _ | .wacc d _ | .wgac d _ | .wcas d _ => [d]
  | _ => []

/-- The descriptors of a slot with their lengths, a handle field of level 00 or 01 among them (R75, R243). -/
def Instr.descs : Instr → List (DOp × Nat)
  | .cpy _ a | .cpyr _ a | .wget _ a | .wstr _ a | .wstrn _ a | .wacc _ a | .wgac _ a | .wcas _ a
  | .launch _ a | .cpyW _ a _ _ | .cpyrW _ a _ => [(a, 4)]
  | .waccW d a _ _ _ | .wgacW d a _ _ _ => [(d, 1), (a, 4)]
  | .wopen _ a | .ctset a => [(a, 2)]
  | _ => []

/-- The rows a slot reads: vector-form fields, rows that D names and the slot reads (R55, R57). -/
def Instr.vops : Instr → List VOp
  | .vadd _ _ a b | .vsub _ _ a b | .vmul _ _ a b | .vmax _ _ a b | .vmin _ _ a b | .vcmpEq _ _ a b
  | .vcmpLt _ _ a b | .vcmpLe _ _ a b | .vand _ _ a b | .vor _ _ a b | .vxor _ _ a b | .vshl _ _ a b
  | .vshr _ _ a b | .vperm _ _ a b => [a, b]
  | .vfma _ d a b | .vsel _ d a b => [a, b, d.op]
  | .vabs _ _ a | .vneg _ _ a | .vexp2 _ _ a | .vlog2 _ _ a | .vrcp _ _ a | .vrsq _ _ a | .vrsum _ _ a
  | .vrmax _ _ a | .vmovo _ _ a | .cselk _ _ a _ => [a]
  | .vst d _ _ | .vsts d _ _ | .vmovt d _ _ => [d.op]
  | .mmaBf16 _ a b | .mmaFp16 _ a b | .mmaE4m3 _ a b | .mmaE5m2 _ a b | .mmcE2m1Cb0 _ a b | .mmcE2m1Cb1 _ a b
  | .mmcE3m0Cb0 _ a b | .mmcE3m0Cb1 _ a b | .mmcInt4Cb0 _ a b | .mmcInt4Cb1 _ a b => [a, b]
  | .vaddW _ _ _ a b _ _ | .vsubW _ _ _ a b _ _ | .vmulW _ _ _ a b _ _ | .vmaxW _ _ _ a b _
  | .vminW _ _ _ a b _ => [a, b]
  | .vfmaW _ _ d a b _ => [a, b, d.op]
  | .vcvt _ _ _ a _ _ _ | .vrsumW _ _ _ a _ | .vrmaxW _ _ a _ | .cselkW _ _ a _ _ => [a]
  | .mmaW _ a b _ | .mmcW _ a b _ => [a, b]
  | _ => []

/-- The predicates a slot reads (R55). -/
def Instr.preads : Instr → List (BitVec 3)
  | .sel p _ _ _ _ | .brp _ p _ | .lbrk p | .brpW _ p _ | .pnot _ _ p => [p]
  | .pand _ _ a b | .por _ _ a b => [a, b]
  | _ => []

/-- A destination of a slot, with N where it has one (R54). -/
inductive Dest where
  | s (n : Bool) (d : SDst)
  | v (n : Bool) (d : VOp)
  | p (i : BitVec 3)
  | so (i : BitVec 3)
  | vo (i : BitVec 3)
  | ly (i : BitVec 3)
  | sb
  | cur (i : BitVec 3)
  | acc (a b : SOp)
deriving DecidableEq, Repr

/-- The destination of a slot. -/
def Instr.dest : Instr → Option Dest
  | .add n d _ _ | .sub n d _ _ | .addi n d _ _ | .lui n d _ | .mul n d _ _ | .mulh n d _ _ | .div n d _ _
  | .divu n d _ _ | .rem n d _ _ | .and n d _ _ | .or n d _ _ | .xor n d _ _ | .shl n d _ _ | .shr n d _ _
  | .sra n d _ _ | .min n d _ _ | .max n d _ _ | .slt n d _ _ | .sltu n d _ _ | .seq n d _ _ | .clz n d _
  | .popc n d _ | .sel _ n d _ _ | .fadd _ n d _ _ | .fsub _ n d _ _ | .fmul _ n d _ _ | .ffma _ n d _ _
  | .fcvt _ n d _ _ _ | .fmin n d _ _ | .fmax n d _ _ | .ldB n d _ _ | .ldBu n d _ _ | .ldH n d _ _
  | .ldHu n d _ _ | .ldW n d _ _ | .ldWu n d _ _ | .ldD n d _ _ | .aaddW n d _ _ | .aaddD n d _ _
  | .aminW n d _ _ | .aminD n d _ _ | .amaxW n d _ _ | .amaxD n d _ _ | .axchgW n d _ _ | .axchgD n d _ _
  | .acasW n d _ _ | .acasD n d _ _ | .afaddW n d _ _ | .halloc n d | .hwaitL n d _ | .hwaitR n d _
  | .htest n d _ | .jal n d _ | .sysr n d _ | .evpop n d => some (.s n (.reg d))
  | .wopen d _ | .launch d _ | .waitl d _ | .lstat d _ => some (.s false (.reg d))
  | .li n d _ | .addiW n d _ _ | .andiW n d _ _ | .oriW n d _ _ | .xoriW n d _ _ | .muliW n d _ _
  | .sltiW n d _ _ | .seqiW n d _ _ | .fcvtW _ n d _ _ _ | .ldx n d _ _ _ _ | .jalW n d _ => some (.s n d)
  | .movsb _ => some .sb
  | .movc c _ => some (.cur c)
  | .movo _ d _ => some (.so d)
  | .fcmpEq _ p _ _ | .fcmpLt _ p _ _ | .fcmpLe _ p _ _ | .fcmpUn _ p _ _ | .pset _ p _ | .pand _ p _ _
  | .por _ p _ _ | .pnot _ p _ | .fcmpW _ p _ _ _ _ => some (.p p)
  | .vadd n d _ _ | .vsub n d _ _ | .vmul n d _ _ | .vfma n d _ _ | .vmax n d _ _ | .vmin n d _ _ | .vabs n d _
  | .vneg n d _ | .vexp2 n d _ | .vlog2 n d _ | .vrcp n d _ | .vrsq n d _ | .vcmpEq n d _ _ | .vcmpLt n d _ _
  | .vcmpLe n d _ _ | .vsel n d _ _ | .vand n d _ _ | .vor n d _ _ | .vxor n d _ _ | .vshl n d _ _
  | .vshr n d _ _ | .vrsum n d _ | .vrmax n d _ | .vbcast n d _ | .vperm n d _ _ | .vld n d _ _
  | .vlds n d _ _ | .vmova n d _ _ | .cselk n d _ _ => some (.v n d.op)
  | .vmovo _ d _ => some (.vo d)
  | .vmovt _ a b => some (.acc a b)
  | .lyset d _ | .lysetW d _ => some (.ly d)
  | .vaddW _ n d _ _ _ _ | .vsubW _ n d _ _ _ _ | .vmulW _ n d _ _ _ _ | .vfmaW _ n d _ _ _ | .vmaxW _ n d _ _ _
  | .vminW _ n d _ _ _ | .vcvt _ n d _ _ _ _ | .vrsumW _ n d _ _ | .vrmaxW n d _ _ | .cselkW n d _ _ _ =>
    some (.v n d.op)
  | _ => none

/-- The cursors a slot's fields advance (R57, R61, R62), as a mask. -/
def Instr.incs (i : Instr) : BitVec 8 :=
  let ops := i.vops ++ match i.dest with
    | some (.v _ d) => [d]
    | _ => []
  ops.foldl (fun m o => match o with
    | .row g _ true => m ||| (1#8 <<< g.toNat)
    | _ => m) 0

/-- The queues whose heads a slot reads (R63). -/
def Instr.queues (i : Instr) : List (BitVec 2) :=
  (i.sops.filterMap fun o => match o with
    | .queue q => some q
    | _ => none) ++
  i.vops.filterMap fun o => match o with
    | .queue q => some q
    | _ => none

/-- The queues a slot advances, each as often as it does (R63, R113). -/
def Instr.pops : Instr → List (BitVec 2)
  | .hdr pop _ => ([0, 1, 2, 3] : List (BitVec 2)).filter fun q => pop.getLsbD q.toNat
  | .evpop _ _ => [0]
  | _ => []

/-- The slots and headers that a handler level refuses (R117, R176, R324). -/
def Instr.refusedInHandler (i : Instr) : Bool :=
  (match i with
    | .hdr _ _ | .loop _ _ | .loopW _ _ | .loopp _ _ _ | .looppW _ _ _ | .lbrk _ | .step _ | .end_ | .sleep
    | .evpop _ _ | .dsel _ => true
    | _ => false) ||
  (match i.unit with
    | some u => u == 2 || u == 3 || u == 5 || u == 7
    | none => false) ||
  !i.queues.isEmpty

/-- The encodings a sequencer context does not implement at step 5 (R299). -/
def Instr.refusedOnSeq (i : Instr) : Bool :=
  (match i with
    | .vjoin | .loopp _ _ _ | .looppW _ _ _ | .step _ | .trap _ | .tret | .evpop _ _ | .dsel _ | .ffence => true
    | _ => false) ||
  (match i.unit with
    | some u => u == 2 || u == 3 || u == 5 || u == 7
    | none => false) ||
  !i.queues.isEmpty

/-- The encodings a tile does not implement at step 5 (R75). -/
def Instr.refusedOnTile : Instr → Bool
  | .launch _ _ | .waitl _ _ | .lstat _ _ => true
  | _ => false

/-- Whether a slot is a CSELK, native or wide. -/
def Instr.isCselk : Instr → Bool
  | .cselk _ _ _ _ | .cselkW _ _ _ _ _ => true
  | _ => false

namespace Machine

/-! ### What the slots of a bundle write and read, resolved at issue (R54, R55) -/

/-- State that two slots of a bundle must not both write (R54). -/
inductive Written where
  | s (i : BitVec 5)
  | so (i : BitVec 3)
  | p (i : BitVec 3)
  | row (k : Nat)
  | vo (i : BitVec 3)
  | ly (i : BitVec 3)
  | sb
  | cur (i : BitVec 3)
  | inc (i : BitVec 3)
  | acc (k : Nat)
deriving DecidableEq, Repr

/-- The rows CSELK ranks: k, at most 32 (R136). -/
def State.cselkCount (s : State) (b : SOp) : Nat := min (s.readS b).toNat 32

/-- The accumulator row that a VMOVT names by the values its two fields read at issue (R54, R135). A field that reads an
empty queue names no row yet: a bound stream is waited for, and any other empty queue is left to QUEUE_EMPTY at step 7 (R64,
R398; the latter is the model's choice, assumption 70). -/
def State.vmovtRow (s : State) (a b : SOp) : Option Nat :=
  if s.readsEmpty a || s.readsEmpty b then none
  else some (128 * ((s.readS a).toNat % 16) + (s.readS b).toNat % 128)

/-- The rows a CSELK writes: W mask rows and min(k, 32 - W) index rows from row D on (R137, R138). -/
def State.cselkRows (s : State) (d : VOp) (w k : Nat) : List Nat :=
  match d with
  | .row g o _ => (List.range (w + min k (32 - w))).map fun m => s.cur.rowNo g (o.toNat + m)
  | _ => []

/-- The mask rows of a CSELK by format: one for 32-bit elements, two for 16-bit ones (R137). -/
def maskRows (f : Fmt) : Nat := if f.width = 32 then 1 else 2

/-- What a slot writes: scalars and tile rows only when N is 0, a write to p0 never (R54). A CSELK whose k comes from an
empty queue names no row yet, as a VMOVT (assumption 70). -/
def State.written (s : State) (i : Instr) : List Written :=
  (match i with
    | .cselk false d _ b => if s.readsEmpty b then [] else (s.cselkRows d.op 1 (s.cselkCount b)).map .row
    | .cselkW false d _ f k => (s.cselkRows d.op (maskRows f) k.toNat).map .row
    | _ => []) ++
  (match i.dest with
    | some (.s n d) => match s.fixS d with
      | .file k => [.so k]
      | .reg k => if n then [] else [.s k]
      | .based k => if n then [] else [.s k]
    | some (.v n d) => match d with
      | .file k => [.vo k]
      | .row g o _ => if n then [] else [.row (s.cur.rowNo g o.toNat)]
      | _ => []
    | some (.p k) => if k = 0 then [] else [.p k]
    | some (.so k) => [.so k]
    | some (.vo k) => [.vo k]
    | some (.ly k) => [.ly k]
    | some .sb => [.sb]
    | some (.cur k) => [.cur k]
    | some (.acc a b) => (s.vmovtRow a b).toList.map .acc
    | none => []) ++
  (([0, 1, 2, 3, 4, 5, 6, 7] : List (BitVec 3)).filter fun g => i.incs.getLsbD g.toNat).map .inc

/-- Whether two writes meet the same state: a cursor's MOVC meets its increment, increments do not meet (R54). -/
def Written.clash (a b : Written) : Bool :=
  match a, b with
  | .inc _, .inc _ => false
  | .cur i, .inc j => i == j
  | .inc i, .cur j => i == j
  | a, b => a == b

/-- The scalars a slot reads. -/
def State.scalarReads (s : State) (i : Instr) : List (BitVec 5) :=
  (i.sops.filterMap fun o => match o with
    | .reg k => some k
    | .based k => some (s.thread.bank.sb + k)
    | _ => none) ++ i.dreads ++
  i.descs.flatMap fun d => (List.range d.2).map fun m => s.descIndex d.1 + BitVec.ofNat 5 m

/-- The scalar operand entries a slot reads. -/
def soReads (i : Instr) : List (BitVec 3) :=
  i.sops.filterMap fun o => match o with
    | .file k => some k
    | _ => none

/-- The tile-file reads of a slot by row; the whole source register of a CSELK counts as one, 256 + g (R55, R138). -/
def State.rowReads (s : State) (i : Instr) : List Nat :=
  i.vops.filterMap fun o => match o with
    | .row g o _ => some (if i.isCselk then 256 + g.toNat else s.cur.rowNo g o.toNat)
    | _ => none

/-- The rows of the tile file a slot reads. -/
def State.rowsRead (s : State) (i : Instr) : List Nat :=
  (s.rowReads i).flatMap fun k => if k < 256 then [k] else (List.range 32).map fun r => 32 * (k - 256) + r

/-- The vector operand rows a slot reads. -/
def voReads (i : Instr) : List (BitVec 3) :=
  i.vops.filterMap fun o => match o with
    | .file k => some k
    | _ => none

/-- The mask of the positions whose slot meets a condition. -/
def maskOf (p : Instr → Bool) (is : List Instr) : BitVec 8 :=
  (is.zipIdx.filter fun x => p x.1).foldl (fun m x => m ||| (1#8 <<< x.2)) 0

/-- The slots of a bundle that holds two CSELKs (R138). -/
def cselkMask (is : List Instr) : BitVec 8 :=
  if (is.filter Instr.isCselk).length > 1 then maskOf Instr.isCselk is else 0

/-- The slots of one file's readers when a bundle reads more distinct entries than the file has ports; an entry counts once,
be it read by several slots or by several fields of one (R55; assumption 62). -/
def portMask {α : Type} [DecidableEq α] (limit : Nat) (reads : Instr → List α) (is : List Instr) : BitVec 8 :=
  if (is.flatMap reads).dedup.length > limit then maskOf (fun i => !(reads i).isEmpty) is else 0

/-- The most slots of each unit class (R53). -/
def unitLimit : List Nat := [2, 1, 2, 1, 1, 1, 1, 1]

/-- The slots of the oversubscribed classes (R53). -/
def unitMask (is : List Instr) : BitVec 8 :=
  (List.range 8).foldl (fun m u =>
    if (is.filter fun i => i.unit == some u).length > unitLimit.getD u 0 then m ||| maskOf (fun i => i.unit == some u) is
    else m) 0

/-- The slots whose writes meet (R54). -/
def State.clashMask (s : State) (is : List Instr) : BitVec 8 :=
  let ws := is.map s.written
  (ws.zipIdx.filter fun x =>
    ws.zipIdx.any fun y => x.2 != y.2 && x.1.any fun a => y.1.any fun b => a.clash b).foldl
    (fun m x => m ||| (1#8 <<< x.2)) 0

/-- Step 6 of R72: unit counts, destinations, read ports. -/
def State.step6Mask (s : State) (is : List Instr) : BitVec 8 :=
  unitMask is ||| s.clashMask is ||| portMask 6 s.scalarReads is ||| portMask 4 soReads is ||| cselkMask is |||
    portMask 4 Instr.preads is ||| portMask 3 s.rowReads is ||| portMask 2 voReads is

end Machine

end Sys2Proof
end

