-- ==== Sys2Proof/Machine/Bundle.lean ====
section
/-! DEFINITION. The life of a bundle: fetch and framing, dictionary expansion, the checks of R72 and R398, landing of delayed writes, the end of a bundle with its back edge, and the frame in which the meaning of a slot runs (R47, R48, R62 to R67, R72, R100, R107, R115, R116, R178, R179, R331, R398). -/

namespace Sys2Proof.Machine

/-! ### Fetch (R72 step 1, R193, R203, R300) and framing (R48) -/

/-- The code word of a tile at slice-virtual offset w, whose page now lies at pa: as HBM and its tables stood when the launch
bound the tile; a page that had no translation then is fetched as it stands (R280; assumption 67). -/
def State.codeWord (s : State) (t w pa : Nat) : Nat :=
  let x := s.tile t
  let v := x.part.toNat
  let old : State := { s with hbm := (s.lslot v x.slot.toNat).code, modl := { s.modl with bad := [] } }
  match old.walk (s.part v) (t / 4) w with
  | .ok e => readLe old.hbm (mapped e w) 4
  | .error _ => readLe s.hbm pa 4

/-- One slot word of the issuing agent's instruction stream, or the fault and the address. -/
def State.fetchWord (s : State) (a : Word) : Except (BitVec 8 × Word) (BitVec 32) :=
  match s.iss.agent with
  | .tile t =>
    if a.toNat < 0x100000000 ∨ 0x17FFFFFFF < a.toNat then .error (cXLATE_NOTPRESENT, a)
    else
      let w := a.toNat - 0x100000000
      match s.translate (t.toNat / 4) w rX with
      | .error e => .error (e, a)
      | .ok (pa, _) =>
        if s.hbmBad pa 4 then .error (cECC, a) else .ok (BitVec.ofNat 32 (s.codeWord t.toNat w pa))
  | .seq q =>
    if a.toNat < 0x20000 then .ok (BitVec.ofNat 32 (readLe (s.seqCtx q.toNat).cmd a.toNat 4))
    else .error (cXLATE_NOTPRESENT, a)

/-- Slot words from an address up to the first stop bit, at most n. -/
def State.fetchWords (s : State) (a : Word) : Nat → Except (BitVec 8 × Word) (List (BitVec 32))
  | 0 => .ok []
  | n + 1 =>
    match s.fetchWord a with
    | .error e => .error e
    | .ok w =>
      if w.getLsbD 31 then .ok [w]
      else match s.fetchWords (a + 4) n with
        | .error e => .error e
        | .ok ws => .ok (w :: ws)

/-- The kind field of a slot word. -/
def slotKind (w : BitVec 32) : Nat := (w.extractLsb' 29 2).toNat

/-- The offending slots of a framing (R48); zero for a good one. A header with S = 1 in a position other than 0 meets two rows of
R48's table; the model takes the row of bit 0 as one of position 0 alone and gives the bit of the position (assumption 95). -/
def framingMask (ws : List (BitVec 32)) : BitVec 8 :=
  let stop := ws.findIdx? fun w => w.getLsbD 31
  (match stop with
    | none => 0xFF
    | some k => if k < 3 then 1#8 <<< k else 0) |||
  (ws.zipIdx.filter fun x => slotKind x.1 == 2 && (x.2 != 0 || x.1.getLsbD 31)).foldl
    (fun m x => m ||| (1#8 <<< x.2)) 0

/-- The PC of the bundle after the bundle at an address, or the fault of its fetch or framing, as LOOP, LOOPP and LBRK
raise it (R99, R102). -/
def State.pcAfter (s : State) (a : Word) : Except FaultInfo Word :=
  match s.fetchWords a 8 with
  | .error (c, x) => .error ⟨c, x, 1#8 <<< s.iss.pos, false, true, false⟩
  | .ok ws =>
    if framingMask ws ≠ 0 then .error ⟨cILLEGAL_BUNDLE, a, 1#8 <<< s.iss.pos, false, true, false⟩
    else .ok (a + BitVec.ofNat 64 (4 * ws.length))

/-! ### Dictionary slots (R172, R178 to R182) -/

/-- A bank of a tile. -/
def Tile.bank (x : Tile) (k : Bool) : DictBank := if k then x.bank1 else x.bank0

/-- The entry of a bank at an index: listed, or what the bank's other entries are (R172). -/
def DictBank.entry (b : DictBank) (e : Nat) : Option Template := (ffind b.entries e).or b.blank

/-- The banks a dictionary slot may expand under at issue cycle n: the selected one, inside a selection window either. -/
def Tile.banksAt (x : Tile) (n : Nat) : List Bool :=
  match x.selLast with
  | some l => if n ≤ l then [x.dsel, !x.dsel] else [x.dsel]
  | none => [x.dsel]

/-- An entry as a dictionary slot finds it: damaged, undefined, or a template (R180 to R182). -/
inductive Found where
  | damaged
  | undefined
  | template (t : Template)
deriving DecidableEq, Repr

/-- An entry as found, from its contents and its damage. -/
def foundOf (bad : Bool) (t : Option Template) : Found :=
  if bad then .damaged
  else match t with
    | none => .undefined
    | some t => .template t

/-- What the slot of tile t that names entry e may find at issue cycle n: in each bank of R178, and inside a load window
also what stood there before the load (R179). -/
def State.found (s : State) (t n e : Nat) : List Found :=
  let x := s.tile t
  ((x.banksAt n).flatMap fun k =>
    foundOf (s.dictBad t ((if k then 2048 else 0) + e)) ((x.bank k).entry e) ::
      (x.loadWins.filter fun w => w.bank == k && decide (n ≤ w.last)).map fun w =>
        foundOf (w.bad.contains e) (w.old.entry e)).dedup

/-- What the slot at a position finds: one choice for all its checks (R178, R179; assumption 6). -/
def State.entry (s : State) (t pos e : Nat) : Found :=
  let x := s.tile t
  match s.found t x.th.bank.n e with
  | [] => .undefined
  | [f] => f
  | f :: g :: r =>
    let l := f :: g :: r
    l.getD (Config.bankChoice t x.th.bundles pos % l.length) f

/-! ### Steps 3 to 6 of R72 -/

/-- The end PC of a loop slot (R99). -/
def Instr.loopEnd (pc : Word) : Instr → Option Word
  | .loop _ off => some (pc + 4 * off.setWidth 64)
  | .loopp _ _ off => some (pc + 4 * off.setWidth 64)
  | .loopW _ off => some (pc + 4 * off.setWidth 64)
  | .looppW _ _ off => some (pc + 4 * off.setWidth 64)
  | _ => none

/-- Step 5 for a decoded instruction: implemented by this sequencer, and a loop's end not before its start (R75, R99,
R299). -/
def State.slotOk (s : State) (i : Instr) : Bool :=
  (if s.onTile then !i.refusedOnTile else !i.refusedOnSeq) &&
    match Instr.loopEnd s.iss.pc i with
    | some e => decide (s.iss.nextPc ≤ e)
    | none => true

/-- Step 5 of R72 for a decoded instruction. -/
def State.step5 (s : State) (i : Instr) : Except (Nat × BitVec 8) Instr :=
  if s.slotOk i then .ok i else .error (5, cINVALID_ENCODING)

/-- A dictionary slot at a position as the instruction it stands for, or the step of R72 and the cause that refuse it
(R77, R172, R180 to R182, R299). -/
def State.expand (s : State) (pos : Nat) (e : BitVec 11) (h i j : BitVec 6) : Except (Nat × BitVec 8) Instr :=
  if !s.onTile then .error (4, cINVALID_ENCODING)
  else if s.thread.lvl != .tl0 then .error (4, cPRIVILEGE)
  else match s.entry s.curId pos e.toNat with
    | .damaged => .error (4, cECC)
    | .undefined => .error (4, cDICT_UNDEFINED)
    | .template t =>
      match expandSlot t h i j with
      | .error .undefinedEntry => .error (4, cDICT_UNDEFINED)
      | .error _ => .error (5, cINVALID_ENCODING)
      | .ok k => s.step5 k

/-- A slot word as the instruction it stands for, or the step of R72 and the cause that refuse it. -/
def State.resolve (s : State) (pos : Nat) (w : BitVec 32) : Except (Nat × BitVec 8) Instr :=
  match decodeSlot w with
  | .error .badKind => .error (3, cINVALID_ENCODING)
  | .error .headerBits => .error (3, cINVALID_ENCODING)
  | .error _ => .error (5, cINVALID_ENCODING)
  | .ok (.hdr p g) => if s.onTile then .ok (.hdr p g) else .error (3, cINVALID_ENCODING)
  | .ok (.dictionarySlot e h i j) => s.expand pos e h i j
  | .ok i => s.step5 i

/-- The fault of the first step that refuses slots. Where slots are refused at one step for different causes, the cause of
the lowest position is raised, and the mask names the slots of that cause (R72, R182; assumption 61). -/
def firstRefusal (rs : List (Except (Nat × BitVec 8) Instr)) : List Nat → Option (BitVec 8 × BitVec 8)
  | [] => none
  | k :: ks =>
    let hits := rs.zipIdx.filterMap fun x => match x.1 with
      | .error (st, c) => if st = k then some (c, x.2) else none
      | .ok _ => none
    match hits with
    | [] => firstRefusal rs ks
    | (c, _) :: _ => some (c, (hits.filter fun h => h.1 == c).foldl (fun m h => m ||| (1#8 <<< h.2)) 0)

/-- The bit of the slot of a bundle at a PC whose word at an address could not be read (R74; assumption 29). -/
def fetchBit (pc a : Word) : BitVec 8 := 1#8 <<< ((a - pc).toNat / 4)

/-- A bundle of the instruction stream: its instructions and the PC after it, or the fault of steps 1 to 6 (R72). -/
def State.bundleAt (s : State) (pc : Word) : Except FaultInfo (List Instr × Word) :=
  match s.fetchWords pc 8 with
  | .error (c, a) => .error ⟨c, a, fetchBit pc a, false, true, false⟩
  | .ok ws =>
    let fm := framingMask ws
    if fm ≠ 0 then .error ⟨cILLEGAL_BUNDLE, pc, fm, false, false, false⟩
    else
      let next := pc + BitVec.ofNat 64 (4 * ws.length)
      let s := s.modIss fun i => { i with pc := pc, nextPc := next }
      let rs := ws.zipIdx.map fun x => s.resolve x.2 x.1
      match firstRefusal rs [3, 4, 5] with
      | some (c, m) => .error ⟨c, pc, m, false, false, false⟩
      | none =>
        let is := rs.filterMap fun r => r.toOption
        let m6 := s.step6Mask is
        if m6 ≠ 0 then .error ⟨cILLEGAL_BUNDLE, pc, m6, false, false, false⟩ else .ok (is, next)

/-! ### Step 7, parts 1 and 2 (R398) -/

/-- The pipeline stage of a bundle: 7 without a header (R65). -/
def stageOf (is : List Instr) : BitVec 3 :=
  match is.head? with
  | some (.hdr _ g) => g
  | _ => 7

/-- Whether a bundle's slots act (R65). -/
def State.active (s : State) (is : List Instr) : Bool :=
  let g := stageOf is
  g == 7 || s.thread.ps.getLsbD g.toNat

/-- Whether a level refuses a slot (R116, R117, R176, R324). -/
def State.levelRefuses (s : State) (i : Instr) : Bool :=
  s.onTile && if s.thread.lvl == .tl0 then i == .tret else i.refusedInHandler

/-- Part 1 of R398. -/
def State.levelCheck (s : State) (is : List Instr) : Verdict :=
  let m := maskOf s.levelRefuses is
  if m = 0 then .go else .trap ⟨cPRIVILEGE, s.iss.pc, m, false, false, false⟩

/-- Destination rows of a stream copy still to enter its stream (R222). -/
def Op.streamLeft (o : Op) : Nat :=
  match o.kind with
  | .copy p => (p.rows * p.dlen + 511) / 512 - o.done.length
  | _ => 0

/-- Whether a copy stream is bound to q2 or q3 of a tile (R222). -/
def State.streamBound (s : State) (t : Nat) (q3 : Bool) : Bool :=
  (s.cluster (t / 4)).ops.any fun e => e.2.tile.toNat == t && e.2.streamLeft != 0 && match e.2.kind with
    | .copy p => p.strm == some q3
    | _ => false

/-- The slots that read or advance a queue beyond what it holds (R63, R64, R113). -/
def State.queueMask (s : State) (is : List Instr) (q : BitVec 2) : BitVec 8 :=
  let n := s.cur.queueLen q
  (if n = 0 then maskOf (fun i => i.queues.contains q) is else 0) |||
    if (is.flatMap Instr.pops).count q > n then maskOf (fun i => i.pops.contains q) is else 0

/-- Part 2 of R398, and the stall on an empty bound stream (R64). Of a bundle that needs an empty q0 or q1 and an empty bound
stream too the rules do not say whether it stalls first; the model raises QUEUE_EMPTY at once (assumption 66). -/
def State.queueCheck (s : State) (is : List Instr) : Verdict :=
  let dry (q : BitVec 2) (b : Bool) : BitVec 8 := if s.streamBound s.curId b then 0 else s.queueMask is q
  let m := s.queueMask is 0 ||| s.queueMask is 1 ||| dry 2 false ||| dry 3 true
  if m ≠ 0 then .trap ⟨cQUEUE_EMPTY, s.iss.pc, m, false, false, false⟩
  else if s.queueMask is 2 ||| s.queueMask is 3 = 0 then .go
  else .wait none

/-- Damaged words in rows that a slot reads (R392). -/
def State.rowCheck (s : State) (i : Instr) : Verdict :=
  checkThat (!(s.rowsRead i).any fun k => s.trowBad s.curId k) (s.faultPc cECC)

/-! ### Landing (R10, R29, R62, R66, R67, R104, R135, R217) -/

/-- A change of a tile's own state by its agent; a context has none (R298). -/
def State.onAgentTile (s : State) (a : Agent) (f : Nat → State → State) : State :=
  match a with
  | .tile t => f t.toNat s
  | .seq _ => s

/-- A delayed write performed at issue cycle n of the current level of an agent. -/
def State.applyAct (s : State) (a : Agent) (n : Nat) : Act → State
  | .latch k v => s.modThreadOf a fun t => t.modBank fun b => { b with lat := vset b.lat k ⟨v, n⟩ }
  | .sreg i v => s.modThreadOf a fun t => t.putS i v
  | .so i v => s.onAgentTile a fun t s => s.modTile t fun x => { x with so := vset x.so i.toNat v }
  | .pred i v => s.modThreadOf a fun t => t.putP i v
  | .sb v => s.modThreadOf a fun t => t.modBank fun b => { b with sb := v }
  | .flags f => s.modThreadOf a fun t => { t with fpctl := t.fpctl ||| f.setWidth 64 }
  | .sysw num v =>
    match a with
    | .tile t => s.modTile t.toNat fun x => x.sysWrite num.toNat v
    | .seq q => s.modSeq q.toNat fun x => { x with th := x.th.sysWrite false num.toNat v }
  | .vo i v => s.onAgentTile a fun t s => s.modTile t fun x => { x with vo := vset x.vo i.toNat v }
  | .cursor i v => s.onAgentTile a fun t s => s.modTile t fun x => { x with cur := vset x.cur i.toNat v }
  | .layout i v => s.onAgentTile a fun t s => s.modTile t fun x => { x with ly := vset x.ly i.toNat v }
  | .trow k v => s.onAgentTile a fun t s => (s.modTile t fun x => { x with t := fput x.t k v }).clean fun p => match p with
    | .tfile u w => u.toNat == t && w / 64 == k
    | _ => false
  | .accRow k v => s.onAgentTile a fun t s =>
    (s.modTile t fun x => { x with acc := fput x.acc k v }).clean fun p => match p with
    | .acc u w => u.toNat == t && w / 64 == k
    | _ => false
/-- A delayed write put before the first one of a later bundle. -/
def insertPend (p : Pend) : List Pend → List Pend
  | [] => [p]
  | q :: r => if p.seq ≤ q.seq then p :: q :: r else q :: insertPend p r

/-- Delayed writes in the order they land within one cycle: by bundle, flags last (R29, R67). -/
def landOrder (ps : List Pend) : List Pend :=
  let isFlags (p : Pend) : Bool := match p.act with
    | .flags _ => true
    | _ => false
  ((ps.filter fun p => !isFlags p).foldr insertPend []) ++ ps.filter isFlags

/-- Writes of accumulator rows by VMOVT. -/
def Act.isAccRow : Act → Bool
  | .accRow _ _ => true
  | _ => false

/-- The cluster whose array runs with an agent's issue cycles: it is a tile at TL0 and holds the lease (R140). -/
def State.arrayOf (s : State) (a : Agent) : Option Nat :=
  match a with
  | .tile t =>
    let c := t.toNat / 4
    if (s.cluster c).arr.holder = some (t.extractLsb' 0 2) ∧ (s.tile t.toNat).th.lvl = .tl0 then some c else none
  | .seq _ => none

/-- The perform points of a cluster's array that are due: they stand immediately before the bundle of their cycle (R273), with
the VMOVT writes of the same cycle each after the commands issued before it and after a command of its own bundle (R135,
R142). -/
def State.landArray (s : State) (a : Agent) (c n : Nat) (rows : List Pend) : State :=
  let m := (s.cluster c).arr
  let s := s.modArr c fun m => { m with perfs := m.perfs.filter fun p => !decide (p.due ≤ m.age) }
  let x := m.due.foldl (fun (x : State × List Pend) p =>
    let q := ((ffind m.cmds p.cmd).map ARec.seq).getD 0
    let before := x.2.filter fun w => decide (w.seq < q)
    ((before.foldl (fun s w => s.applyAct a n w.act) x.1).performOne c p, x.2.filter fun w => !decide (w.seq < q)))
    (s, rows)
  x.2.foldl (fun s w => s.applyAct a n w.act) x.1

/-- The delayed writes of the current level that are due and of a kind perform (R66). -/
def State.landKind (s : State) (a : Agent) (kind : Act → Bool) : State :=
  let b := (s.threadOf a).bank
  let lands (p : Pend) : Bool := kind p.act && decide (p.due ≤ b.n)
  let s := s.modThreadOf a fun t => t.modBank fun b => { b with pend := b.pend.filter fun p => !lands p }
  (landOrder (b.pend.filter lands)).foldl (fun s p => s.applyAct a b.n p.act) s

/-- The perform points of the array that runs with an agent, as they stand immediately before the bundle of their cycle, and
the VMOVT writes among them; the run ends with the last of them (R135, R140, R141, R145, R273). -/
def State.landPoints (s : State) (a : Agent) : State :=
  match s.arrayOf a with
  | none => s
  | some c =>
    let b := (s.threadOf a).bank
    let row (p : Pend) : Bool := p.act.isAccRow && decide (p.due ≤ b.n)
    let s := s.modThreadOf a fun t => t.modBank fun b => { b with pend := b.pend.filter fun p => !row p }
    (s.landArray a c b.n (landOrder (b.pend.filter row))).endRun c

/-- Whether the array that runs with an agent waits with the agent's stalls: no array cycle passes in one (R70, R140). An array
that its holder has given back runs on in every cycle (R143). -/
def State.arrayHeld (s : State) (a : Agent) : Bool :=
  match s.arrayOf a with
  | none => false
  | some c => !(s.cluster c).arr.free

/-- The delayed writes of the current level that are due perform (R66). Those of accumulator rows wait, beside the perform
points of the array, for the bundle of their cycle where the agent's stalls hold its array (R140, R273). -/
def State.land (s : State) (a : Agent) : State :=
  let s := match s.arrayOf a with
    | none => s
    | some c => s.endRun c
  let s := s.landKind a fun x => !x.isAccRow
  if s.arrayHeld a then s
  else match s.arrayOf a with
    | none => s.landKind a Act.isAccRow
    | some _ => s.landPoints a

/-- Everything due at the boundary before the agent's next bundle, the perform points of its array among it. -/
def State.landAll (s : State) (a : Agent) : State := (s.land a).landPoints a

/-- Whether an answer that is due has not come: the agent stalls (R69). -/
def Thread.late (t : Thread) : Bool := t.bank.loads.any fun l => decide (l.due ≤ t.bank.n)

/-- What is due lands, unless a late answer stalls the agent: then nothing lands, so that the answer takes its place in the
order of issue (R67, R69, R70). -/
def State.landDue (s : State) (a : Agent) : State := if (s.threadOf a).late then s else s.land a

/-- Writes of a latch. -/
def Act.isLatch : Act → Bool
  | .latch _ _ => true
  | _ => false

/-- The agent's level as a trap after a committed bundle freezes it: every write due for the next bundle is performed, but the
results that land in a latch then are held and land at the resumed cycle (R323, R325). -/
def State.freeze (s : State) (a : Agent) : State :=
  let held := (s.threadOf a).bank.pend.filter fun p => p.act.isLatch
  let s := s.modThreadOf a fun t => t.modBank fun b => { b with pend := b.pend.filter fun p => !p.act.isLatch }
  (s.landAll a).modThreadOf a fun t => t.modBank fun b => { b with pend := held ++ b.pend }

/-! ### The end of a bundle -/

/-- The stage predicates after a LOOPP back edge: each takes the one below, ps0 is 1 when an iteration starts (R100). -/
def shiftStages (ps : BitVec 8) (stages : BitVec 3) (more : Bool) : BitVec 8 :=
  let m : BitVec 8 := BitVec.ofNat 8 (2 ^ (stages.toNat + 1) - 1)
  let sh := (ps <<< 1 ||| if more then 1 else 0) &&& m
  sh ||| (ps &&& ~~~m)

/-- The back-edge test of a bundle at a PC over a loop stack, top first: the stack, the loop indexes and stage
predicates after it, and the PC it goes on at (R100). -/
def backEdge (pc next : Word) (cut : Bool) : List LoopEntry → Vector Word 6 → BitVec 8 →
    List LoopEntry × Vector Word 6 × BitVec 8 × Word
  | [], li, ps => ([], li, ps, next)
  | e :: r, li, ps =>
    if e.endPc ≠ pc then (e :: r, li, ps, next)
    else
      let k := r.length
      let li := vset li k (vget li k + 1)
      if e.pipelined then
        let more := e.rem != 0 && !cut
        let ps' := shiftStages ps e.stages more
        let rem := if more then e.rem - 1 else e.rem
        if ps' &&& BitVec.ofNat 8 (2 ^ (e.stages.toNat + 1) - 1) = 0 ∧ rem = 0 then
          backEdge pc next cut r (vset li k 0) e.saved
        else ({ e with rem := rem } :: r, li, ps', e.start)
      else if e.rem ≠ 0 then ({ e with rem := e.rem - 1 } :: r, li, ps, e.start)
      else backEdge pc next cut r (vset li k 0) ps

/-- The back-edge test of the bundle in issue: tested at TL0 when no branch redirected the PC; the PC to go on at
(R100, R102, R324). -/
def State.endTest (s : State) : State × Word :=
  let t := s.thread
  if t.lvl ≠ .tl0 then (s, s.iss.nextPc)
  else
    let r := backEdge s.iss.pc s.iss.nextPc (s.onTile && s.cur.cutPending) t.loops t.li t.ps
    (s.modThread fun t => { t with loops := r.1, li := r.2.1, ps := r.2.2.1 }, r.2.2.2)

/-- A scratchpad write of the bundle performs, after every load that stands before it in program order (R134, R274); the
damaged word of such a load has killed the tile instead. -/
def State.performWrite (s : State) (w : SpadWrite) : State :=
  let s := s.performEarlier s.iss.agent s.thread.bundles w.pos
  if s.cur.alive then s.writeView s.curId w.swz w.addr w.bytes else s

/-- The scratchpad writes of the bundle, in slot order (R134). -/
def State.performWrites (s : State) : State := s.iss.writes.foldl State.performWrite s

/-- The queues advance (R63). -/
def Tile.popQueues (x : Tile) (n : Vector Nat 4) : Tile :=
  { x with q0 := x.q0.drop (vget n 0), q1 := x.q1.drop (vget n 1), q2 := x.q2.drop (vget n 2), q3 := x.q3.drop (vget n 3) }

/-- The cursors of a mask advance by 1 (R62). -/
def Tile.advance (x : Tile) (m : BitVec 8) : Tile :=
  { x with cur := Vector.ofFn fun g => if m.getLsbD g.val then vget x.cur g.val + 1 else vget x.cur g.val }

/-- A thread after an issue cycle: the next PC and cycle number, ISSUE and the bundle number; the stall that follows
(R5, R66, R70, R110; assumption 12). -/
def Thread.tick (t : Thread) (pc : Word) (ready : Nat) : Thread :=
  { t.modBank fun b => { b with pc := pc, n := b.n + 1 } with
    issue := t.issue + 1
    bundles := t.bundles + 1
    readyAt := ready }

/-- An array cycle of the cluster passes, when the agent holds its lease at TL0 (R140). -/
def State.arrayTick (s : State) (a : Agent) : State :=
  match s.arrayOf a with
  | some c => s.modArr c fun m => { m with age := m.age + 1 }
  | none => s

/-- An issue cycle passes and execution goes on at a PC. -/
def State.tick (s : State) (pc : Word) : State :=
  (s.arrayTick s.iss.agent).modThread fun t => t.tick pc (s.cycle + 1 + s.iss.cost)

/-- Whether a STEP that has just counted parks its tile (R331): the largest count reported is the running target. -/
def State.parks (s : State) : Bool :=
  let x := s.cur
  s.onTile && x.cutPending && match (s.lslot x.part.toNat x.slot.toNat).cut with
    | some ⟨some m, _⟩ => decide (m ≤ x.stepCnt)
    | _ => true

/-- The END of an agent: the loop stack is discarded and fetch halts; a held lease is given back when the array is done. On a
context the other slots of the bundle have committed before the wait for its launches (R107, R140, R304; assumption
63). -/
def State.finishEnd (s : State) : State :=
  let pc := s.iss.pc
  let s := (s.tick s.iss.nextPc).modThread Thread.dropLoops
  match s.iss.agent with
  | .tile t =>
    let s := (s.modTile t.toNat fun x => { x with run := .ended, hasEnded := true }).rankEnd t.toNat
    if (s.cluster (t.toNat / 4)).arr.holder = some (t.extractLsb' 0 2) then
      (s.modArr (t.toNat / 4) fun m => { m with spent := true, free := true }).endRun (t.toNat / 4)
    else s
  | .seq q => s.modSeq q.toNat fun x => { x with ending := some pc }

/-- Whether the issuing tile has been killed. -/
def State.stopped (s : State) : Bool := s.onTile && s.cur.run == .stopped

/-- The end of the bundle in issue: writes, queues, cursors, then control (R62, R63, R94, R100, R107, R115, R116, R134,
R331). -/
def State.finishBundle (s : State) : State :=
  let s := s.performWrites
  if s.stopped then s else
  let s := s.modCur fun x => (x.popQueues s.iss.pops).advance s.iss.incs
  match s.iss.control with
  | .jump pc => s.tick pc
  | .tret => (s.tick s.iss.nextPc).modThread fun t => t.tret
  | .end_ => s.finishEnd
  | .trap n pos =>
    let r := s.endTest
    let t := (r.1.tick r.2).freeze s.iss.agent
    t.takeTrap r.2 ⟨0x80 + n.setWidth 8, s.iss.pc, 1#8 <<< pos, false, false, false⟩
  | .step =>
    let r := s.endTest
    let t := r.1.tick r.2
    if t.parks then t.modCur fun x => { x with run := .parked, reported := false } else t
  | .refetch =>
    let r := s.endTest
    r.1.tick r.2
  | .none =>
    let r := s.endTest
    r.1.tick r.2

/-- An empty bundle: an issue cycle in which nothing acts (R107, R325, R331). -/
def State.emptyBundle (s : State) (a : Agent) : State :=
  (s.arrayTick a).modThreadOf a fun t => { t.modBank (fun b => { b with n := b.n + 1 }) with
    issue := t.issue + 1
    readyAt := s.cycle + 1 }

/-- Whether an array that runs with the agent has perform points left (R107, R140). -/
def State.arrayBusy (s : State) (a : Agent) : Bool :=
  match s.arrayOf a with
  | some c => !(s.cluster c).arr.perfs.isEmpty
  | none => false

/-- A cycle of tile t that is parked or has ended: what is due lands, and while something is left an empty bundle issues
(R107, R331). -/
def State.drainCycle (s : State) (t : Nat) : State :=
  let a := Agent.tile (BitVec.ofNat 11 t)
  let s := if (s.threadOf a).late then s else s.landAll a
  let b := (s.tile t).th.bank
  if !(s.tile t).alive || (s.tile t).th.late || b.pend.isEmpty && b.loads.isEmpty && !s.arrayBusy a then s
  else s.emptyBundle a

/-- The boundary before an agent's next bundle: no earlier than it is ready, nothing yet in issue (R70). -/
def State.atBoundary (s : State) (a : Agent) : State :=
  { s with
    cycle := max s.cycle (s.threadOf a).readyAt
    iss := { Issue.reset with agent := a } }

/-- A late count-mode event is taken at TL0, before the first bundle after it: its fault, and the tile with the events of
other array cycles left (R168). -/
def Tile.lateTrap (x : Tile) : Option (FaultInfo × Tile) :=
  if x.th.lvl = .tl0 then
    x.takeLate.map fun e => (⟨e.1.cause, e.1.addr, 1#8 <<< e.1.pos, false, false, true⟩, e.2)
  else none

/-! ### The frame of a slot's meaning -/

/-- What every slot does at commit beside its effect: cursors and queues marked for the end of the bundle (R62, R63). -/
def State.marks (s : State) (i : Instr) : State :=
  s.modIss fun k =>
    { k with
      incs := k.incs ||| i.incs
      pops := Vector.ofFn fun q => vget k.pops q.val + i.pops.count (BitVec.ofNat 2 q.val) }

/-- The bundle that holds a slot alone, padded with NOPs to four slots (R47). -/
def State.aloneBundle (s : State) : State :=
  let pc := s.thread.bank.pc
  { s with iss := { Issue.reset with agent := s.iss.agent, pos := s.iss.pos, pc := pc, nextPc := pc + 16 } }

/-- A stalled agent registers the request of its waiting bundle once (R143, R237, R238, R251, R257). An MLEASE of the
holder gives its lease back first, and the array runs on while it waits (R143; assumption 37). -/
def State.register (s : State) (r : Option WaitReq) : State :=
  match r with
  | none => s
  | some .lease =>
    let s := s.modCur fun x => { x with lease := some false }
    if (s.cluster s.curCluster).arr.holder = some (BitVec.ofNat 2 s.curId) then
      (s.modArr s.curCluster fun m => { m with spent := true, free := true }).endRun s.curCluster
    else s
  | some q =>
    if s.cur.req = some q then s
    else (s.modCur fun x => { x with req := some q, grant := none }).sendWait s.curId q

/-- The result delivered for a window request of the issuing tile, when it has come. -/
def State.granted (s : State) (q : WaitReq) : Option Word := if s.cur.req = some q then s.cur.grant else none

/-- The window request of the issuing tile is over. -/
def State.settleReq (s : State) : State := s.modCur fun x => { x with req := none, grant := none }

/-- The checks of R72 from step 5 on, and those of R398 before a slot's own, for a slot that stands alone. -/
def State.soleCheck (s : State) (i : Instr) : Verdict :=
  (checkThat (s.slotOk i) (s.faultPc cINVALID_ENCODING)).andThen
    (((s.levelCheck [i]).andThen (s.queueCheck [i])).andThen (s.rowCheck i))

/-- A slot in issue: its check alone, its effect alone, or the whole bundle that holds it alone. A damaged word in a row that
the slot reads stands before the slot's own checks (R291, R392; assumption 64). -/
def issueSlot (i : Instr) (check : State → Verdict) (effect : State → State) (s : State) :
    Host.Outcome State Fault Refusal :=
  .next (match s.iss.phase with
    | .check => s.modIss fun k => { k with verdict := (s.rowCheck i).andThen (check s) }
    | .commit => effect (s.marks i)
    | .alone =>
      let b := s.aloneBundle
      match (b.soleCheck i).andThen (check b) with
      | .go => (effect (b.marks i)).finishBundle
      | .wait r => b.register r
      | .trap f => b.takeTrap b.iss.pc f)

end Sys2Proof.Machine
end

