-- ==== Sys2Proof/Machine/Flags.lean ====
section
/-! DEFINITION. Floating-point flags: capture of FPCTL, the FP_INVALID check at issue, and flags that land with a result (R27 to R30). -/

namespace Sys2Proof.Machine

/-- FPCTL's IVM as this bundle captures it (R29). -/
def State.ivm (s : State) : Bool := s.thread.fpctl.getLsbD 8

/-- FPCTL's CSAT_TE as this bundle captures it. -/
def State.csatTe (s : State) : Bool := s.thread.fpctl.getLsbD 14

/-- FPCTL's FRNG_TE as this bundle captures it. -/
def State.frngTe (s : State) : Bool := s.thread.fpctl.getLsbD 15

/-- An invalid operation under IVM = 0 raises FP_INVALID at issue (R30). -/
def State.fpCheck (s : State) (f : Flags) : Verdict :=
  checkThat (s.ivm || f &&& fIV == 0) (s.faultPc cFP_INVALID)

/-- Flags on their way to FPCTL: ORed in when the result lands (R29). -/
def State.pushFlags (s : State) (lat : Nat) (f : Flags) : State :=
  if f = 0 then s else s.push (s.now + lat) (.flags f)

/-- `dst` of a scalar result with its flags. -/
def State.dstFS (s : State) (lat : Nat) (n : Bool) (d : SDst) (r : Nat × Flags) : State :=
  (s.dstS lat n d (BitVec.ofNat 64 r.1)).pushFlags lat r.2

/-- `dst` of a predicate with its flags. -/
def State.dstFP (s : State) (lat : Nat) (n : Bool) (p : BitVec 3) (r : Bool × Flags) : State :=
  (s.dstP lat n p r.1).pushFlags lat r.2

/-- `dst` of a row with its flags. -/
def State.dstFV (s : State) (lat : Nat) (n : Bool) (d : VOp) (r : Row × Flags) : State :=
  (s.dstV lat n d r.1).pushFlags lat r.2

/-- The OR of the flags of all elements. -/
def orFlags (xs : List (Nat × Flags)) : Flags := xs.foldl (fun a x => a ||| x.2) 0

/-- A row and its flags from elements of width w. -/
def packFlags (w : Nat) (xs : List (Nat × Flags)) : Row × Flags := (packRow w (xs.map (·.1)), orFlags xs)

/-- A row of one-operand results and their flags. -/
def mapFlags (w : Nat) (f : Nat → Nat × Flags) (a : Row) : Row × Flags := packFlags w ((elems w a).map f)

/-- A row of two-operand results and their flags. -/
def zipFlags (w : Nat) (f : Nat → Nat → Nat × Flags) (a b : Row) : Row × Flags :=
  packFlags w (List.zipWith f (elems w a) (elems w b))

/-- A row of three-operand results and their flags. -/
def zipFlags3 (w : Nat) (f : Nat → Nat → Nat → Nat × Flags) (a b c : Row) : Row × Flags :=
  packFlags w (List.zipWith (fun x (yz : Nat × Nat) => f x yz.1 yz.2) (elems w a)
    ((elems w b).zip (elems w c)))

end Sys2Proof.Machine
end

