-- ==== Sys2Proof/Machine/ScalarInt.lean ====
section
/-! DEFINITION. Scalar integer instructions, native and wide (R82 to R87). -/

namespace Sys2Proof.Machine

/-- The outcome of a step of the machine. -/
abbrev Result := Host.Outcome State Fault Refusal

/-- No fault of its own at issue. -/
def noCheck (_ : State) : Verdict := .go

/-- An instruction with a scalar result and no fault of its own. -/
def scalarOp (i : Instr) (lat : Nat) (n : Bool) (d : SDst) (v : State → Word) (s : State) : Result :=
  issueSlot i noCheck (fun s => s.dstS lat n d (v s)) s

/-- A 64-bit truth value. -/
def truth (b : Bool) : Word := if b then 1 else 0

/-- The number of leading zero bits (R82, CLZ). -/
def leadingZeros (x : Word) : Nat := if x = 0 then 64 else 63 - x.toNat.log2

/-- The number of one bits of the low n bits. -/
def onesOf (x : Word) : Nat → Nat
  | 0 => 0
  | n + 1 => (if x.getLsbD n then 1 else 0) + onesOf x n

/-- The number of one bits (R82, POPC). -/
def popCount (x : Word) : Nat := onesOf x 64

/-- Bits [127:64] of the signed product (R82, MULH). -/
def mulHigh (x y : Word) : Word := BitVec.ofInt 64 (x.toInt * y.toInt / 2 ^ 64)

/-- DIV (R84): truncated toward zero; -2^63 / -1 is -2^63. -/
def divSigned (x y : Word) : Word := BitVec.ofInt 64 (x.toInt.tdiv y.toInt)

/-- REM (R84): the sign of the dividend, or 0. -/
def remSigned (x y : Word) : Word := BitVec.ofInt 64 (x.toInt.tmod y.toInt)

/-- The smaller of two signed integers. -/
def minSigned (x y : Word) : Word := if x.toInt ≤ y.toInt then x else y

/-- The larger of two signed integers. -/
def maxSigned (x y : Word) : Word := if x.toInt ≤ y.toInt then y else x

/-- A shift amount: bits [5:0] (R82). -/
def shiftBy (y : Word) : Nat := y.toNat % 64

/-- The divide group: DIVZERO for a zero divisor, whatever N (R84). -/
def divideOp (i : Instr) (n : Bool) (d : BitVec 5) (a b : SOp) (f : Word → Word → Word) (s : State) : Result :=
  issueSlot i (fun s => checkThat (s.readS b != 0) (s.faultPc cDIVZERO))
    (fun s => s.dstS 12 n (.reg d) (f (s.readS a) (s.readS b))) s

/-- ADD (R82). -/
def execAdd (n : Bool) (d : BitVec 5) (a b : SOp) (s : State) : Result :=
  scalarOp (.add n d a b) 1 n (.reg d) (fun s => s.readS a + s.readS b) s

/-- SUB (R82). -/
def execSub (n : Bool) (d : BitVec 5) (a b : SOp) (s : State) : Result :=
  scalarOp (.sub n d a b) 1 n (.reg d) (fun s => s.readS a - s.readS b) s

/-- MUL (R82). -/
def execMul (n : Bool) (d : BitVec 5) (a b : SOp) (s : State) : Result :=
  scalarOp (.mul n d a b) 3 n (.reg d) (fun s => s.readS a * s.readS b) s

/-- MULH (R82). -/
def execMulh (n : Bool) (d : BitVec 5) (a b : SOp) (s : State) : Result :=
  scalarOp (.mulh n d a b) 3 n (.reg d) (fun s => mulHigh (s.readS a) (s.readS b)) s

/-- AND (R82). -/
def execAnd (n : Bool) (d : BitVec 5) (a b : SOp) (s : State) : Result :=
  scalarOp (.and n d a b) 1 n (.reg d) (fun s => s.readS a &&& s.readS b) s

/-- OR (R82). -/
def execOr (n : Bool) (d : BitVec 5) (a b : SOp) (s : State) : Result :=
  scalarOp (.or n d a b) 1 n (.reg d) (fun s => s.readS a ||| s.readS b) s

/-- XOR (R82). -/
def execXor (n : Bool) (d : BitVec 5) (a b : SOp) (s : State) : Result :=
  scalarOp (.xor n d a b) 1 n (.reg d) (fun s => s.readS a ^^^ s.readS b) s

/-- SHL (R82). -/
def execShl (n : Bool) (d : BitVec 5) (a b : SOp) (s : State) : Result :=
  scalarOp (.shl n d a b) 1 n (.reg d) (fun s => s.readS a <<< shiftBy (s.readS b)) s

/-- SHR (R82). -/
def execShr (n : Bool) (d : BitVec 5) (a b : SOp) (s : State) : Result :=
  scalarOp (.shr n d a b) 1 n (.reg d) (fun s => s.readS a >>> shiftBy (s.readS b)) s

/-- SRA (R82). -/
def execSra (n : Bool) (d : BitVec 5) (a b : SOp) (s : State) : Result :=
  scalarOp (.sra n d a b) 1 n (.reg d) (fun s => (s.readS a).sshiftRight (shiftBy (s.readS b))) s

/-- MIN (R82). -/
def execMin (n : Bool) (d : BitVec 5) (a b : SOp) (s : State) : Result :=
  scalarOp (.min n d a b) 1 n (.reg d) (fun s => minSigned (s.readS a) (s.readS b)) s

/-- MAX (R82). -/
def execMax (n : Bool) (d : BitVec 5) (a b : SOp) (s : State) : Result :=
  scalarOp (.max n d a b) 1 n (.reg d) (fun s => maxSigned (s.readS a) (s.readS b)) s

/-- SLT (R82). -/
def execSlt (n : Bool) (d : BitVec 5) (a b : SOp) (s : State) : Result :=
  scalarOp (.slt n d a b) 1 n (.reg d) (fun s => truth (decide ((s.readS a).toInt < (s.readS b).toInt))) s

/-- SLTU (R82). -/
def execSltu (n : Bool) (d : BitVec 5) (a b : SOp) (s : State) : Result :=
  scalarOp (.sltu n d a b) 1 n (.reg d) (fun s => truth (decide ((s.readS a).toNat < (s.readS b).toNat))) s

/-- SEQ (R82). -/
def execSeq (n : Bool) (d : BitVec 5) (a b : SOp) (s : State) : Result :=
  scalarOp (.seq n d a b) 1 n (.reg d) (fun s => truth (s.readS a == s.readS b)) s

/-- ADDI (R82). -/
def execAddi (n : Bool) (d : BitVec 5) (a : SOp) (i : BitVec 7) (s : State) : Result :=
  scalarOp (.addi n d a i) 1 n (.reg d) (fun s => s.readS a + i.signExtend 64) s

/-- LUI (R83): s[D] shifted left by 14, or i14. -/
def execLui (n : Bool) (d : BitVec 5) (i : BitVec 14) (s : State) : Result :=
  scalarOp (.lui n d i) 1 n (.reg d) (fun s => s.thread.getS d <<< 14 ||| i.setWidth 64) s

/-- DIV (R84). -/
def execDiv (n : Bool) (d : BitVec 5) (a b : SOp) (s : State) : Result :=
  divideOp (.div n d a b) n d a b divSigned s

/-- DIVU (R84). -/
def execDivu (n : Bool) (d : BitVec 5) (a b : SOp) (s : State) : Result :=
  divideOp (.divu n d a b) n d a b (fun x y => BitVec.ofNat 64 (x.toNat / y.toNat)) s

/-- REM (R84). -/
def execRem (n : Bool) (d : BitVec 5) (a b : SOp) (s : State) : Result :=
  divideOp (.rem n d a b) n d a b remSigned s

/-- CLZ (R82). -/
def execClz (n : Bool) (d : BitVec 5) (a : SOp) (s : State) : Result :=
  scalarOp (.clz n d a) 1 n (.reg d) (fun s => BitVec.ofNat 64 (leadingZeros (s.readS a))) s

/-- POPC (R82). -/
def execPopc (n : Bool) (d : BitVec 5) (a : SOp) (s : State) : Result :=
  scalarOp (.popc n d a) 1 n (.reg d) (fun s => BitVec.ofNat 64 (popCount (s.readS a))) s

/-- MOVSB (R62, R85): sb for the bundle two issue cycles later; no result. -/
def execMovsb (a : SOp) (s : State) : Result :=
  issueSlot (.movsb a) noCheck (fun s => s.push (s.now + 2) (.sb ((s.readS a).setWidth 5))) s

/-- MOVC (R62, R85): a cursor for the bundle two issue cycles later; no result. -/
def execMovc (c : BitVec 3) (a : SOp) (s : State) : Result :=
  issueSlot (.movc c a) noCheck (fun s => s.push (s.now + 2) (.cursor c ((s.readS a).setWidth 5))) s

/-- MOVO (R85): an entry of the scalar operand file. -/
def execMovo (n : Bool) (d : BitVec 3) (a : SOp) (s : State) : Result :=
  scalarOp (.movo n d a) 1 n (.file d) (fun s => s.readS a) s

/-- SEL (R86). -/
def execSel (p : BitVec 3) (n : Bool) (d : BitVec 5) (a b : SOp) (s : State) : Result :=
  scalarOp (.sel p n d a b) 1 n (.reg d) (fun s => if s.thread.getP p then s.readS a else s.readS b) s

/-- LI (R87). -/
def execLi (n : Bool) (d : SDst) (imm : Word) (s : State) : Result :=
  scalarOp (.li n d imm) 1 n d (fun _ => imm) s

/-- ADDI.W (R87). -/
def execAddiW (n : Bool) (d : SDst) (a : SOp) (imm : Word) (s : State) : Result :=
  scalarOp (.addiW n d a imm) 1 n d (fun s => s.readS a + imm) s

/-- ANDI.W (R87). -/
def execAndiW (n : Bool) (d : SDst) (a : SOp) (imm : Word) (s : State) : Result :=
  scalarOp (.andiW n d a imm) 1 n d (fun s => s.readS a &&& imm) s

/-- ORI.W (R87). -/
def execOriW (n : Bool) (d : SDst) (a : SOp) (imm : Word) (s : State) : Result :=
  scalarOp (.oriW n d a imm) 1 n d (fun s => s.readS a ||| imm) s

/-- XORI.W (R87). -/
def execXoriW (n : Bool) (d : SDst) (a : SOp) (imm : Word) (s : State) : Result :=
  scalarOp (.xoriW n d a imm) 1 n d (fun s => s.readS a ^^^ imm) s

/-- MULI.W (R87). -/
def execMuliW (n : Bool) (d : SDst) (a : SOp) (imm : Word) (s : State) : Result :=
  scalarOp (.muliW n d a imm) 3 n d (fun s => s.readS a * imm) s

/-- SLTI.W (R87). -/
def execSltiW (n : Bool) (d : SDst) (a : SOp) (imm : Word) (s : State) : Result :=
  scalarOp (.sltiW n d a imm) 1 n d (fun s => truth (decide ((s.readS a).toInt < imm.toInt))) s

/-- SEQI.W (R87). -/
def execSeqiW (n : Bool) (d : SDst) (a : SOp) (imm : Word) (s : State) : Result :=
  scalarOp (.seqiW n d a imm) 1 n d (fun s => truth (s.readS a == imm)) s

end Sys2Proof.Machine
end

