-- ==== Sys2Proof/Machine/Matrix.lean ====
section
/-! DEFINITION. The lease, the matrix commands and the scale loads as a tile issues them, and the events of the array (R140 to R169, R291). -/

namespace Sys2Proof.Machine

/-! ### Checks at issue (R291) -/

/-- The array of the issuing tile's cluster. -/
def State.arr (s : State) : MatArray := (s.cluster s.curCluster).arr

/-- The lease checks of a matrix command whose last perform point is at an array cycle (R146). -/
def State.leaseCheck (s : State) (last : Nat) : Verdict :=
  checkThat (s.arr.holder == some (BitVec.ofNat 2 s.curId) && !s.arr.spent && decide (last ≤ 32768))
    (s.faultPc cLEASE_REQUIRED)

/-- An operand descriptor (R149): bytes 0 to 7 of the row. -/
def operDesc (r : Row) : OperDesc :=
  let v := wordOfRow r
  ⟨(v.extractLsb' 32 16).toNat, v.getLsbD 24, v.extractLsb' 22 2, (v.extractLsb' 0 22).toNat⟩

/-- The checks of a descriptor for k slices of a length: ALIGN, then VIEW_RANGE with the lowest offset past the view that
a slice covers (R150). For ALIGN R150 names "the slice address" without a slice: the model gives that of slice 0, also where
only STRIDE is at fault (assumption 29). -/
def State.descCheck (s : State) (d : OperDesc) (k len : Nat) : Verdict :=
  if d.addr % 64 ≠ 0 ∨ d.stride % 64 ≠ 0 ∨ k > 1 ∧ d.stride < len then
    s.faultAt cALIGN (BitVec.ofNat 64 d.addr)
  else if d.addr + (k - 1) * d.stride + len > 0x300000 then
    let past := (List.range k).filterMap fun i =>
      let a := d.addr + i * d.stride
      if a + len > 0x300000 then some (max a 0x300000) else none
    s.faultAt cVIEW_RANGE (BitVec.ofNat 64 (past.headD 0x300000))
  else .go

/-- The scale checks of a command that claims nb groups of each queue (R157). -/
def State.scaleCheck (s : State) (scm : Scm) (nb : Nat) : Verdict :=
  let ready (q : List ScaleGroup) : Bool :=
    decide (nb ≤ q.length) && (q.take nb).all fun g => decide (g.at_ ≤ s.arr.age) && g.scm == scm
  checkThat (ready s.arr.sa && ready s.arr.sb) (s.faultPc cSCALE_STREAM)

/-! ### Commands entering their queue (R141, R145, R168) -/

/-- The start of the next stream command and of the next cell command. -/
def MatArray.streamStart (m : MatArray) : Nat := max m.age m.streamEnd

/-- The start of the next cell command. -/
def MatArray.cellStart (m : MatArray) : Nat := max m.age m.cellEnd

/-- The command counts toward the 64 of a lease (R145, R146). A bundle whose MX slot is the 64th and whose SLD would be one
more passes its checks, and the count stays at 64 (assumption 60). -/
def MatArray.counted (m : MatArray) : MatArray :=
  { m with ncmd := min 64 (m.ncmd + 1), spent := m.spent || decide (m.ncmd + 1 ≥ 64) }

/-- A command accepted: its record, its perform points, its place in the count. -/
def State.addCmd (s : State) (cmd : ACmd) (points : List (Nat × APoint)) : State :=
  let r : ARec :=
    { seq := s.thread.bundles, pos := s.iss.pos, pc := s.iss.pc, csatTe := s.csatTe, frngTe := s.frngTe, cmd := cmd,
      sliceA := [], sliceB := [], cells := [], bytes := [] }
  s.modArr s.curCluster fun m =>
    { m.counted with
      next := m.next + 1
      cmds := fput m.cmds m.next r
      perfs := points.foldl (fun l p => insertPerf ⟨p.1, m.next, p.2⟩ l) m.perfs }

/-- A stream command with its occupancy; it claims its scale groups (R155). -/
def State.addStream (s : State) (occ nb : Nat) (cmd : List (List Nat) → List (List Nat) → ACmd)
    (points : Nat → List (Nat × APoint)) : State :=
  let m := s.arr
  let ga := (m.sa.take nb).map ScaleGroup.sc
  let gb := (m.sb.take nb).map ScaleGroup.sc
  (s.addCmd (cmd ga gb) (points m.streamStart)).modArr s.curCluster fun k =>
    { k with streamEnd := m.streamStart + occ, sa := k.sa.drop nb, sb := k.sb.drop nb }

/-- A cell command with its occupancy. -/
def State.addCell (s : State) (occ : Nat) (cmd : ACmd) (points : List (Nat × APoint)) : State :=
  let st := s.arr.cellStart
  (s.addCmd cmd (points.map fun p => (st + p.1, p.2))).modArr s.curCluster fun k => { k with cellEnd := st + occ }

/-- The slice reads of a command from its start (R151). -/
def slicePoints (start k r : Nat) : List (Nat × APoint) := (List.range k).map fun i => (start + 1 + i / r, .slice i)

/-! ### Lease (R143 to R145) -/

/-- Whether the waiting MLEASE of the issuing tile has been granted the lease (R143). -/
def State.leaseGranted (s : State) : Bool :=
  s.cur.lease == some true && s.arr.holder == some (BitVec.ofNat 2 s.curId)

/-- MLEASE (R143): the bundle issues once the lease has been granted. -/
def execMlease (s : State) : Result :=
  issueSlot .mlease (fun s => if s.leaseGranted then .go else .wait (some .lease))
    (fun s => s.modCur fun x => { x with lease := none }) s

/-- MREL (R145). -/
def execMrel (s : State) : Result :=
  issueSlot .mrel (fun s => checkThat (s.arr.holder == some (BitVec.ofNat 2 s.curId)) (s.faultPc cLEASE_REQUIRED))
    (fun s => (s.modArr s.curCluster fun m => { m with spent := true }).endRun s.curCluster) s

/-! ### MMA and MMC (R152, R159, R160) -/

/-- T of an MMA (R153). -/
def mmaT (f : MmaF) : Nat := if f.fa.width = 16 then f.k.toNat else (f.k.toNat + 1) / 2

/-- The checks of an MMA (R291). -/
def State.mmaCheck (s : State) (f : MmaF) (a b : VOp) : Verdict :=
  ((s.leaseCheck (s.arr.streamStart + mmaT f + 8)).andThen
    (s.descCheck (operDesc (s.readV f.fa a)) f.k.toNat (sliceLen (dim f.m) f.fa.width))).andThen
  ((s.descCheck (operDesc (s.readV f.fb b)) f.k.toNat (sliceLen (dim f.n) f.fb.width)).andThen
    (s.scaleCheck f.scm (blocksOf f.scm f.k.toNat)))

/-- An MMA accepted. -/
def State.mma (s : State) (d : BitVec 4) (f : MmaF) (a b : VOp) : State :=
  s.addStream (mmaT f) (blocksOf f.scm f.k.toNat)
    (fun ga gb => .mma d f (operDesc (s.readV f.fa a)) (operDesc (s.readV f.fb b)) ga gb)
    fun st => slicePoints st f.k.toNat (stepsPerCycle f.fa.width) ++ [(st + mmaT f + 8, .write)]

/-- An MMA in issue. -/
def mmaOp (i : Instr) (d : BitVec 4) (f : MmaF) (a b : VOp) (s : State) : Result :=
  issueSlot i (fun s => s.mmaCheck f a b) (fun s => s.mma d f a b) s

/-- The static fields of a native MMA (R152). -/
def nativeMma (f : Fmt) : MmaF := ⟨f, f, 128, 0, 0, true, .none⟩

/-- MMA.BF16 (R152). -/
def execMmaBf16 (d : BitVec 4) (a b : VOp) (s : State) : Result := mmaOp (.mmaBf16 d a b) d (nativeMma .bf16) a b s

/-- MMA.FP16 (R152). -/
def execMmaFp16 (d : BitVec 4) (a b : VOp) (s : State) : Result := mmaOp (.mmaFp16 d a b) d (nativeMma .fp16) a b s

/-- MMA.E4M3 (R152). -/
def execMmaE4m3 (d : BitVec 4) (a b : VOp) (s : State) : Result := mmaOp (.mmaE4m3 d a b) d (nativeMma .e4m3) a b s

/-- MMA.E5M2 (R152). -/
def execMmaE5m2 (d : BitVec 4) (a b : VOp) (s : State) : Result := mmaOp (.mmaE5m2 d a b) d (nativeMma .e5m2) a b s

/-- MMA.W (R152). -/
def execMmaW (d : BitVec 4) (a b : VOp) (f : MmaF) (s : State) : Result := mmaOp (.mmaW d a b f) d f a b s

/-- T of an MMC (R160). -/
def mmcT (f : MmcF) : Nat := (f.k.toNat + 3) / 4

/-- Tb of an MMC (R160). -/
def mmcTb (f : MmcF) : Nat := (blockSize f.scm f.k.toNat + 3) / 4

/-- The bank, block and drain points of an MMC that starts at an array cycle (R168). -/
def mmcPoints (f : MmcF) (st : Nat) : List (Nat × APoint) :=
  (if f.fold then
    (List.range (f.k.toNat / blockSize f.scm f.k.toNat)).map fun b => (st + (b + 1) * mmcTb f + 8, .block b)
  else [(st + mmcT f + 6, .write)]) ++ if f.drn then [(st + mmcT f + 12, .drain)] else []

/-- The last perform point of an MMC that starts at an array cycle. -/
def mmcLast (f : MmcF) (st : Nat) : Nat := st + mmcT f + if f.drn then 12 else if f.fold then 8 else 6

/-- The checks of an MMC (R291). -/
def State.mmcCheck (s : State) (f : MmcF) (a b : VOp) : Verdict :=
  ((s.leaseCheck (mmcLast f s.arr.streamStart)).andThen
    (s.descCheck (operDesc (s.readV f.fa a)) f.k.toNat (sliceLen (dim f.m) 4))).andThen
  ((s.descCheck (operDesc (s.readV f.fa b)) f.k.toNat (sliceLen (dim f.n) 4)).andThen
    (s.scaleCheck f.scm (blocksOf f.scm f.k.toNat)))

/-- An MMC accepted. -/
def State.mmc (s : State) (d : BitVec 4) (f : MmcF) (a b : VOp) : State :=
  s.addStream (mmcT f) (blocksOf f.scm f.k.toNat)
    (fun ga gb => .mmc d f (operDesc (s.readV f.fa a)) (operDesc (s.readV f.fa b)) ga gb)
    fun st => slicePoints st f.k.toNat 4 ++ mmcPoints f st

/-- An MMC in issue. -/
def mmcOp (i : Instr) (d : BitVec 4) (f : MmcF) (a b : VOp) (s : State) : Result :=
  issueSlot i (fun s => s.mmcCheck f a b) (fun s => s.mmc d f a b) s

/-- The static fields of a native MMC (R159). -/
def nativeMmc (f : Fmt) (bank : Bool) : MmcF := ⟨f, .rne, bank, 32, .b32, false, 0, false, false, 0, 0⟩

/-- MMC.E2M1.CB0 (R159). -/
def execMmcE2m1Cb0 (d : BitVec 4) (a b : VOp) (s : State) : Result :=
  mmcOp (.mmcE2m1Cb0 d a b) d (nativeMmc .e2m1 false) a b s

/-- MMC.E2M1.CB1 (R159). -/
def execMmcE2m1Cb1 (d : BitVec 4) (a b : VOp) (s : State) : Result :=
  mmcOp (.mmcE2m1Cb1 d a b) d (nativeMmc .e2m1 true) a b s

/-- MMC.E3M0.CB0 (R159). -/
def execMmcE3m0Cb0 (d : BitVec 4) (a b : VOp) (s : State) : Result :=
  mmcOp (.mmcE3m0Cb0 d a b) d (nativeMmc .e3m0 false) a b s

/-- MMC.E3M0.CB1 (R159). -/
def execMmcE3m0Cb1 (d : BitVec 4) (a b : VOp) (s : State) : Result :=
  mmcOp (.mmcE3m0Cb1 d a b) d (nativeMmc .e3m0 true) a b s

/-- MMC.INT4.CB0 (R159). -/
def execMmcInt4Cb0 (d : BitVec 4) (a b : VOp) (s : State) : Result :=
  mmcOp (.mmcInt4Cb0 d a b) d (nativeMmc .int4 false) a b s

/-- MMC.INT4.CB1 (R159). -/
def execMmcInt4Cb1 (d : BitVec 4) (a b : VOp) (s : State) : Result :=
  mmcOp (.mmcInt4Cb1 d a b) d (nativeMmc .int4 true) a b s

/-- MMC.W (R159). -/
def execMmcW (d : BitVec 4) (a b : VOp) (f : MmcF) (s : State) : Result := mmcOp (.mmcW d a b f) d f a b s

/-! ### Cell-queue commands (R162 to R168) -/

/-- A cell command in issue: its occupancy and its one perform point, by offset from its start. -/
def cellOp (i : Instr) (occ off : Nat) (cmd : State → ACmd) (s : State) : Result :=
  issueSlot i (fun s => s.leaseCheck (s.arr.cellStart + off)) (fun s => s.addCell occ (cmd s) [(off, .write)]) s

/-- EBASE of a native CFOLD: src(A)[8:0] (R162). -/
def State.ebaseOf (s : State) (a : SOp) : BitVec 9 := (s.readS a).extractLsb' 0 9

/-- CFOLD.CB0 (R163). -/
def execCfoldCb0 (a : SOp) (s : State) : Result := cellOp (.cfoldCb0 a) 2 2 (fun s => .cfold false (s.ebaseOf a)) s

/-- CFOLD.CB1 (R163). -/
def execCfoldCb1 (a : SOp) (s : State) : Result := cellOp (.cfoldCb1 a) 2 2 (fun s => .cfold true (s.ebaseOf a)) s

/-- CFOLD.W (R163). -/
def execCfoldW (bank : Bool) (ebase : BitVec 9) (s : State) : Result :=
  cellOp (.cfoldW bank ebase) 2 2 (fun _ => .cfold bank ebase) s

/-- CMERGE.CB0: cb1 into cb0 (R164). -/
def execCmergeCb0 (s : State) : Result := cellOp .cmergeCb0 2 2 (fun _ => .cmerge false) s

/-- CMERGE.CB1: cb0 into cb1 (R164). -/
def execCmergeCb1 (s : State) : Result := cellOp .cmergeCb1 2 2 (fun _ => .cmerge true) s

/-- CCLR (R165). -/
def execCclr (s : State) : Result := cellOp .cclr 1 1 (fun _ => .cclr) s

/-- ACLR (R165). -/
def execAclr (d : BitVec 4) (s : State) : Result := cellOp (.aclr d) 1 1 (fun _ => .aclr d) s

/-- CDRAIN.mode (R166). -/
def execCdrain (m : Rm) (d : BitVec 4) (s : State) : Result := cellOp (.cdrain m d) 2 4 (fun _ => .cdrain d m false) s

/-- CDRAIN.ADD.mode (R166). -/
def execCdrainAdd (m : Rm) (d : BitVec 4) (s : State) : Result :=
  cellOp (.cdrainAdd m d) 2 4 (fun _ => .cdrain d m true) s

/-- CDRAIN.W (R166). -/
def execCdrainW (m : Rm) (d : BitVec 4) (acc : Bool) (s : State) : Result :=
  cellOp (.cdrainW m d acc) 2 4 (fun _ => .cdrain d m acc) s

/-- The occupancy of a CSAVE or CLOAD (R168). -/
def imgCycles : Img → Nat
  | .fold => 256
  | _ => 512

/-- The address checks of CSAVE and CLOAD (R167). -/
def State.imageCheck (s : State) (w : Img) (a : Word) (wr : Bool) : Verdict :=
  if a.toNat % 64 ≠ 0 then s.faultAcc wr cALIGN a
  else match outsideSpad a.toNat (imgSize w) with
    | some x => s.faultAcc wr cVIEW_RANGE (BitVec.ofNat 64 x)
    | none => .go

/-- A CSAVE or CLOAD in issue: one read point, one write point (R168). -/
def imageOp (i : Instr) (w : Img) (a : SOp) (wr : Bool) (cmd : Bool → Nat → ACmd) (s : State) : Result :=
  issueSlot i
    (fun s => (s.leaseCheck (s.arr.cellStart + imgCycles w + 1)).andThen (s.imageCheck w (s.readS a) wr))
    (fun s =>
      let v := spadView (s.readS a).toNat
      s.addCell (imgCycles w) (cmd v.1 v.2) [(1, .read), (imgCycles w + 1, .write)]) s

/-- CSAVE (R167). -/
def execCsave (w : Img) (a : SOp) (s : State) : Result := imageOp (.csave w a) w a true (.csave w) s

/-- CLOAD (R167). -/
def execCload (w : Img) (a : SOp) (s : State) : Result := imageOp (.cload w a) w a false (.cload w) s

/-! ### Scale loads (R34, R35, R156) -/

/-- Scales decoded from a stream: position and half of the next code, running scale; the fault and its offset. -/
def decodeScales (rd : Nat → Except (BitVec 8 × Nat) Nat) :
    Nat → Nat → Bool → Nat → Except (BitVec 8 × Nat) (List Nat)
  | 0, _, _, _ => .ok []
  | n + 1, pos, hi, run =>
    match rd pos with
    | .error e => .error e
    | .ok b =>
      let code := if hi then b / 16 else b % 16
      if code = 8 then
        match rd (pos + 1) with
        | .error e => .error e
        | .ok v =>
          if v = 255 then .error (cSCALE_STREAM, pos + 1)
          else match decodeScales rd n (pos + 2) false v with
            | .error e => .error e
            | .ok r => .ok (v :: r)
      else
        let v : Int := run + signedOf 4 code
        if v < 0 ∨ v > 254 then .error (cSCALE_STREAM, pos)
        else match decodeScales rd n (if hi then pos + 1 else pos) (!hi) v.toNat with
          | .error e => .error e
          | .ok r => .ok (v.toNat :: r)

/-- The offset behind the last byte that the decoder reads for n codes (R34, R35). -/
def scaleEnd (rd : Nat → Nat) : Nat → Nat → Bool → Nat
  | 0, pos, hi => if hi then pos + 1 else pos
  | n + 1, pos, hi =>
    if (if hi then rd pos / 16 else rd pos % 16) = 8 then scaleEnd rd n (pos + 2) false
    else scaleEnd rd n (if hi then pos + 1 else pos) (!hi)

/-- Scales cut into groups of 128. -/
def scaleGroups (at_ : Nat) (scm : Scm) : Nat → List Nat → List ScaleGroup
  | 0, _ => []
  | n + 1, xs => ⟨at_, scm, xs.take 128⟩ :: scaleGroups at_ scm n (xs.drop 128)

/-- The 128 n scales of the stream at an address, read through the view it starts in. -/
def State.scaleStream (s : State) (a : Word) (n run : Nat) : Except (BitVec 8 × Nat) (List Nat) :=
  if (outsideSpad a.toNat 1).isSome then .error (cVIEW_RANGE, 0)
  else
    let v := spadView a.toNat
    let bytes := (s.scaleBytes s.curId v.1 v.2 (min (256 * n + 1) (0x300000 - v.2))).toArray
    decodeScales (fun k =>
      if v.2 + k ≥ 0x300000 then .error (cVIEW_RANGE, k)
      else if s.spadBad s.curId (linOf v.1 (v.2 + k)) 1 then .error (cECC, k)
      else .ok (bytes.getD k 0).toNat) (128 * n) 0 false run

/-- The granules, by linear offset, that the stream of an SLD of n groups lies in (R156, R197). -/
def State.scaleGrans (s : State) (a n : Word) : List Nat :=
  let v := spadView a.toNat
  let bytes := (s.scaleBytes s.curId v.1 v.2 (min (256 * n.toNat + 1) (0x300000 - v.2))).toArray
  let e := v.2 + scaleEnd (fun k => (bytes.getD k 0).toNat) (128 * n.toNat) 0 false
  if n = 0 ∨ (outsideSpad a.toNat 1).isSome then []
  else (List.range ((e + 63) / 64 - v.2 / 64)).map fun k => linOf v.1 (64 * (v.2 / 64 + k)) / 64

/-- The running scale an SLD starts from. -/
def State.scaleStart (s : State) (q restart : Bool) : Nat := if restart then 127 else if q then s.arr.runB else s.arr.runA

/-- The groups of a scale queue. -/
def MatArray.scales (m : MatArray) (q : Bool) : List ScaleGroup := if q then m.sb else m.sa

/-- The checks of an SLD of n groups (R146, R156; assumption 18). -/
def State.sldCheck (s : State) (q restart : Bool) (a n : Word) : Verdict :=
  (s.leaseCheck s.arr.age).andThen
    (if n = 0 then .go
    else if n.toNat > 16 ∨ n.toNat + (s.arr.scales q).length > 16 then s.faultPc cSCALE_STREAM
    else match s.scaleStream a n.toNat (s.scaleStart q restart) with
      | .error (c, k) => s.faultAt c (a + BitVec.ofNat 64 k)
      | .ok _ => .go)

/-- An SLD accepted: its groups can be claimed 4 + n array cycles later (R156). It decodes the bytes that its check decoded, so
that an error has been found there. -/
def State.sld (s : State) (q restart : Bool) (scm : Scm) (a n : Word) : State :=
  if n = 0 then s
  else match s.scaleStream a n.toNat (s.scaleStart q restart) with
    | .error _ => s
    | .ok xs =>
      s.modArr s.curCluster fun m =>
        let g := scaleGroups (m.age + 4 + n.toNat) scm n.toNat xs
        let last := xs.getLastD 127
        if q then { m.counted with sb := m.sb ++ g, runB := last }
        else { m.counted with sa := m.sa ++ g, runA := last }

/-- SLD.A (R156). -/
def execSldA (a b : SOp) (s : State) : Result :=
  issueSlot (.sldA a b) (fun s => s.sldCheck false true (s.readS a) (s.readS b))
    (fun s => s.sld false true .b32 (s.readS a) (s.readS b)) s

/-- SLD.B (R156). -/
def execSldB (a b : SOp) (s : State) : Result :=
  issueSlot (.sldB a b) (fun s => s.sldCheck true true (s.readS a) (s.readS b))
    (fun s => s.sld true true .b32 (s.readS a) (s.readS b)) s

/-- SLD.W (R156). -/
def execSldW (q restart : Bool) (scm : Scm) (a b : SOp) (s : State) : Result :=
  issueSlot (.sldW q restart scm a b) (fun s => s.sldCheck q restart (s.readS a) (s.readS b))
    (fun s => s.sld q restart scm (s.readS a) (s.readS b)) s

/-! ### Layout registers (R216, R217) -/

/-- LYSET (R217): seen by bundles issued three issue cycles later. -/
def execLyset (d : BitVec 3) (a : SOp) (s : State) : Result :=
  issueSlot (.lyset d a) noCheck (fun s => s.push (s.now + 3) (.layout d (s.readS a))) s

/-- LYSET.W (R217). -/
def execLysetW (d : BitVec 3) (imm : Word) (s : State) : Result :=
  issueSlot (.lysetW d imm) noCheck (fun s => s.push (s.now + 3) (.layout d imm)) s

/-! ### Events of the array -/

/-- PERFORM_POINT (R140, R141, R168): a cycle of an array that runs on without its holder's issue. The points of one that runs
with its holder's issue cycles perform with the bundle of their cycle, in the holder's turn (State.tileTurn). -/
def execPerformPoint (c : BitVec 9) (s : State) : Result :=
  .next (
    let k := c.toNat
    let m := (s.cluster k).arr
    match m.holder with
    | none => s
    | some h =>
      let t := 4 * k + h.toNat
      let a := Agent.tile (BitVec.ofNat 11 t)
      if !m.free then s
      else if (s.tile t).run = .ended ∧ !(s.tile t).th.late then s.drainCycle t
      else (((s.landPoints a).modArr k fun m => { m with age := m.age + 1 }).performDue k).endRun k)

/-- The tiles of a cluster that wait for its lease. -/
def State.leaseWaiters (s : State) (c : Nat) : List Nat :=
  (List.range 4).filter fun k => (s.tile (4 * c + k)).lease == some false && (s.tile (4 * c + k)).run == .running

/-- The waiting tile whose number follows the last holder's, counting upward modulo 4 (R144). -/
def nextHolder (last : BitVec 2) (waiters : List Nat) : Option Nat :=
  ([1, 2, 3, 4].map fun d => (last.toNat + d) % 4).find? fun k => waiters.contains k

/-- The array at a grant: every cell, queue and running scale cleared (R143). -/
def MatArray.grantTo (m : MatArray) (h : BitVec 2) : MatArray :=
  { MatArray.reset with holder := some h, last := m.last }

/-- LEASE_GRANT (R143, R144). -/
def execLeaseGrant (c : BitVec 9) (s : State) : Result :=
  .next (
    let k := c.toNat
    match (s.cluster k).arr.holder, nextHolder (s.cluster k).arr.last (s.leaseWaiters k) with
    | none, some h =>
      (s.modArr k fun m => m.grantTo (BitVec.ofNat 2 h)).modTile (4 * k + h) fun x => { x with lease := some true }
    | _, _ => s)

/-- RUN_END (R145). -/
def execRunEnd (c : BitVec 9) (s : State) : Result := .next (s.endRun c.toNat)

/-- ARRAY_PARITY_ERROR (R148, R394): the holder's context is killed, the array cleared, the run over. -/
def execArrayParityError (c : BitVec 9) (s : State) : Result :=
  .next (
    let k := c.toNat
    match (s.cluster k).arr.holder with
    | none => s
    | some h =>
      let s := s.killByEngine (4 * k + h.toNat) 2 0 cECC
      (s.modArr k fun _ => { MatArray.reset with last := h }).clusterError k 1)

/-- COUNT_EVENT_TRAP (R168): at the boundary before its next bundle, with what is due landed, the holder takes a pending
count-mode event. While a late answer or a DLOAD stalls the tile it has not reached that boundary (R70, R174). -/
def execCountEventTrap (t : BitVec 11) (s : State) : Result :=
  .next (
    let x := s.tile t.toNat
    if x.run = .running ∧ x.fill = none ∧ !x.th.late then
      let u := (s.atBoundary (.tile t)).land (.tile t)
      let x := u.tile t.toNat
      match x.lateTrap with
      | some (f, y) =>
        if x.run = .running then
          { u.setTile t.toNat y with iss := { Issue.reset with agent := .tile t } }.takeTrap x.th.bank.pc f
        else u
      | none => s
    else s)

end Sys2Proof.Machine
end

