-- ==== Sys2Proof/Machine/MemoryOps.lean ====
section
/-! DEFINITION. Scalar loads, stores and atomics, FENCE and VJOIN, and the events that answer loads and apply posted writes (R199, R208 to R213, R269 to R275). -/

namespace Sys2Proof.Machine

/-- src(A) + i7 x size (R208). -/
def State.elemAddr (s : State) (a : SOp) (i : BitVec 7) (size : Nat) : Word :=
  s.readS a + i.signExtend 64 * BitVec.ofNat 64 size

/-- A load (R208). -/
def loadOp (i : Instr) (n : Bool) (d : SDst) (size : Nat) (signed : Bool) (addr : State → Word) (s : State) : Result :=
  issueSlot i (fun s => s.accessCheck (addr s) size rRD false) (fun s => s.load n d (addr s) size signed) s

/-- A store (R208). -/
def storeOp (i : Instr) (size : Nat) (addr v : State → Word) (s : State) : Result :=
  issueSlot i (fun s => s.accessCheck (addr s) size rW true) (fun s => s.store (addr s) size (v s)) s

/-- An atomic at address src(A) with operand src(B) and expected value s[D] (R210, R213). -/
def atomicOp (i : Instr) (n : Bool) (d : BitVec 5) (op : AOp) (size : Nat) (a b : SOp) (s : State) : Result :=
  issueSlot i (fun s => s.accessCheck (s.readS a) size (rRD + rW) true)
    (fun s => s.atomic n (.reg d) op size (s.readS a) (s.readS b) (s.thread.getS d)) s

/-- LD.B (R208). -/
def execLdB (n : Bool) (d : BitVec 5) (a : SOp) (i : BitVec 7) (s : State) : Result :=
  loadOp (.ldB n d a i) n (.reg d) 1 true (fun s => s.elemAddr a i 1) s

/-- LD.BU (R208). -/
def execLdBu (n : Bool) (d : BitVec 5) (a : SOp) (i : BitVec 7) (s : State) : Result :=
  loadOp (.ldBu n d a i) n (.reg d) 1 false (fun s => s.elemAddr a i 1) s

/-- LD.H (R208). -/
def execLdH (n : Bool) (d : BitVec 5) (a : SOp) (i : BitVec 7) (s : State) : Result :=
  loadOp (.ldH n d a i) n (.reg d) 2 true (fun s => s.elemAddr a i 2) s

/-- LD.HU (R208). -/
def execLdHu (n : Bool) (d : BitVec 5) (a : SOp) (i : BitVec 7) (s : State) : Result :=
  loadOp (.ldHu n d a i) n (.reg d) 2 false (fun s => s.elemAddr a i 2) s

/-- LD.W (R208). -/
def execLdW (n : Bool) (d : BitVec 5) (a : SOp) (i : BitVec 7) (s : State) : Result :=
  loadOp (.ldW n d a i) n (.reg d) 4 true (fun s => s.elemAddr a i 4) s

/-- LD.WU (R208). -/
def execLdWu (n : Bool) (d : BitVec 5) (a : SOp) (i : BitVec 7) (s : State) : Result :=
  loadOp (.ldWu n d a i) n (.reg d) 4 false (fun s => s.elemAddr a i 4) s

/-- LD.D (R208). -/
def execLdD (n : Bool) (d : BitVec 5) (a : SOp) (i : BitVec 7) (s : State) : Result :=
  loadOp (.ldD n d a i) n (.reg d) 8 false (fun s => s.elemAddr a i 8) s

/-- ST.B (R208): s[D] read at issue. -/
def execStB (d : BitVec 5) (a : SOp) (i : BitVec 7) (s : State) : Result :=
  storeOp (.stB d a i) 1 (fun s => s.elemAddr a i 1) (fun s => s.thread.getS d) s

/-- ST.H (R208): s[D] read at issue. -/
def execStH (d : BitVec 5) (a : SOp) (i : BitVec 7) (s : State) : Result :=
  storeOp (.stH d a i) 2 (fun s => s.elemAddr a i 2) (fun s => s.thread.getS d) s

/-- ST.W (R208): s[D] read at issue. -/
def execStW (d : BitVec 5) (a : SOp) (i : BitVec 7) (s : State) : Result :=
  storeOp (.stW d a i) 4 (fun s => s.elemAddr a i 4) (fun s => s.thread.getS d) s

/-- ST.D (R208): s[D] read at issue. -/
def execStD (d : BitVec 5) (a : SOp) (i : BitVec 7) (s : State) : Result :=
  storeOp (.stD d a i) 8 (fun s => s.elemAddr a i 8) (fun s => s.thread.getS d) s

/-- AADD.W (R210). -/
def execAaddW (n : Bool) (d : BitVec 5) (a b : SOp) (s : State) : Result :=
  atomicOp (.aaddW n d a b) n d .add 4 a b s

/-- AADD.D (R210). -/
def execAaddD (n : Bool) (d : BitVec 5) (a b : SOp) (s : State) : Result :=
  atomicOp (.aaddD n d a b) n d .add 8 a b s

/-- AMIN.W (R210). -/
def execAminW (n : Bool) (d : BitVec 5) (a b : SOp) (s : State) : Result :=
  atomicOp (.aminW n d a b) n d .min 4 a b s

/-- AMIN.D (R210). -/
def execAminD (n : Bool) (d : BitVec 5) (a b : SOp) (s : State) : Result :=
  atomicOp (.aminD n d a b) n d .min 8 a b s

/-- AMAX.W (R210). -/
def execAmaxW (n : Bool) (d : BitVec 5) (a b : SOp) (s : State) : Result :=
  atomicOp (.amaxW n d a b) n d .max 4 a b s

/-- AMAX.D (R210). -/
def execAmaxD (n : Bool) (d : BitVec 5) (a b : SOp) (s : State) : Result :=
  atomicOp (.amaxD n d a b) n d .max 8 a b s

/-- AXCHG.W (R210). -/
def execAxchgW (n : Bool) (d : BitVec 5) (a b : SOp) (s : State) : Result :=
  atomicOp (.axchgW n d a b) n d .xchg 4 a b s

/-- AXCHG.D (R210). -/
def execAxchgD (n : Bool) (d : BitVec 5) (a b : SOp) (s : State) : Result :=
  atomicOp (.axchgD n d a b) n d .xchg 8 a b s

/-- ACAS.W (R210). -/
def execAcasW (n : Bool) (d : BitVec 5) (a b : SOp) (s : State) : Result :=
  atomicOp (.acasW n d a b) n d .cas 4 a b s

/-- ACAS.D (R210). -/
def execAcasD (n : Bool) (d : BitVec 5) (a b : SOp) (s : State) : Result :=
  atomicOp (.acasD n d a b) n d .cas 8 a b s

/-- AFADD.W (R210). -/
def execAfaddW (n : Bool) (d : BitVec 5) (a b : SOp) (s : State) : Result :=
  atomicOp (.afaddW n d a b) n d .fadd 4 a b s

/-- The bytes of an access size (R80). -/
def sizeBytes : Size → Nat
  | .b => 1
  | .h => 2
  | .w => 4
  | .d => 8

/-- LDX (R208). -/
def execLdx (n : Bool) (d : SDst) (a : SOp) (sz : Size) (sx : Bool) (imm : BitVec 32) (s : State) : Result :=
  loadOp (.ldx n d a sz sx imm) n d (sizeBytes sz) sx (fun s => s.readS a + imm.signExtend 64) s

/-- STX (R208): the data is the scalar F0 reads. -/
def execStx (d : SOp) (a : SOp) (sz : Size) (imm : BitVec 32) (s : State) : Result :=
  storeOp (.stx d a sz imm) (sizeBytes sz) (fun s => s.readS a + imm.signExtend 64) (fun s => s.readS d) s

/-- Whether a FENCE has nothing left to wait for: with SS or SL every earlier store of a scope up to X has performed,
with LL every earlier load, one that took the bytes of a posted store with that store (R270, R275; assumption 20). -/
def State.fenceDone (s : State) (x : Scope) (k : BitVec 4) : Bool :=
  let t := s.thread
  (!(k.getLsbD 3 || k.getLsbD 2) || t.posts.all fun p => decide (x.num < p.scope.num)) &&
    (!k.getLsbD 1 || (t.unperformed.all fun l => decide (x.num < (scopeOf s.iss.agent l.pa).num)) &&
      t.posts.all fun p => p.took.isNone || decide (x.num < p.scope.num))

/-- FENCE (R275). -/
def execFence (c : Scope) (k : BitVec 4) (s : State) : Result :=
  issueSlot (.fence c k) (fun s => if s.fenceDone c k then .go else .wait none) (fun s => s) s

/-- VJOIN (R198, R199): both views agree on every write performed so far; 3 stall cycles after the bundle. -/
def execVjoin (s : State) : Result :=
  issueSlot .vjoin noCheck (fun s => s.joinViews.modIss fun k => { k with cost := k.cost + 3 }) s

/-! ### Answers and atomic units -/

/-- A load's answer comes: it performs at the unit, or takes its bytes from its tile's own posted store (R209, R270). R270
lets a load return a store's value early and R274 orders the load after the store; when such a load performs they do not say.
The model counts it as performed together with the store, so that no later store and no load behind a FENCE performs before
the store does (assumption 20). -/
def State.answerLoad (s : State) (a : Agent) (l : Load) (fwd : Bool) : State :=
  let t := s.threadOf a
  if fwd then
    match t.forward l with
    | some (q, bs) => s.modThreadOf a fun t => (t.take q.id l.id).answer l (extend l.signed l.size (leNat bs))
    | none => s
  else if t.mayLoad l then
    if s.hbmBad l.pa l.size && !s.lineHeld a l then s.loadDamage a l
    else (s.cacheLine a l).modThreadOf a fun t => t.answer l (extend l.signed l.size (readLe s.hbm l.pa l.size))
  else s

/-- NOMINAL_ANSWER_ARRIVAL (R69, R209, R211): the answer of an outstanding load or atomic comes; of one that has performed
it brings the value found. -/
def execNominalAnswerArrival (a : Agent) (k : Nat) (fwd : Bool) (s : State) : Result :=
  .next (match (s.threadOf a).findLoad k with
    | none => s
    | some l =>
      match l.value with
      | some v => s.modThreadOf a fun t => t.answer l v
      | none => if l.atomic then s else s.answerLoad a l fwd)

/-- ATOMIC_UNIT_APPLY (R207, R211, R269, R274): a posted store or atomic performs. -/
def execAtomicUnitApply (a : Agent) (k : Nat) (s : State) : Result :=
  .next (match (s.threadOf a).posts.find? fun p => p.id == k with
    | none => s
    | some p => if (s.threadOf a).mayApply p then s.performPost a p else s)

/-- RESULT_LANDING (R66, R67, R69): what is due for the agent's next bundle lands, unless a late answer stalls it. -/
def execResultLanding (a : Agent) (s : State) : Result := .next (s.landDue a)

end Sys2Proof.Machine
end

