-- ==== Sys2Proof/Machine/ScalarFloat.lean ====
section
/-! DEFINITION. Scalar float and predicate instructions (R88 to R93). -/

namespace Sys2Proof.Machine

/-- A scalar float instruction: FP_INVALID at issue for an invalid operation under IVM = 0, else the result with its
flags (R28 to R30, R88). -/
def floatOp (i : Instr) (lat : Nat) (n : Bool) (d : SDst) (r : State → Nat × Flags) (s : State) : Result :=
  issueSlot i (fun s => s.fpCheck (r s).2) (fun s => s.dstFS lat n d (r s)) s

/-- A float comparison (R91). -/
def compareOp (i : Instr) (n : Bool) (p : BitVec 3) (r : State → Bool × Flags) (s : State) : Result :=
  issueSlot i (fun s => s.fpCheck (r s).2) (fun s => s.dstFP 2 n p (r s)) s

/-- A predicate instruction (R93). -/
def predOp (i : Instr) (n : Bool) (p : BitVec 3) (b : State → Bool) (s : State) : Result :=
  issueSlot i noCheck (fun s => s.dstP 1 n p (b s)) s

/-- The format a native FCVT field names (R75). -/
def fmtOf : NFmt → Fmt
  | .fp32 => .fp32
  | .bf16 => .bf16
  | .fp16 => .fp16
  | .int32 => .int32
  | .int64 => .int64

/-- A scalar conversion: a floating-point or UINT8 result zero-extended, any other sign-extended (R92). -/
def scalarCvt (fa fd : Fmt) (m : Rm) (x : Nat) : Nat × Flags :=
  let r := cvt fa fd m x
  (if fd.isFloat || fd == .uint8 then r.1 else wrapTo 64 (signedOf fd.width r.1), r.2)

/-- FADD (R89). -/
def execFadd (m : Rm) (n : Bool) (d : BitVec 5) (a b : SOp) (s : State) : Result :=
  floatOp (.fadd m n d a b) 4 n (.reg d) (fun s => fAdd .fp32 m (s.readF .fp32 a) (s.readF .fp32 b)) s

/-- FSUB (R89). -/
def execFsub (m : Rm) (n : Bool) (d : BitVec 5) (a b : SOp) (s : State) : Result :=
  floatOp (.fsub m n d a b) 4 n (.reg d) (fun s => fSub .fp32 m (s.readF .fp32 a) (s.readF .fp32 b)) s

/-- FMUL (R89). -/
def execFmul (m : Rm) (n : Bool) (d : BitVec 5) (a b : SOp) (s : State) : Result :=
  floatOp (.fmul m n d a b) 4 n (.reg d) (fun s => fMul .fp32 m (s.readF .fp32 a) (s.readF .fp32 b)) s

/-- FFMA (R89): A x B + s[D], one rounding. -/
def execFfma (m : Rm) (n : Bool) (d : BitVec 5) (a b : SOp) (s : State) : Result :=
  floatOp (.ffma m n d a b) 4 n (.reg d)
    (fun s => fFma .fp32 m (s.readF .fp32 a) (s.readF .fp32 b) (s.readF .fp32 (.reg d))) s

/-- FCVT (R92). -/
def execFcvt (m : Rm) (n : Bool) (d : BitVec 5) (a : SOp) (t f : NFmt) (s : State) : Result :=
  floatOp (.fcvt m n d a t f) 3 n (.reg d) (fun s => scalarCvt (fmtOf f) (fmtOf t) m (s.readF (fmtOf f) a)) s

/-- FMIN (R90). -/
def execFmin (n : Bool) (d : BitVec 5) (a b : SOp) (s : State) : Result :=
  floatOp (.fmin n d a b) 1 n (.reg d) (fun s => fMinMax false .fp32 (s.readF .fp32 a) (s.readF .fp32 b)) s

/-- FMAX (R90). -/
def execFmax (n : Bool) (d : BitVec 5) (a b : SOp) (s : State) : Result :=
  floatOp (.fmax n d a b) 1 n (.reg d) (fun s => fMinMax true .fp32 (s.readF .fp32 a) (s.readF .fp32 b)) s

/-- FCMP.EQ (R91). -/
def execFcmpEq (n : Bool) (p : BitVec 3) (a b : SOp) (s : State) : Result :=
  compareOp (.fcmpEq n p a b) n p (fun s => fCmp .eq .fp32 (s.readF .fp32 a) (s.readF .fp32 b)) s

/-- FCMP.LT (R91). -/
def execFcmpLt (n : Bool) (p : BitVec 3) (a b : SOp) (s : State) : Result :=
  compareOp (.fcmpLt n p a b) n p (fun s => fCmp .lt .fp32 (s.readF .fp32 a) (s.readF .fp32 b)) s

/-- FCMP.LE (R91). -/
def execFcmpLe (n : Bool) (p : BitVec 3) (a b : SOp) (s : State) : Result :=
  compareOp (.fcmpLe n p a b) n p (fun s => fCmp .le .fp32 (s.readF .fp32 a) (s.readF .fp32 b)) s

/-- FCMP.UN (R91). -/
def execFcmpUn (n : Bool) (p : BitVec 3) (a b : SOp) (s : State) : Result :=
  compareOp (.fcmpUn n p a b) n p (fun s => fCmp .un .fp32 (s.readF .fp32 a) (s.readF .fp32 b)) s

/-- FCVT.W (R92). -/
def execFcvtW (m : Rm) (n : Bool) (d : SDst) (a : SOp) (fd fa : Fmt) (s : State) : Result :=
  floatOp (.fcvtW m n d a fd fa) 3 n d (fun s => scalarCvt fa fd m (s.readF fa a)) s

/-- FCMP.W (R91). -/
def execFcmpW (n : Bool) (p : BitVec 3) (a b : SOp) (fa : Fmt) (c : Cond) (s : State) : Result :=
  compareOp (.fcmpW n p a b fa c) n p (fun s => fCmp c fa (s.readF fa a) (s.readF fa b)) s

/-- PSET (R93): its operand has no format (R60). -/
def execPset (n : Bool) (p : BitVec 3) (a : SOp) (s : State) : Result :=
  predOp (.pset n p a) n p (fun s => s.readS a != 0) s

/-- PAND (R93). -/
def execPand (n : Bool) (p a b : BitVec 3) (s : State) : Result :=
  predOp (.pand n p a b) n p (fun s => s.thread.getP a && s.thread.getP b) s

/-- POR (R93). -/
def execPor (n : Bool) (p a b : BitVec 3) (s : State) : Result :=
  predOp (.por n p a b) n p (fun s => s.thread.getP a || s.thread.getP b) s

/-- PNOT (R93). -/
def execPnot (n : Bool) (p a : BitVec 3) (s : State) : Result :=
  predOp (.pnot n p a) n p (fun s => !s.thread.getP a) s

end Sys2Proof.Machine
end

