-- ==== Sys2Proof/Machine/Vector.lean ====
section
/-! DEFINITION. Vector row instructions, native and wide (R118 to R138). -/

namespace Sys2Proof.Machine

/-- A vector instruction with flags: FP_INVALID at issue under IVM = 0, else the row and its flags (R121). -/
def rowFlagOp (i : Instr) (lat : Nat) (n : Bool) (d : VOp) (r : State → Row × Flags) (s : State) : Result :=
  issueSlot i (fun s => s.fpCheck (r s).2) (fun s => s.dstFV lat n d (r s)) s

/-- A vector instruction that moves bits alone. -/
def rowOp (i : Instr) (lat : Nat) (n : Bool) (d : VOp) (r : State → Row) (s : State) : Result :=
  issueSlot i noCheck (fun s => s.dstV lat n d (r s)) s

/-- An integer result of an element-wise operation: clamped under SAT, else its low bits (R127). -/
def intResult (f : Fmt) (sat : Bool) (v : Int) : Nat × Flags := (wrapTo f.width (if sat then clampTo f v else v), 0)

/-- VADD of an element (R122, R127). -/
def addElem (f : Fmt) (m : Rm) (sat : Bool) (x y : Nat) : Nat × Flags :=
  if f.isFloat then fAdd f m x y else intResult f sat (ival f x + ival f y)

/-- VSUB of an element. -/
def subElem (f : Fmt) (m : Rm) (sat : Bool) (x y : Nat) : Nat × Flags :=
  if f.isFloat then fSub f m x y else intResult f sat (ival f x - ival f y)

/-- VMUL of an element. -/
def mulElem (f : Fmt) (m : Rm) (sat : Bool) (x y : Nat) : Nat × Flags :=
  if f.isFloat then fMul f m x y else intResult f sat (ival f x * ival f y)

/-- VMAX and VMIN of an element (R90, R127). -/
def pickElem (isMax : Bool) (f : Fmt) (x y : Nat) : Nat × Flags :=
  if f.isFloat then fMinMax isMax f x y
  else
    let a := ival f x
    let b := ival f y
    (wrapTo f.width (if isMax then max a b else min a b), 0)

/-- Two rows combined element by element in a format. -/
def State.zipV (s : State) (f : Fmt) (op : Nat → Nat → Nat × Flags) (a b : VOp) : Row × Flags :=
  zipFlags f.width op (s.readV f a) (s.readV f b)

/-- One row transformed element by element in a format. -/
def State.mapV (s : State) (f : Fmt) (op : Nat → Nat × Flags) (a : VOp) : Row × Flags :=
  mapFlags f.width op (s.readV f a)

/-- VADD (R122). -/
def execVadd (n : Bool) (d : VDn) (a b : VOp) (s : State) : Result :=
  rowFlagOp (.vadd n d a b) 2 n d.op (fun s => s.zipV .fp32 (addElem .fp32 .rne false) a b) s

/-- VSUB (R122). -/
def execVsub (n : Bool) (d : VDn) (a b : VOp) (s : State) : Result :=
  rowFlagOp (.vsub n d a b) 2 n d.op (fun s => s.zipV .fp32 (subElem .fp32 .rne false) a b) s

/-- VMUL (R122). -/
def execVmul (n : Bool) (d : VDn) (a b : VOp) (s : State) : Result :=
  rowFlagOp (.vmul n d a b) 2 n d.op (fun s => s.zipV .fp32 (mulElem .fp32 .rne false) a b) s

/-- VMAX (R122). -/
def execVmax (n : Bool) (d : VDn) (a b : VOp) (s : State) : Result :=
  rowFlagOp (.vmax n d a b) 2 n d.op (fun s => s.zipV .fp32 (pickElem true .fp32) a b) s

/-- VMIN (R122). -/
def execVmin (n : Bool) (d : VDn) (a b : VOp) (s : State) : Result :=
  rowFlagOp (.vmin n d a b) 2 n d.op (fun s => s.zipV .fp32 (pickElem false .fp32) a b) s

/-- VFMA (R122): A x B + D, one rounding. -/
def execVfma (n : Bool) (d : VDn) (a b : VOp) (s : State) : Result :=
  rowFlagOp (.vfma n d a b) 4 n d.op
    (fun s => zipFlags3 32 (fFma .fp32 .rne) (s.readV .fp32 a) (s.readV .fp32 b) (s.readV .fp32 d.op)) s

/-- VABS (R122). -/
def execVabs (n : Bool) (d : VDn) (a : VOp) (s : State) : Result :=
  rowFlagOp (.vabs n d a) 2 n d.op (fun s => s.mapV .fp32 (fSign false) a) s

/-- VNEG (R122). -/
def execVneg (n : Bool) (d : VDn) (a : VOp) (s : State) : Result :=
  rowFlagOp (.vneg n d a) 2 n d.op (fun s => s.mapV .fp32 (fSign true) a) s

/-- VEXP2 (R123). -/
def execVexp2 (n : Bool) (d : VDn) (a : VOp) (s : State) : Result :=
  rowFlagOp (.vexp2 n d a) 6 n d.op (fun s => s.mapV .fp32 (fExp2) a) s

/-- VLOG2 (R123). -/
def execVlog2 (n : Bool) (d : VDn) (a : VOp) (s : State) : Result :=
  rowFlagOp (.vlog2 n d a) 6 n d.op (fun s => s.mapV .fp32 (fLog2) a) s

/-- VRCP (R123). -/
def execVrcp (n : Bool) (d : VDn) (a : VOp) (s : State) : Result :=
  rowFlagOp (.vrcp n d a) 6 n d.op (fun s => s.mapV .fp32 (fRcp) a) s

/-- VRSQ (R123). -/
def execVrsq (n : Bool) (d : VDn) (a : VOp) (s : State) : Result :=
  rowFlagOp (.vrsq n d a) 6 n d.op (fun s => s.mapV .fp32 (fRsq) a) s

/-- A compare of an element: a mask of 32 bits (R124). -/
def maskElem (c : Cond) (x y : Nat) : Nat × Flags :=
  let r := fCmp c .fp32 x y
  (if r.1 then 0xFFFFFFFF else 0, r.2)

/-- VCMP.EQ (R124). -/
def execVcmpEq (n : Bool) (d : VDn) (a b : VOp) (s : State) : Result :=
  rowFlagOp (.vcmpEq n d a b) 2 n d.op (fun s => s.zipV .fp32 (maskElem .eq) a b) s

/-- VCMP.LT (R124). -/
def execVcmpLt (n : Bool) (d : VDn) (a b : VOp) (s : State) : Result :=
  rowFlagOp (.vcmpLt n d a b) 2 n d.op (fun s => s.zipV .fp32 (maskElem .lt) a b) s

/-- VCMP.LE (R124). -/
def execVcmpLe (n : Bool) (d : VDn) (a b : VOp) (s : State) : Result :=
  rowFlagOp (.vcmpLe n d a b) 2 n d.op (fun s => s.zipV .fp32 (maskElem .le) a b) s

/-- VSEL of rows of 32-bit elements under a mask row (R125). -/
def selRow (m a b : Row) : Row :=
  packRow 32 (List.zipWith (fun x (yz : Nat × Nat) => if x = 0 then yz.2 else yz.1) (elems 32 m) ((elems 32 a).zip (elems 32 b)))

/-- VSEL (R125). -/
def execVsel (n : Bool) (d : VDn) (a b : VOp) (s : State) : Result :=
  rowOp (.vsel n d a b) 2 n d.op (fun s => selRow (s.readV .int32 d.op) (s.readV .int32 a) (s.readV .int32 b)) s

/-- VAND (R126). -/
def execVand (n : Bool) (d : VDn) (a b : VOp) (s : State) : Result :=
  rowOp (.vand n d a b) 2 n d.op (fun s => s.readV .int32 a &&& s.readV .int32 b) s

/-- VOR (R126). -/
def execVor (n : Bool) (d : VDn) (a b : VOp) (s : State) : Result :=
  rowOp (.vor n d a b) 2 n d.op (fun s => s.readV .int32 a ||| s.readV .int32 b) s

/-- VXOR (R126). -/
def execVxor (n : Bool) (d : VDn) (a b : VOp) (s : State) : Result :=
  rowOp (.vxor n d a b) 2 n d.op (fun s => s.readV .int32 a ^^^ s.readV .int32 b) s

/-- VSHL (R126). -/
def execVshl (n : Bool) (d : VDn) (a b : VOp) (s : State) : Result :=
  rowOp (.vshl n d a b) 2 n d.op (fun s => zipRow 32 (fun x y => x * 2 ^ (y % 32)) (s.readV .int32 a) (s.readV .int32 b)) s

/-- VSHR (R126). -/
def execVshr (n : Bool) (d : VDn) (a b : VOp) (s : State) : Result :=
  rowOp (.vshr n d a b) 2 n d.op (fun s => zipRow 32 (fun x y => x / 2 ^ (y % 32)) (s.readV .int32 a) (s.readV .int32 b)) s

/-- Neighbouring pairs of a list combined, with their flags. -/
def pairUp (op : Nat → Nat → Nat × Flags) : List Nat → List Nat × Flags
  | x :: y :: r =>
    let z := op x y
    let rest := pairUp op r
    (z.1 :: rest.1, z.2 ||| rest.2)
  | l => (l, 0)

/-- The binary tree of R129: k levels of neighbouring pairs. -/
def treeOf (op : Nat → Nat → Nat × Flags) : Nat → List Nat → List Nat × Flags
  | 0, l => (l, 0)
  | k + 1, l =>
    let a := pairUp op l
    let b := treeOf op k a.1
    (b.1, a.2 ||| b.2)

/-- A row reduced by the tree, the result in every element (R129, R130). -/
def reduceRow (f : Fmt) (op : Nat → Nat → Nat × Flags) (a : Row) : Row × Flags :=
  let r := treeOf op (4096 / f.width).log2 (elems f.width a)
  (fillRow f.width (r.1.headD 0), r.2)

/-- Whether every element of a row is a zero. -/
def zeroRow (f : Fmt) (a : Row) : Bool := (elems f.width a).all fun x => match fval f x with
  | .fin _ m _ => m == 0
  | _ => false

/-- The sum of a row by the tree; a row of zeros sums to +0 in every mode but RDN (R129). -/
def sumRow (f : Fmt) (m : Rm) (a : Row) : Row × Flags :=
  if zeroRow f a && m != .rdn then (0, 0) else reduceRow f (fAdd f m) a

/-- VRSUM (R129). -/
def execVrsum (n : Bool) (d : VDn) (a : VOp) (s : State) : Result :=
  rowFlagOp (.vrsum n d a) 8 n d.op (fun s => sumRow .fp32 .rne (s.readV .fp32 a)) s

/-- VRMAX (R130). -/
def execVrmax (n : Bool) (d : VDn) (a : VOp) (s : State) : Result :=
  rowFlagOp (.vrmax n d a) 6 n d.op (fun s => reduceRow .fp32 (fMinMax true .fp32) (s.readV .fp32 a)) s

/-- VBCAST (R131). -/
def execVbcast (n : Bool) (d : VDn) (a : SOp) (s : State) : Result :=
  rowOp (.vbcast n d a) 2 n d.op (fun s => fillRow 32 (s.readS a).toNat) s

/-- VPERM of a row by a row of indexes (R131). -/
def permRow (a b : Row) : Row := mapRow 32 (fun i => elem 32 a (i % 128)) b

/-- VPERM (R131). -/
def execVperm (n : Bool) (d : VDn) (a b : VOp) (s : State) : Result :=
  rowOp (.vperm n d a b) 3 n d.op (fun s => permRow (s.readV .int32 a) (s.readV .int32 b)) s

/-- VMOVO (R131). -/
def execVmovo (n : Bool) (d : BitVec 3) (a : VOp) (s : State) : Result :=
  rowOp (.vmovo n d a) 2 n (.file d) (fun s => s.readV .int32 a) s

/-! ### Rows and the scratchpad (R132, R133) -/

/-- src(A) + i7 x 512. -/
def State.rowAddr (s : State) (a : SOp) (i : BitVec 7) : Word := s.readS a + i.signExtend 64 * 512

/-- The checks of VLD and VST: both faults report the row's address, as R132 states them (R320 leaves ADDR of VIEW_RANGE to the
raising instruction). A load of damaged bytes kills, with the row's address in the stop record (R134; assumption 29). -/
def State.vldCheck (s : State) (a : Word) (wr : Bool) : Verdict :=
  if a.toNat % 64 ≠ 0 then s.faultAcc wr cALIGN a
  else if (outsideSpad a.toNat 512).isSome then s.faultAcc wr cVIEW_RANGE a
  else
    let v := spadView a.toNat
    checkThat (wr || !(List.range 8).any fun k => s.spadBad s.curId (linOf v.1 (v.2 + 64 * k)) 64) (s.faultAt cECC a)

/-- VLD (R132). -/
def execVld (n : Bool) (d : VDn) (a : SOp) (i : BitVec 7) (s : State) : Result :=
  issueSlot (.vld n d a i) (fun s => s.vldCheck (s.rowAddr a i) false)
    (fun s =>
      let v := spadView (s.rowAddr a i).toNat
      let r := s.readView s.curId v.1 v.2 512
      r.2.dstV 6 n d.op (rowOf r.1)) s

/-- VST (R132). -/
def execVst (d : VDn) (a : SOp) (i : BitVec 7) (s : State) : Result :=
  issueSlot (.vst d a i) (fun s => s.vldCheck (s.rowAddr a i) true)
    (fun s =>
      let v := spadView (s.rowAddr a i).toNat
      s.deferWrite v.1 v.2 (rowBytes (s.readV .int32 d.op))) s

/-- The addresses of VLDS and VSTS, modulo 2^64 (R133). -/
def strideAddrs (base stride : Word) : List Word := (List.range 128).map fun i => base + BitVec.ofNat 64 i * stride

/-- The address checks of VLDS and VSTS, element by element (R133). -/
def State.strideCheck (s : State) (wr : Bool) : List Word → Verdict
  | [] => .go
  | x :: r =>
    if x.toNat % 4 ≠ 0 then s.faultAcc wr cALIGN x
    else if (outsideSpad x.toNat 4).isSome then s.faultAcc wr cVIEW_RANGE x
    else s.strideCheck wr r

/-- The first damaged element that a VLDS reads. -/
def State.strideDamage (s : State) (xs : List Word) : Option Word :=
  xs.find? fun x => s.spadBad s.curId (linOf (spadView x.toNat).1 (spadView x.toNat).2) 4

/-- The checks of VLDS and VSTS: every address, then the bytes that a VLDS reads, with the damaged element's address in the
stop record (R133, R134; assumption 29). -/
def State.vldsCheck (s : State) (wr : Bool) (xs : List Word) : Verdict :=
  (s.strideCheck wr xs).andThen (match if wr then none else s.strideDamage xs with
    | some x => s.faultAt cECC x
    | none => .go)

/-- The elements a VLDS gathers, each granule read once (R197, R198, R271). -/
def State.gather (s : State) : List Word → FMap Granule → List Nat × State
  | [], _ => ([], s)
  | x :: r, got =>
    let v := spadView x.toNat
    let key := 2 * (v.2 / 64) + if v.1 then 1 else 0
    let g : Granule × State := match ffind got key with
      | some g => (g, s)
      | none => s.readGran s.curId v.1 (linOf v.1 v.2 / 64)
    let rest := g.2.gather r (fput got key g.1)
    (g.1.toNat / 2 ^ (8 * (v.2 % 64)) % 2 ^ 32 :: rest.1, rest.2)

/-- VLDS (R133). -/
def execVlds (n : Bool) (d : VDn) (a b : SOp) (s : State) : Result :=
  issueSlot (.vlds n d a b) (fun s => s.vldsCheck false (strideAddrs (s.readS a) (s.readS b)))
    (fun s =>
      let r := s.gather (strideAddrs (s.readS a) (s.readS b)) []
      r.2.dstV 10 n d.op (packRow 32 r.1)) s

/-- VSTS (R133). -/
def execVsts (d : VDn) (a b : SOp) (s : State) : Result :=
  issueSlot (.vsts d a b) (fun s => s.vldsCheck true (strideAddrs (s.readS a) (s.readS b)))
    (fun s =>
      let row := s.readV .int32 d.op
      (strideAddrs (s.readS a) (s.readS b)).zipIdx.foldl (fun s x =>
        let v := spadView x.1.toNat
        s.deferWrite v.1 v.2 (leBytes 4 (elem 32 row x.2))) s) s

/-! ### The accumulator store (R135) -/

/-- The row of the accumulator store that a VMOVA or VMOVT names: 128 x src(A)[3:0] + src(B)[6:0]. -/
def State.accIndex (s : State) (a b : SOp) : Nat := 128 * ((s.readS a).toNat % 16) + (s.readS b).toNat % 128

/-- VMOVA (R135); a damaged row kills, with the bundle's PC in the stop record (R200; assumption 29). -/
def execVmova (n : Bool) (d : VDn) (a b : SOp) (s : State) : Result :=
  issueSlot (.vmova n d a b) (fun s => checkThat (!s.accBad s.curId (s.accIndex a b) 128) (s.faultPc cECC))
    (fun s => s.dstV 4 n d.op (s.cur.accRow (s.accIndex a b))) s

/-- VMOVT (R135): the row D is written two issue cycles later. -/
def execVmovt (d : VDn) (a b : SOp) (s : State) : Result :=
  issueSlot (.vmovt d a b) noCheck
    (fun s => s.push (s.now + 2) (.accRow (s.accIndex a b) (s.readV .int32 d.op))) s

/-! ### The column-select unit (R136 to R138) -/

/-- Whether entry x ranks before an entry y of higher index: a greater value, an equal one, a number before a NaN. -/
def ranksFirst (f : Fmt) (x y : Nat) : Bool :=
  if f.isFloat then
    let a := fval f x
    let b := fval f y
    if b.isNan then true else if a.isNan then false else decide (0 ≤ cmpVal a b)
  else decide (ival f y ≤ ival f x)

/-- An entry put into a ranking of entries of higher index. -/
def rankInsert (f : Fmt) (x : Nat × Nat) : List (Nat × Nat) → List (Nat × Nat)
  | [] => [x]
  | y :: r => if ranksFirst f x.1 y.1 then x :: y :: r else y :: rankInsert f x r

/-- The indexes of a column in rank order. -/
def ranking (f : Fmt) (col : List Nat) : List Nat := (col.zipIdx.foldr (rankInsert f) []).map (·.2)

/-- Columns j of the 32 rows of a register. -/
def columns (w : Nat) (rows : List Row) : List (List Nat) :=
  (List.range (4096 / w)).map fun j => rows.map fun r => elem w r j

/-- The rows CSELK writes: mask rows, then index rows (R137). -/
def cselkOut (f : Fmt) (k : Nat) (rows : List Row) : List Row :=
  let ranks := (columns f.width rows).map (ranking f)
  let w := maskRows f
  let masks := ranks.map fun r => (r.take k).foldl (fun m i => m + 2 ^ i) 0
  (List.range w).map (fun h => packRow 32 ((masks.drop (128 * h)).take 128)) ++
    (List.range (min k (32 - w))).map fun m => packRow f.width (ranks.map fun r => r.getD m 0)

/-- The flags of CSELK: IV for a signalling NaN (R137). -/
def cselkFlags (f : Fmt) (rows : List Row) : Flags :=
  if f.isFloat && rows.any fun r => (elems f.width r).any fun x => (fval f x).isSnan then fIV else 0

/-- The 32 rows of the register A names, from its row on (R136). -/
def State.cselkSource (s : State) : VOp → List Row
  | .row g o _ => (List.range 32).map fun r => s.cur.row (s.cur.rowNo g (o.toNat + r))
  | _ => []

/-- CSELK: all rows land together; the latch takes the first mask row (R137). An operand-file destination of the wide
form takes the first row (assumption 16). -/
def cselkOp (i : Instr) (n : Bool) (d a : VOp) (f : Fmt) (k : State → Nat) (s : State) : Result :=
  issueSlot i (fun s => s.fpCheck (cselkFlags f (s.cselkSource a)))
    (fun s =>
      let rows := s.cselkSource a
      let out := cselkOut f (k s) rows
      let s1 := s.push (s.now + 40) (.latch s.iss.pos (out.headD 0))
      let s2 := if n then s1 else match d with
        | .file v => s1.push (s.now + 41) (.vo v (out.headD 0))
        | _ => ((s.cselkRows d (maskRows f) (k s)).zip out).foldl (fun s x => s.push (s.now + 41) (.trow x.1 x.2)) s1
      s2.pushFlags 40 (cselkFlags f rows)) s

/-- CSELK (R136). -/
def execCselk (n : Bool) (d : VDn) (a : VOp) (b : SOp) (s : State) : Result :=
  cselkOp (.cselk n d a b) n d.op a .fp32 (fun s => s.cselkCount b) s

/-- CSELK.W (R136). -/
def execCselkW (n : Bool) (d : VDst) (a : VOp) (f : Fmt) (k : BitVec 6) (s : State) : Result :=
  cselkOp (.cselkW n d a f k) n d.op a f (fun _ => k.toNat) s

/-! ### Wide forms -/

/-- VADD.W (R122, R127). -/
def execVaddW (m : Rm) (n : Bool) (d : VDst) (a b : VOp) (f : Fmt) (sat : Bool) (s : State) : Result :=
  rowFlagOp (.vaddW m n d a b f sat) 2 n d.op (fun s => s.zipV f (addElem f m sat) a b) s

/-- VSUB.W (R122, R127). -/
def execVsubW (m : Rm) (n : Bool) (d : VDst) (a b : VOp) (f : Fmt) (sat : Bool) (s : State) : Result :=
  rowFlagOp (.vsubW m n d a b f sat) 2 n d.op (fun s => s.zipV f (subElem f m sat) a b) s

/-- VMUL.W (R122, R127). -/
def execVmulW (m : Rm) (n : Bool) (d : VDst) (a b : VOp) (f : Fmt) (sat : Bool) (s : State) : Result :=
  rowFlagOp (.vmulW m n d a b f sat) 2 n d.op (fun s => s.zipV f (mulElem f m sat) a b) s

/-- VFMA.W (R122). -/
def execVfmaW (m : Rm) (n : Bool) (d : VDst) (a b : VOp) (f : Fmt) (s : State) : Result :=
  rowFlagOp (.vfmaW m n d a b f) 4 n d.op
    (fun s => zipFlags3 f.width (fFma f m) (s.readV f a) (s.readV f b) (s.readV f d.op)) s

/-- VMAX.W (R122, R127). -/
def execVmaxW (m : Rm) (n : Bool) (d : VDst) (a b : VOp) (f : Fmt) (s : State) : Result :=
  rowFlagOp (.vmaxW m n d a b f) 2 n d.op (fun s => s.zipV f (pickElem true f) a b) s

/-- VMIN.W (R122, R127). -/
def execVminW (m : Rm) (n : Bool) (d : VDst) (a b : VOp) (f : Fmt) (s : State) : Result :=
  rowFlagOp (.vminW m n d a b f) 2 n d.op (fun s => s.zipV f (pickElem false f) a b) s

/-- VCVT of a row (R128). -/
def vcvtRow (fa fd : Fmt) (m : Rm) (part : Nat) (a : Row) : Row × Flags :=
  let nA := 4096 / fa.width
  let nD := 4096 / fd.width
  let src := elems fa.width a
  if fd.width < fa.width then
    let out := src.map (cvt fa fd m)
    (packRow fd.width (List.replicate (part * nA) 0 ++ out.map (·.1)), orFlags out)
  else packFlags fd.width (((src.drop (part * nD)).take nD).map (cvt fa fd m))

/-- VCVT (R128). -/
def execVcvt (m : Rm) (n : Bool) (d : VDst) (a : VOp) (fd fa : Fmt) (part : BitVec 3) (s : State) : Result :=
  rowFlagOp (.vcvt m n d a fd fa part) 4 n d.op (fun s => vcvtRow fa fd m part.toNat (s.readV fa a)) s

/-- VRSUM.W (R129). -/
def execVrsumW (m : Rm) (n : Bool) (d : VDst) (a : VOp) (f : Fmt) (s : State) : Result :=
  rowFlagOp (.vrsumW m n d a f) 8 n d.op (fun s => sumRow f m (s.readV f a)) s

/-- VRMAX.W (R130). -/
def execVrmaxW (n : Bool) (d : VDst) (a : VOp) (f : Fmt) (s : State) : Result :=
  rowFlagOp (.vrmaxW n d a f) 6 n d.op (fun s => reduceRow f (fMinMax true f) (s.readV f a)) s

end Sys2Proof.Machine
end

