-- ==== Sys2Proof/Machine/Banks.lean ====
section
/-! DEFINITION. The scratchpad banks: the accesses of a bundle and the cycles they need (R195 to R197). -/

namespace Sys2Proof.Machine

/-- The granule of the scratchpad that holds an address, by its linear offset; none for an address outside the views. -/
def spadGran (a : Word) : Option Nat :=
  if (outsideSpad a.toNat 1).isSome then none
  else
    let v := spadView a.toNat
    some (linOf v.1 v.2 / 64)

/-- The granules that a slot accesses at issue: one by a scalar access, eight by a row, each distinct one of a gather or
scatter, those of the stream that an SLD decodes (R134, R156, R197). A DLOAD reads its image within the stall of its own
(R174). -/
def State.accesses (s : State) (i : Instr) : List Nat :=
  let row (a : Word) : List Nat := (List.range 8).filterMap fun k => spadGran (a + BitVec.ofNat 64 (64 * k))
  let each (a b : SOp) : List Nat := ((strideAddrs (s.readS a) (s.readS b)).filterMap spadGran).dedup
  match i with
  | .ldB _ _ a i | .ldBu _ _ a i | .stB _ a i => (spadGran (s.elemAddr a i 1)).toList
  | .ldH _ _ a i | .ldHu _ _ a i | .stH _ a i => (spadGran (s.elemAddr a i 2)).toList
  | .ldW _ _ a i | .ldWu _ _ a i | .stW _ a i => (spadGran (s.elemAddr a i 4)).toList
  | .ldD _ _ a i | .stD _ a i => (spadGran (s.elemAddr a i 8)).toList
  | .ldx _ _ a _ _ imm | .stx _ a _ imm => (spadGran (s.readS a + imm.signExtend 64)).toList
  | .aaddW _ _ a _ | .aaddD _ _ a _ | .aminW _ _ a _ | .aminD _ _ a _ | .amaxW _ _ a _ | .amaxD _ _ a _
  | .axchgW _ _ a _ | .axchgD _ _ a _ | .acasW _ _ a _ | .acasD _ _ a _ | .afaddW _ _ a _ =>
    (spadGran (s.readS a)).toList
  | .vld _ _ a i | .vst _ a i => row (s.rowAddr a i)
  | .vlds _ _ a b | .vsts _ a b => each a b
  | .sldA a b | .sldB a b | .sldW _ _ _ a b => s.scaleGrans (s.readS a) (s.readS b)
  | _ => []

/-- The physical bank of a granule (R195). -/
def bankOf (g : Nat) : Nat := g / 16384 * 16 + g % 16

/-- The most accesses that one bank takes. -/
def bankCycles (gs : List Nat) : Nat :=
  let bs := gs.map bankOf
  bs.foldl (fun m b => max m (bs.count b)) 0

/-- The stall cycles that a bundle's own accesses need before it issues (R70, R197). -/
def State.bankStall (s : State) (is : List Instr) : Nat := bankCycles (is.flatMap s.accesses) - 1

end Sys2Proof.Machine
end

