-- ==== Sys2Proof/Machine/Control.lean ====
section
/-! DEFINITION. Branches, loops, STEP, END, traps, NOP and the header (R63, R65, R94 to R108, R115 to R117, R304). -/

namespace Sys2Proof.Machine

/-- The cost of a taken branch (R96). -/
def branchCost : Nat := 2

/-- The bundle goes on at a PC, with the cost of a taken branch, added to the stall of a VJOIN or DLOAD beside it (R94, R96;
assumption 71). -/
def State.jump (s : State) (pc : Word) : State :=
  s.modIss fun k => { k with control := .jump pc, cost := k.cost + branchCost }

/-- PC + 4 x a signed word offset (R94). -/
def State.offsetPc {w : Nat} (s : State) (i : BitVec w) : Word := s.iss.pc + 4 * i.signExtend 64

/-- NOP (R108). -/
def execNop (s : State) : Result := issueSlot .nop noCheck (fun s => s) s

/-- The header (R51, R63, R65): its pops are marked as every slot's, its stage is read before the slots act. -/
def execHdr (pop : BitVec 4) (stg : BitVec 3) (s : State) : Result :=
  issueSlot (.hdr pop stg) noCheck (fun s => s) s

/-- BR (R94). -/
def execBr (i : BitVec 19) (s : State) : Result := issueSlot (.br i) noCheck (fun s => s.jump (s.offsetPc i)) s

/-- BR.W (R94). -/
def execBrW (imm : BitVec 32) (s : State) : Result :=
  issueSlot (.brW imm) noCheck (fun s => s.jump (s.offsetPc imm)) s

/-- BRP (R94). -/
def execBrp (g : Bool) (p : BitVec 3) (i : BitVec 14) (s : State) : Result :=
  issueSlot (.brp g p i) noCheck (fun s => if s.thread.getP p != g then s.jump (s.offsetPc i) else s) s

/-- BRP.W (R94). -/
def execBrpW (g : Bool) (p : BitVec 3) (imm : BitVec 32) (s : State) : Result :=
  issueSlot (.brpW g p imm) noCheck (fun s => if s.thread.getP p != g then s.jump (s.offsetPc imm) else s) s

/-- JAL (R94): the link is NEXTPC. -/
def execJal (n : Bool) (d : BitVec 5) (i : BitVec 14) (s : State) : Result :=
  issueSlot (.jal n d i) noCheck (fun s => (s.dstS 1 n (.reg d) s.iss.nextPc).jump (s.offsetPc i)) s

/-- JAL.W (R94). -/
def execJalW (n : Bool) (d : SDst) (imm : BitVec 32) (s : State) : Result :=
  issueSlot (.jalW n d imm) noCheck (fun s => (s.dstS 1 n d s.iss.nextPc).jump (s.offsetPc imm)) s

/-- JR (R94, R95). -/
def execJr (a : SOp) (s : State) : Result :=
  issueSlot (.jr a) (fun s => checkThat ((s.readS a).setWidth 2 == 0#2) (s.faultAt cALIGN (s.readS a)))
    (fun s => s.jump (s.readS a)) s

/-! ### Loops (R98 to R102) -/

/-- The checks of LOOP and LOOPP: a skip fetches the end bundle, a push needs a free entry (R99). -/
def State.loopCheck (s : State) (a : SOp) (endPc : Word) : Verdict :=
  if (s.readS a).setWidth 32 = 0#32 then
    match s.pcAfter endPc with
    | .error f => .trap f
    | .ok _ => .go
  else checkThat (decide (s.thread.loops.length < 6)) (s.faultPc cLOOP_STACK)

/-- The thread with a loop entry pushed; a LOOPP saves the stage predicates and starts at stage 0 (R98, R99). -/
def Thread.pushLoop (t : Thread) (start endPc : Word) (count : BitVec 32) (stages : Option (BitVec 3)) : Thread :=
  let k := t.loops.length
  let t := { t with
    loops := ⟨start, endPc, count - 1, stages.isSome, stages.getD 0, t.ps⟩ :: t.loops
    li := vset t.li k 0 }
  if stages.isSome then { t with ps := 1 } else t

/-- LOOP and LOOPP at commit: the body is skipped, or the entry pushed (R99). What such a bundle does where it is the end bundle
of the entry on top R100 does not say: in the model a skip tests no back edge, and after a push the entry tested is the new
one (assumption 96). -/
def State.loopEnter (s : State) (a : SOp) (endPc : Word) (stages : Option (BitVec 3)) : State :=
  let count := (s.readS a).setWidth 32
  if count = 0#32 then
    match s.pcAfter endPc with
    | .error _ => s
    | .ok pc => s.jump pc
  else s.modThread fun t => t.pushLoop s.iss.nextPc endPc count stages

/-- The end PC of a loop slot: PC + 4 x offset, unsigned (R99). -/
def State.loopEndPc {w : Nat} (s : State) (off : BitVec w) : Word := s.iss.pc + 4 * off.setWidth 64

/-- LOOP (R99). -/
def execLoop (a : SOp) (off : BitVec 12) (s : State) : Result :=
  issueSlot (.loop a off) (fun s => s.loopCheck a (s.loopEndPc off)) (fun s => s.loopEnter a (s.loopEndPc off) none) s

/-- LOOPP (R99, R101). -/
def execLoopp (g : BitVec 3) (a : SOp) (off : BitVec 7) (s : State) : Result :=
  issueSlot (.loopp g a off) (fun s => s.loopCheck a (s.loopEndPc off))
    (fun s => s.loopEnter a (s.loopEndPc off) (some g)) s

/-- LOOP.W (R99). -/
def execLoopW (a : SOp) (off : BitVec 16) (s : State) : Result :=
  issueSlot (.loopW a off) (fun s => s.loopCheck a (s.loopEndPc off)) (fun s => s.loopEnter a (s.loopEndPc off) none) s

/-- LOOPP.W (R99, R101). -/
def execLooppW (g : BitVec 3) (a : SOp) (off : BitVec 16) (s : State) : Result :=
  issueSlot (.looppW g a off) (fun s => s.loopCheck a (s.loopEndPc off))
    (fun s => s.loopEnter a (s.loopEndPc off) (some g)) s

/-- The thread with its top loop entry popped, the stage predicates of a LOOPP restored (R102). -/
def Thread.popLoop (t : Thread) : Thread :=
  match t.loops with
  | [] => t
  | e :: r =>
    { t with loops := r, li := vset t.li r.length 0, ps := if e.pipelined then e.saved else t.ps }

/-- The checks of a taken LBRK: an entry to break, and its end bundle to go on after, which is fetched at every one (R102;
assumption 81). -/
def State.lbrkCheck (s : State) (p : BitVec 3) : Verdict :=
  if s.thread.getP p then
    match s.thread.loops with
    | [] => s.faultPc cLOOP_STACK
    | e :: _ =>
      match s.pcAfter e.endPc with
      | .error f => .trap f
      | .ok _ => .go
  else .go

/-- LBRK at commit (R102). -/
def State.lbrk (s : State) (p : BitVec 3) : State :=
  if s.thread.getP p then
    match s.thread.loops with
    | [] => s
    | e :: _ =>
      match s.pcAfter e.endPc with
      | .error _ => s
      | .ok pc => (s.modThread fun t => t.popLoop).jump pc
  else s

/-- LBRK (R102). -/
def execLbrk (p : BitVec 3) (s : State) : Result :=
  issueSlot (.lbrk p) (fun s => s.lbrkCheck p) (fun s => s.lbrk p) s

/-! ### STEP, END, TRAP, TRET -/

/-- A slot of the handle table. -/
def Tile.hslot (x : Tile) (k : Nat) : HSlot := fget HSlot.reset x.handles k

/-- A handle value of a slot with its current generation (R224). -/
def handleValue (k : Nat) (h : HSlot) : Word := BitVec.ofNat 64 (k + 256 * h.gen.toNat)

/-- Whether a slot has an operation whose LOCAL or REMOTE completion has not occurred (R106, R225). -/
def HSlot.inFlight (h : HSlot) : Bool := (h.st == .busy || h.st == .orphan) && !(h.loc && h.rem)

/-- The window value of a WID with V = 1 (R236). -/
def windowValue (wid : Nat) (gen : BitVec 8) : Word := BitVec.ofNat 64 (wid + 256 * gen.toNat + 2 ^ 16)

/-- Whether a tile has a started epoch, an unwaited post or a lock held, requested or refused on a window (R267). -/
def WDir.unquiet (d : WDir) : Bool := d.started.isSome || d.posted || !d.locks.isEmpty

/-- What keeps a tile from a step boundary, the ADDR of STEP_NOT_QUIET: the handle of the lowest-numbered slot in flight, else
the window value of the lowest WID that is not at rest (R106, R267, R320). -/
def Tile.unquiet (x : Tile) : Option Word :=
  match (List.range 256).find? fun k => (x.hslot k).inFlight with
  | some k => some (handleValue k (x.hslot k))
  | none => ((List.range 256).find? fun w => (x.dir w).unquiet).map fun w => windowValue w (x.dir w).gen

/-- Whether the issuing tile holds its cluster's matrix lease (R143). -/
def State.holdsLease (s : State) : Bool :=
  (s.cluster s.curCluster).arr.holder == some (BitVec.ofNat 2 s.curId)

/-- The checks of STEP (R106; level refusals stand before them). -/
def State.stepCheck (s : State) : Verdict :=
  (checkThat (!s.holdsLease) (s.faultPc cSTEP_IN_LEASE)).andThen
    (match s.cur.unquiet with
      | some a => s.faultAt cSTEP_NOT_QUIET a
      | none => .go)

/-- STEP (R106, R331). -/
def execStep (i : BitVec 14) (s : State) : Result :=
  issueSlot (.step i) (fun s => s.stepCheck)
    (fun s => (s.modCur fun x => { x with stepNo := i, stepCnt := x.stepCnt + 1 }).modIss fun k =>
      { k with control := .step }) s

/-- END (R107, R304). -/
def execEnd (s : State) : Result :=
  issueSlot .end_ noCheck (fun s => s.modIss fun k => { k with control := .end_ }) s

/-- TRAP (R115). -/
def execTrap (t : BitVec 7) (s : State) : Result :=
  issueSlot (.trap t) noCheck (fun s => s.modIss fun k => { k with control := .trap t s.iss.pos }) s

/-- TRET, at the cost of a taken branch (R116, R325; assumption 71). -/
def execTret (s : State) : Result :=
  issueSlot .tret noCheck (fun s => s.modIss fun k => { k with control := .tret, cost := k.cost + branchCost }) s

/-- SLEEP: the tile waits for a record or a cut, a context for a retired launch or a start record (R114, R304). -/
def State.sleepOver (s : State) : Bool :=
  match s.iss.agent with
  | .tile t =>
    let x := s.tile t.toNat
    !x.q0.isEmpty || !x.q1.isEmpty || x.cutPending
  | .seq q =>
    ((s.seqCtx q.toNat).slots.toList.any fun l => l.st == .complete || l.st == .killed) ||
      match s.partOfSeq q.toNat with
      | some v => !(s.part v).inbox.isEmpty
      | none => false

/-- SLEEP (R114, R304). -/
def execSleep (s : State) : Result :=
  issueSlot .sleep (fun s => if s.sleepOver then .go else .wait none) (fun s => s) s

/-! ### System registers and events -/

/-- SYSR (R109): latency 2, the value as it stands at issue. -/
def execSysr (n : Bool) (d : BitVec 5) (i : BitVec 14) (s : State) : Result :=
  issueSlot (.sysr n d i) (fun s => checkThat (!s.sysDenied i) (s.faultPc cPRIVILEGE))
    (fun s => s.dstS 2 n (.reg d) (s.sysRead i)) s

/-- SYSW (R104, R109): s[D] to the register, seen by bundles issued two issue cycles later; a value for PSR stands over every
other change of the stage predicates at that boundary (assumption 80). -/
def execSysw (d : BitVec 5) (i : BitVec 14) (s : State) : Result :=
  issueSlot (.sysw d i) (fun s => checkThat (!s.sysDenied i) (s.faultPc cPRIVILEGE))
    (fun s => s.push (s.now + 2) (.sysw i (s.thread.getS d))) s

/-- EVPOP (R113): the head of q0; q0 advances at the end of the bundle. -/
def execEvpop (n : Bool) (d : BitVec 5) (s : State) : Result :=
  issueSlot (.evpop n d) noCheck (fun s => s.dstS 2 n (.reg d) (s.cur.q0.headD 0)) s

end Sys2Proof.Machine
end

