-- ==== Sys2Proof/Machine/Handles.lean ====
section
/-! DEFINITION. Handles and the completions of operations (R224 to R232, R313). -/

namespace Sys2Proof.Machine

/-! ### Handles (R224 to R231) -/

/-- How a handle value meets its slot (R227). -/
inductive HMatch where
  | slot | orphan | stale
deriving DecidableEq, Repr

/-- The tile with a slot replaced. -/
def Tile.setHslot (x : Tile) (k : Nat) (h : HSlot) : Tile := { x with handles := fput x.handles k h }

/-- The slot number of a handle value. -/
def slotNo (v : Word) : Nat := (v.extractLsb' 0 8).toNat

/-- The match of a handle value with its slot. -/
def HSlot.matchGen (h : HSlot) (gen : BitVec 8) : HMatch :=
  if (h.st = .alloc ∨ h.st = .busy) ∧ h.gen = gen then .slot
  else if h.og = some gen then .orphan
  else .stale

/-- The match of a handle value. -/
def Tile.handleMatch (x : Tile) (v : Word) : HMatch := (x.hslot (slotNo v)).matchGen (v.extractLsb' 8 8)

/-- The check of an instruction that starts an operation: the handle matches, and its slot is ALLOC or waited for
(R225, R227). -/
def State.handleCheck (s : State) (v : Word) : Verdict :=
  match s.cur.handleMatch v with
  | .slot => if (s.cur.hslot (slotNo v)).st = .busy then .wait none else .go
  | _ => s.faultAt cSTALE_HANDLE v

/-- A slot with an operation in flight (R225). -/
def HSlot.start (h : HSlot) (evt : Bool) : HSlot := { h with st := .busy, loc := false, rem := false, err := 0, evt := evt }

/-- The lowest FREE slot (R226). -/
def Tile.freeSlot (x : Tile) : Option Nat := (List.range 256).find? fun k => (x.hslot k).st == .free

/-- A slot that HALLOC picks (R225). -/
def HSlot.alloc (h : HSlot) : HSlot := { h with st := .alloc, loc := true, rem := true, err := 0, og := none, evt := false }

/-- HALLOC (R226). -/
def execHalloc (n : Bool) (d : BitVec 5) (s : State) : Result :=
  issueSlot (.halloc n d) (fun s => checkThat s.cur.freeSlot.isSome (s.faultPc cHANDLE_EXHAUSTED))
    (fun s =>
      match s.cur.freeSlot with
      | none => s
      | some k =>
        let h := s.cur.hslot k
        (s.modCur fun x => x.setHslot k h.alloc).dstS 2 n (.reg d) (handleValue k h)) s

/-- The check of HWAIT: the flag is set, the handle names an orphan, or the tile waits (R227, R228). -/
def State.hwaitCheck (s : State) (v : Word) (flag : HSlot → Bool) : Verdict :=
  match s.cur.handleMatch v with
  | .slot => if flag (s.cur.hslot (slotNo v)) then .go else .wait none
  | .orphan => .go
  | .stale => s.faultAt cSTALE_HANDLE v

/-- What HWAIT returns (R228). -/
def State.hwaitValue (s : State) (v : Word) : Word :=
  match s.cur.handleMatch v with
  | .slot => (s.cur.hslot (slotNo v)).err.setWidth 64
  | _ => 0xFF

/-- HWAIT.L (R228). -/
def execHwaitL (n : Bool) (d : BitVec 5) (a : SOp) (s : State) : Result :=
  issueSlot (.hwaitL n d a) (fun s => s.hwaitCheck (s.readS a) HSlot.loc)
    (fun s => s.dstS 1 n (.reg d) (s.hwaitValue (s.readS a))) s

/-- HWAIT.R (R228). -/
def execHwaitR (n : Bool) (d : BitVec 5) (a : SOp) (s : State) : Result :=
  issueSlot (.hwaitR n d a) (fun s => s.hwaitCheck (s.readS a) HSlot.rem)
    (fun s => s.dstS 1 n (.reg d) (s.hwaitValue (s.readS a))) s

/-- What HTEST returns (R229). -/
def State.htestValue (s : State) (v : Word) : Word :=
  let h := s.cur.hslot (slotNo v)
  let bits (orph busy rem loc : Bool) (err : Nat) : Word :=
    BitVec.ofNat 64 (h.gen.toNat * 2 ^ 16 + (if orph then 2 ^ 11 else 0) + (if busy then 2 ^ 10 else 0) +
      (if rem then 2 ^ 9 else 0) + (if loc then 2 ^ 8 else 0) + err)
  match s.cur.handleMatch v with
  | .slot => bits false (h.st == .busy) h.rem h.loc h.err.toNat
  | _ => bits (h.st == .orphan) false true true 0xFF

/-- HTEST (R229). -/
def execHtest (n : Bool) (d : BitVec 5) (a : SOp) (s : State) : Result :=
  issueSlot (.htest n d a) (fun s => checkThat (s.cur.handleMatch (s.readS a) != .stale) (s.faultAt cSTALE_HANDLE (s.readS a)))
    (fun s => s.dstS 2 n (.reg d) (s.htestValue (s.readS a))) s

/-- A slot that HFREE frees (R225). -/
def HSlot.free (h : HSlot) : HSlot :=
  if h.st = .busy then { h with st := .orphan, gen := h.gen + 1, og := some h.gen }
  else { h with st := .free, gen := h.gen + 1 }

/-- HFREE (R231). -/
def execHfree (a : SOp) (s : State) : Result :=
  issueSlot (.hfree a) (fun s => checkThat (s.cur.handleMatch (s.readS a) == .slot) (s.faultAt cSTALE_HANDLE (s.readS a)))
    (fun s => s.modCur fun x => x.setHslot (slotNo (s.readS a)) (x.hslot (slotNo (s.readS a))).free) s

/-! ### Operations in flight and their completions (R230 to R232) -/

/-- An operation of a cluster. -/
def State.op? (s : State) (c id : Nat) : Option Op := ffind (s.cluster c).ops id

/-- The state with an operation changed. -/
def State.modOp (s : State) (c id : Nat) (f : Op → Op) : State :=
  s.modCluster c fun k =>
    match ffind k.ops id with
    | none => k
    | some o => { k with ops := fput k.ops id (f o) }

/-- A slot after an event of its operation: an error is recorded once, and both events free an orphan (R225, R230). -/
def HSlot.complete (h : HSlot) (loc rem : Bool) (code : BitVec 8) : HSlot :=
  let h := { h with loc := h.loc || loc, rem := h.rem || rem, err := if h.err = 0 then code else h.err }
  if h.loc && h.rem then
    match h.st with
    | .busy => { h with st := .alloc }
    | .orphan => { h with st := .free }
    | _ => h
  else h

/-- LOCAL of an operation: the handle's flag, with an error (R230). -/
def State.finishLocal (s : State) (c id : Nat) (code : BitVec 8) : State :=
  match s.op? c id with
  | none => s
  | some o =>
    (s.modTile o.tile.toNat fun x => x.setHslot o.slot.toNat ((x.hslot o.slot.toNat).complete true false code)).modOp c id
      fun o => { o with loc := true }

/-- A cluster without an operation: its channel is free. -/
def Cluster.dropOp (k : Cluster) (id : Nat) : Cluster :=
  { k with
    ops := fdel k.ops id
    queue := k.queue.filter fun i => i != id
    chans := Vector.ofFn fun n => if vget k.chans n.val = some id then none else vget k.chans n.val }

/-- What REMOTE of an operation leaves beside its flags: an event record where one was asked for and the handle is still
held, an error record where none can read the handle any more: an orphan's, and every one after END, be the tile killed
since (R231, R232, R313). -/
def State.reportRemote (s : State) (t : Nat) (o : Op) (before : HSlot) (code : BitVec 8) : State :=
  let err := if before.err = 0 then code else before.err
  let s := if before.st = .busy ∧ o.evt then
      s.event t 1 (err.toNat * 2 ^ 16 + o.gen.toNat * 256 + o.slot.toNat)
    else s
  if err ≠ 0 ∧ (before.st = .orphan ∨ (s.tile t).hasEnded) then s.launchError t err.toNat else s

/-- Both views of every scratchpad that an operation wrote hold its data (R198). -/
def State.joinOp (s : State) (id : Nat) (o : Op) : State :=
  let s := s.modTile o.tile.toNat fun x => x.joinOp id
  match o.kind with
  | .win p => s.modTile p.target.toNat fun x => x.joinOp id
  | _ => s

/-- REMOTE of an operation, with LOCAL where it has not come: the operation is over (R230). -/
def State.finishOp (s : State) (c id : Nat) (code : BitVec 8) : State :=
  match s.op? c id with
  | none => s
  | some o =>
    let t := o.tile.toNat
    let h := (s.tile t).hslot o.slot.toNat
    let s := s.modTile t fun x => x.setHslot o.slot.toNat (h.complete true true code)
    ((s.reportRemote t o h code).joinOp id o).modCluster c fun k => k.dropOp id

/-- A new operation of the issuing tile (R225): its number, and the state with the slot BUSY. -/
def State.startOp (s : State) (v : Word) (evt : Bool) (kind : OpKind) : Nat × State :=
  let f := s.freshId
  let o : Op :=
    { tile := BitVec.ofNat 11 s.curId, slot := v.extractLsb' 0 8, gen := v.extractLsb' 8 8, evt := evt, kind := kind,
      chan := none, began := 0, loc := false, buf := [], done := [], sent := 0, accepted := none, answers := [], failed := 0, wrote := [],
      elem := 0, part := [] }
  (f.1, (f.2.modCur fun x => x.setHslot (slotNo v) ((x.hslot (slotNo v)).start evt)).modCluster s.curCluster fun k =>
    { k with ops := fput k.ops f.1 o })

/-- Whether an operation's own accesses may perform: every plain access its tile issued earlier has (R276). -/
def State.opQuiet (s : State) (o : Op) (id : Nat) : Bool := (s.tile o.tile.toNat).th.quietBefore id

end Sys2Proof.Machine
end

