-- ==== Sys2Proof/Machine/Copy.lean ====
section
/-! DEFINITION. Copies: the transfer as computed at issue, its granules, its channels, its completions and row streams (R214 to R223, R230). -/

namespace Sys2Proof.Machine

/-! ### The transfer (R215 to R219) -/

/-- The element widths of source and destination (R219). -/
def copyWidths (conv : Option Conv) : Nat × Nat :=
  match conv with
  | none => (8, 8)
  | some c => (c.fa.width, c.fd.width)

/-- The transfer of a copy from its descriptor and layout register. -/
def State.copyP (s : State) (a : DOp) (ly : BitVec 3) (conv : Option Conv) (red : Option (Fmt × Comb × Rm)) : CopyP :=
  let l := vget s.cur.ly ly.toNat
  let ctl := s.readD a 3
  let rlen := 64 * (l.extractLsb' 0 16).toNat
  let w := copyWidths conv
  { src := (s.readD a 0).toNat, dst := (s.readD a 1).toNat, src2 := (s.readD a 2).toNat,
    rows := (l.extractLsb' 16 16).toNat, rlen := rlen, dlen := rlen * w.2 / w.1,
    sstride := 64 * (l.extractLsb' 32 16).toNat, dstride := 64 * (l.extractLsb' 48 16).toNat,
    conv := conv, red := red, strm := if ctl.getLsbD 3 then some (ctl.getLsbD 4) else none }

/-- EVT of a copy's control word. -/
def State.copyEvt (s : State) (a : DOp) : Bool := (s.readD a 3).getLsbD 5

/-- LY of a copy's control word. -/
def State.copyLy (s : State) (a : DOp) : BitVec 3 := (s.readD a 3).extractLsb' 0 3

/-- Whether a copy moves nothing (R219). -/
def CopyP.empty (p : CopyP) : Bool := p.rows == 0 || p.rlen == 0

/-- Whether the destination is memory. -/
def CopyP.mem (p : CopyP) : Bool := p.strm.isNone

/-- An address of a row, modulo 2 ^ 64. -/
def rowAddr (base stride r : Nat) : Nat := (base + stride * r) % 2 ^ 64

/-- The first address that a set of rows reaches outside its range (R193). -/
def rowsOutside (base stride rows len : Nat) : Option Nat :=
  (List.range rows).findSome? fun r => outside (rowAddr base stride r) len

/-- The alignment and extent checks of a copy, in order: the cause and the address (R219). -/
def CopyP.fault (p : CopyP) : Option (BitVec 8 × Nat) :=
  if p.empty then none
  else if p.dlen % 64 ≠ 0 ∧ p.mem then some (cALIGN, p.dst)
  else if p.dlen % 64 ≠ 0 ∧ p.red.isSome then some (cALIGN, p.src2)
  else if p.src % 64 ≠ 0 then some (cALIGN, p.src)
  else if p.mem ∧ p.dst % 64 ≠ 0 then some (cALIGN, p.dst)
  else if p.red.isSome ∧ p.src2 % 64 ≠ 0 then some (cALIGN, p.src2)
  else
    let view (x : Option Nat) : Option (BitVec 8 × Nat) := x.map fun a => (cVIEW_RANGE, a)
    (view (rowsOutside p.src p.sstride p.rows p.rlen)).or
      ((if p.red.isSome then view (rowsOutside p.src2 p.dstride p.rows p.dlen) else none).or
        (if p.mem then view (rowsOutside p.dst p.dstride p.rows p.dlen) else none))

/-- The checks of a copy (R214, R219, R227). -/
def State.copyCheck (s : State) (h : Word) (p : CopyP) : Verdict :=
  (s.handleCheck h).andThen
    (match p.fault with
      | some (c, a) => s.faultAt c (BitVec.ofNat 64 a)
      | none => if p.empty ∨ (s.cluster s.curCluster).queue.length < 64 then .go else .wait none)

/-- A copy at commit: into the queue, or complete at once when nothing moves (R214, R219). -/
def State.startCopy (s : State) (h : Word) (p : CopyP) (evt : Bool) : State :=
  let f := s.startOp h evt (.copy p)
  if p.empty then f.2.finishOp s.curCluster f.1 0
  else f.2.modCluster s.curCluster fun k => { k with queue := k.queue ++ [f.1] }

/-- A copy in issue. -/
def copyOp (i : Instr) (h : State → Word) (p : State → CopyP) (a : DOp) (s : State) : Result :=
  issueSlot i (fun s => s.copyCheck (h s) (p s)) (fun s => s.startCopy (h s) (p s) (s.copyEvt a)) s

/-- CPY (R218). -/
def execCpy (d : BitVec 5) (a : DOp) (s : State) : Result :=
  copyOp (.cpy d a) (fun s => s.thread.getS d) (fun s => s.copyP a (s.copyLy a) none none) a s

/-- CPYR: FP32 sums (R218). -/
def execCpyr (d : BitVec 5) (a : DOp) (s : State) : Result :=
  copyOp (.cpyr d a) (fun s => s.thread.getS d) (fun s => s.copyP a (s.copyLy a) none (some (.fp32, .sum, .rne))) a s

/-- CPY.W (R218). -/
def execCpyW (d : SOp) (a : DOp) (ly : BitVec 3) (conv : Option Conv) (s : State) : Result :=
  copyOp (.cpyW d a ly conv) (fun s => s.readS d) (fun s => s.copyP a ly conv none) a s

/-- CPYR.W (R218). -/
def execCpyrW (d : SOp) (a : DOp) (f : CpyrF) (s : State) : Result :=
  copyOp (.cpyrW d a f) (fun s => s.readS d)
    (fun s => s.copyP a f.ly (if f.conv then some ⟨f.fa, f.fd, f.rm⟩ else none) (some (f.fd, f.op, f.rm))) a s

/-! ### Granules (R220 to R223) -/

/-- Source granules of a row. -/
def CopyP.srcPerRow (p : CopyP) : Nat := p.rlen / 64

/-- Destination granules of a row. -/
def CopyP.dstPerRow (p : CopyP) : Nat := p.dlen / 64

/-- Granules of the first source. -/
def CopyP.srcCount (p : CopyP) : Nat := p.rows * p.srcPerRow

/-- Granules of the destination in memory. -/
def CopyP.dstCount (p : CopyP) : Nat := p.rows * p.dstPerRow

/-- Granules a copy reads: those of the first source, then those of the second. -/
def CopyP.readCount (p : CopyP) : Nat := p.srcCount + if p.red.isSome then p.dstCount else 0

/-- The address of a granule that a copy reads. -/
def CopyP.readAddr (p : CopyP) (g : Nat) : Nat :=
  if g < p.srcCount then rowAddr p.src p.sstride (g / p.srcPerRow) + 64 * (g % p.srcPerRow)
  else
    let h := g - p.srcCount
    rowAddr p.src2 p.dstride (h / p.dstPerRow) + 64 * (h % p.dstPerRow)

/-- The address of a destination granule. -/
def CopyP.writeAddr (p : CopyP) (g : Nat) : Nat :=
  rowAddr p.dst p.dstride (g / p.dstPerRow) + 64 * (g % p.dstPerRow)

/-- Bytes [a, a + n) of source row r, from the granules read. -/
def CopyP.srcBytes (p : CopyP) (buf : FMap Granule) (r a n : Nat) : List Byte :=
  let first := a / 64
  let gs := (List.range ((a + n + 63) / 64 - first)).flatMap fun k =>
    granBytes (fget 0 buf (r * p.srcPerRow + first + k))
  (gs.drop (a % 64)).take n

/-- Bytes [a, a + n) of destination row r before the reduce stage (R220). -/
def CopyP.moved (p : CopyP) (buf : FMap Granule) (r a n : Nat) : List Byte :=
  let w := copyWidths p.conv
  let src := p.srcBytes buf r (a * w.1 / w.2) (n * w.1 / w.2)
  match p.conv with
  | none => src
  | some c =>
    let x := leNat src
    leBytes n (packNat w.2 ((List.range (8 * n / w.2)).map fun i => (cvt c.fa c.fd c.rm (x / 2 ^ (w.1 * i) % 2 ^ w.1)).1))

/-- Bytes [a, a + n) of row r of the second source. -/
def CopyP.second (p : CopyP) (buf : FMap Granule) (r a n : Nat) : List Byte :=
  let first := a / 64
  let gs := (List.range ((a + n + 63) / 64 - first)).flatMap fun k =>
    granBytes (fget 0 buf (p.srcCount + r * p.dstPerRow + first + k))
  (gs.drop (a % 64)).take n

/-- Elements of two byte strings combined (R221). -/
def combineBytes (f : Fmt) (op : Comb) (m : Rm) (xs ys : List Byte) : List Byte :=
  let w := f.width
  let x := leNat xs
  let y := leNat ys
  leBytes xs.length (packNat w ((List.range (8 * xs.length / w)).map fun i =>
    combine f op m (x / 2 ^ (w * i) % 2 ^ w) (y / 2 ^ (w * i) % 2 ^ w)))

/-- Bytes [a, a + n) of destination row r (R220, R221). -/
def CopyP.bytes (p : CopyP) (buf : FMap Granule) (r a n : Nat) : List Byte :=
  match p.red with
  | none => p.moved buf r a n
  | some (f, op, m) => combineBytes f op m (p.moved buf r a n) (p.second buf r a n)

/-- The granules that bytes [a, a + n) of destination row r are made of. -/
def CopyP.needs (p : CopyP) (r a n : Nat) : List Nat :=
  let w := copyWidths p.conv
  let lo := a * w.1 / w.2 / 64
  let hi := ((a + n) * w.1 / w.2 + 63) / 64
  ((List.range (hi - lo)).map fun k => r * p.srcPerRow + lo + k) ++
    if p.red.isSome then (List.range ((a + n + 63) / 64 - a / 64)).map fun k => p.srcCount + r * p.dstPerRow + a / 64 + k
    else []

/-! ### Errors of a copy (R219, R326) -/

/-- The handle code of a translation fault or an uncorrectable error (R224). -/
def copyCode (c : BitVec 8) : BitVec 8 := if c = cECC then 8 else 7

/-- A copy ends with an error: an uncorrectable one kills the context too (R219). -/
def State.copyFail (s : State) (c id : Nat) (cause : BitVec 8) : State :=
  match s.op? c id with
  | none => s
  | some o =>
    let s := if cause = cECC then s.killByEngine o.tile.toNat 3 (match o.chan with
        | some n => n.toNat
        | none => 0) cECC else s
    s.finishOp c id (copyCode cause)

/-! ### Single moves of a channel -/

/-- A copy that a channel runs and whose accesses may perform. -/
def State.runningCopy (s : State) (c id : Nat) : Option (Op × CopyP) :=
  match s.op? c id with
  | some o =>
    match o.kind, o.chan with
    | .copy p, some _ => if s.opQuiet o id then some (o, p) else none
    | _, _ => none
  | none => none

/-- A channel reads one granule, once. -/
def State.copyRead (s : State) (c id g : Nat) : State :=
  match s.runningCopy c id with
  | none => s
  | some (o, p) =>
    if g < p.readCount ∧ (ffind o.buf g).isNone then
      match s.readAt o.tile.toNat (p.readAddr g) 64 with
      | .error e => s.copyFail c id e
      | .ok bs => s.modOp c id fun o => { o with buf := fput o.buf g (granOf bs) }
    else s

/-- A channel writes one destination granule, once its source granules are read (R221). -/
def State.copyWrite (s : State) (c id g : Nat) : State :=
  match s.runningCopy c id with
  | none => s
  | some (o, p) =>
    let r := g / p.dstPerRow
    let a := 64 * (g % p.dstPerRow)
    if p.mem ∧ g < p.dstCount ∧ !o.done.contains g ∧ (p.needs r a 64).all fun k => (ffind o.buf k).isSome then
      match s.writeAt id o.tile.toNat (p.writeAddr g) (p.bytes o.buf r a 64) with
      | .error e => s.copyFail c id e
      | .ok s => s.modOp c id fun o => { o with done := g :: o.done }
    else s

/-! ### Row streams (R222, R223) -/

/-- The parts of bytes [pos, pos + n) of the concatenated rows: row, offset and length of each. -/
def streamParts (dlen rows : Nat) : Nat → Nat → Nat → List (Nat × Nat × Nat)
  | 0, _, _ => []
  | fuel + 1, pos, n =>
    if n = 0 ∨ rows ≤ pos / dlen then []
    else
      let k := min n (dlen - pos % dlen)
      (pos / dlen, pos % dlen, k) :: streamParts dlen rows fuel (pos + k) (n - k)

/-- Stream row k of a copy, the last one padded with zeros. -/
def CopyP.streamBytes (p : CopyP) (buf : FMap Granule) (k : Nat) : List Byte :=
  let bs := (streamParts p.dlen p.rows 512 (512 * k) 512).flatMap fun x => p.bytes buf x.1 x.2.1 x.2.2
  bs ++ List.replicate (512 - bs.length) 0

/-- The granules that stream row k is made of. -/
def CopyP.streamNeeds (p : CopyP) (k : Nat) : List Nat :=
  (streamParts p.dlen p.rows 512 (512 * k) 512).flatMap fun x => p.needs x.1 x.2.1 x.2.2

/-- Whether no earlier copy of the tile to the same stream is still to deliver rows (R223). -/
def State.streamFirst (s : State) (c id : Nat) (o : Op) (q3 : Bool) : Bool :=
  (s.cluster c).ops.all fun e => e.1 ≥ id || e.2.tile != o.tile || e.2.streamLeft == 0 || match e.2.kind with
    | .copy p => p.strm != some q3
    | _ => true

/-- A row enters a stream. -/
def Tile.pushStream (x : Tile) (q3 : Bool) (r : Row) : Tile :=
  if q3 then { x with q3 := x.q3 ++ [r] } else { x with q2 := x.q2 ++ [r] }

/-- The rows that wait in a stream. -/
def Tile.streamRows (x : Tile) (q3 : Bool) : List Row := if q3 then x.q3 else x.q2

/-- The granules of a list that have not been read are read. -/
def State.copyReads (s : State) (c id : Nat) (gs : List Nat) : State := gs.foldl (fun s g => s.copyRead c id g) s

/-- Whether a channel can have moved a number of bytes for an operation: up to 128 a cycle (R214). -/
def State.paced (s : State) (o : Op) (bytes : Nat) : Bool := decide (bytes ≤ 128 * (s.cycle - o.began))

/-- STREAM_ROW (R222, R223): the next row of a stream copy enters its stream. -/
def execStreamRow (c : BitVec 9) (op : Nat) (s : State) : Result :=
  .next (
    let k := c.toNat
    match s.runningCopy k op with
    | some (o, p) =>
      match p.strm with
      | none => s
      | some q3 =>
        if o.streamLeft = 0 ∨ 8 ≤ ((s.tile o.tile.toNat).streamRows q3).length then s
        else if !s.streamFirst k op o q3 ∨ !s.paced o (512 * (o.done.length + 1)) then s
        else
          let n := o.done.length
          let s := s.copyReads k op (p.streamNeeds n)
          match s.op? k op with
          | none => s
          | some o =>
            (s.modTile o.tile.toNat fun x => x.pushStream q3 (rowOf (p.streamBytes o.buf n))).modOp k op fun o =>
              { o with done := n :: o.done }
    | none => s)

/-! ### Events of the copy engine -/

/-- COPY_START (R214): a free channel takes the head of the queue. -/
def execCopyStart (c : BitVec 9) (ch : BitVec 2) (s : State) : Result :=
  .next (
    let k := s.cluster c.toNat
    match k.queue, vget k.chans ch.toNat with
    | id :: r, none =>
      (s.modCluster c.toNat fun k => { k with queue := r, chans := vset k.chans ch.toNat (some id) }).modOp c.toNat id
        fun o => { o with chan := some ch, began := s.cycle }
    | _, _ => s)

/-- LOCAL of a copy (R230): the rest of the source is read and LOCAL is set. -/
def State.copyLocal (s : State) (c op : Nat) : State :=
  match s.runningCopy c op with
  | none => s
  | some (o, p) =>
    if o.loc ∨ !s.paced o (p.rows * p.rlen) then s
    else
      let s := s.copyReads c op (List.range p.readCount)
      match s.op? c op with
      | none => s
      | some _ => s.finishLocal c op 0

/-- REMOTE_COMPLETION (R230, R231): after LOCAL, the rest of the destination is written, or every row has entered the
stream, and REMOTE is set. -/
def execRemoteCompletion (c : BitVec 9) (op : Nat) (s : State) : Result :=
  .next (match s.runningCopy c.toNat op with
    | none => s
    | some (o, p) =>
      if !o.loc ∨ !s.paced o (p.rows * p.dlen) then s
      else if !p.mem then (if o.streamLeft = 0 then s.finishOp c.toNat op 0 else s)
      else
        let s := (List.range p.dstCount).foldl (fun s g => s.copyWrite c.toNat op g) s
        match s.op? c.toNat op with
        | none => s
        | some _ => s.finishOp c.toNat op 0)

/-- A cause that stops a copy at an address it has still to read or to write. -/
def State.copyFault (s : State) (o : Op) (p : CopyP) : Option (BitVec 8) :=
  let t := o.tile.toNat
  ((List.range p.readCount).findSome? fun g =>
    if (ffind o.buf g).isSome then none
    else match s.readAt t (p.readAddr g) 64 with
      | .error e => some e
      | .ok _ => none).or
  (if p.mem then (List.range p.dstCount).findSome? fun g =>
      if o.done.contains g then none
      else match s.writeAt 0 t (p.writeAddr g) [] with
        | .error e => some e
        | .ok _ => none
    else none)

/-- COPY_XLATE_FAULT (R219): a copy that still meets a translation fault ends with XLATE. -/
def execCopyXlateFault (c : BitVec 9) (op : Nat) (s : State) : Result :=
  .next (match s.runningCopy c.toNat op with
    | none => s
    | some (o, p) =>
      match s.copyFault o p with
      | some e => if e = cECC then s else s.copyFail c.toNat op e
      | none => s)

/-- A copy that still meets a damaged word ends with ECC, and its context is killed (R219, R326, R392). -/
def State.copyDamage (s : State) (c op : Nat) : State :=
  match s.runningCopy c op with
  | none => s
  | some (o, p) =>
    match s.copyFault o p with
    | some e => if e = cECC then s.copyFail c op e else s
    | none => s

end Sys2Proof.Machine
end

