-- ==== Sys2Proof/Machine/Collective.lean ====
section
/-! DEFINITION. The collective tile table: its descriptors, rounds, packets, commit points and aborts (R355 to R372). -/

namespace Sys2Proof.Machine

/-! ### Entries (R356) -/

/-- An entry of a cluster's collective tile table. -/
def State.ct (s : State) (c e : Nat) : CtEntry := fget CtEntry.reset (s.cluster c).cts e

/-- The state with an entry changed. -/
def State.modCt (s : State) (c e : Nat) (f : CtEntry → CtEntry) : State :=
  s.modCluster c fun k => { k with cts := fput k.cts e (f (fget CtEntry.reset k.cts e)) }

/-- The tile that an entry belongs to. -/
def ctTile (c e : Nat) : Nat := 4 * c + e / 128

/-- The entry that a collective operand of a tile names (R360). -/
def ctIndex (t : Nat) (v : Word) : Nat := 128 * (t % 4) + (v.extractLsb' 16 7).toNat

/-! ### CTSET (R357 to R359) -/

/-- TYPE of a descriptor, where R357 lists it. -/
def ctType (ctl : Word) : Option Fmt :=
  match (ctl.extractLsb' 32 4).toNat with
  | 0 => some .fp32
  | 14 => some .cnt
  | 15 => some .fld
  | _ => none

/-- A collective descriptor (R357). -/
structure CtDesc where
  loc : Word
  dest : Word
  stage : Word
  status : Word
  ctl : Word
  peers : Word
  ring : Word
  ef : Word
deriving DecidableEq, Repr

/-- A descriptor from its 64 bytes. -/
def ctDesc (bs : List Byte) : CtDesc :=
  let w (k : Nat) : Word := BitVec.ofNat 64 (leNat ((bs.drop (8 * k)).take 8))
  ⟨w 0, w 1, w 2, w 3, w 4, w 5, w 6, w 7⟩

/-- LEN. -/
def CtDesc.len (d : CtDesc) : Nat := (d.ctl.extractLsb' 0 32).toNat
/-- COMP. -/
def CtDesc.comp (d : CtDesc) : Bool := d.ctl.getLsbD 36
/-- NPEER. -/
def CtDesc.npeer (d : CtDesc) : Nat := (d.ring.extractLsb' 0 7).toNat
/-- POS. -/
def CtDesc.pos (d : CtDesc) : Nat := (d.ring.extractLsb' 8 7).toNat

/-- Step 4 of R359: the fields that are no addresses. -/
def CtDesc.fieldsOk (d : CtDesc) : Bool :=
  d.ctl.extractLsb' 38 10 == 0 && (ctType d.ctl).isSome && d.len % 64 == 0 && decide (64 ≤ d.len ∧ d.len ≤ 0x100000) &&
    (!d.comp || (d.len % 128 == 0 && ctType d.ctl == some .fp32)) && d.ring.extractLsb' 32 32 == 0 &&
    !d.ring.getLsbD 15 && !d.ring.getLsbD 7 && decide (2 ≤ d.npeer ∧ d.npeer ≤ 64 ∧ d.pos < d.npeer)

/-- Step 5 of R359: the first address that is not aligned. -/
def CtDesc.misaligned (d : CtDesc) : Option Word :=
  let l : List (Word × Nat) :=
    [(d.loc, 64), (d.dest, 64), (d.stage, 64), (d.status, 8), (d.peers, 4)] ++ if d.comp then [(d.ef, 64)] else []
  (l.find? fun x => x.1.toNat % x.2 != 0).map Prod.fst

/-- Step 6 of R359: the first byte outside a permitted range. -/
def CtDesc.outside (d : CtDesc) : Option Nat :=
  let l : List (Word × Nat) :=
    [(d.loc, d.len), (d.dest, d.len), (d.stage, d.len), (d.status, 8), (d.peers, 4 * d.npeer)] ++
      if d.comp then [(d.ef, d.len)] else []
  l.findSome? fun x => Machine.outside x.1.toNat x.2

/-- Step 7 of R359: the extents that must not overlap do not. -/
def CtDesc.apart (d : CtDesc) : Bool :=
  let meet (a b : Word) : Bool := overlaps a.toNat d.len b.toNat d.len
  !meet d.stage d.dest && (!d.comp || (!meet d.ef d.loc && !meet d.ef d.dest && !meet d.ef d.stage))

/-- The records of a peer list. -/
def peerRecs (n : Nat) (bs : List Byte) : List Nat := (List.range n).map fun p => leNat ((bs.drop (4 * p)).take 4)

/-- Step 9 of R359: the peer list keeps R358 for a tile and its entry. -/
def peersOk (rs : List Nat) (pos phys entry : Nat) : Bool :=
  (rs.all fun r => r / 2 ^ 25 == 0 && r / 2 ^ 15 % 2 == 0) && decide rs.Nodup && rs[pos]? == some (phys + 65536 * entry)

/-- Bytes of a tile's own address space for CTSET, or the cause and the failing address. -/
def State.ctRead (s : State) (t a n : Nat) : Except (BitVec 8 × Nat) (List Byte) :=
  (granCuts a n).foldl (fun r x => match r with
    | .error e => .error e
    | .ok bs => match s.readAt t x.1 x.2 with
      | .error e => .error (e, x.1)
      | .ok b => .ok (bs ++ b)) (.ok [])

/-- The descriptor and peer list that a CTSET reads, or its fault (R359, steps 3 to 9). -/
def State.ctLoad (s : State) (t : Nat) (da v : Word) : Except (BitVec 8 × Word) (CtDesc × List Nat) :=
  let no {α : Type} (c : BitVec 8) (a : Word) : Except (BitVec 8 × Word) α := .error (c, a)
  match s.ctRead t da.toNat 64 with
  | .error (c, x) => no c (BitVec.ofNat 64 x)
  | .ok bs =>
    let d := ctDesc bs
    if !d.fieldsOk then no cLAUNCH_SHAPE da
    else match d.misaligned, d.outside with
      | some a, _ => no cALIGN a
      | none, some x => no cVIEW_RANGE (BitVec.ofNat 64 x)
      | none, none =>
        if !d.apart then no cLAUNCH_SHAPE da
        else match s.ctRead t d.peers.toNat (4 * d.npeer) with
          | .error (c, x) => no c (BitVec.ofNat 64 x)
          | .ok ps =>
            let rs := peerRecs d.npeer ps
            if peersOk rs d.pos (s.physId t) (ctIndex t v) then .ok (d, rs) else no cLAUNCH_SHAPE da

/-- The checks of CTSET (R359). -/
def State.ctsetCheck (s : State) (da v : Word) : Verdict :=
  if da.toNat % 64 ≠ 0 then s.faultAt cALIGN da
  else match outside da.toNat 64 with
    | some x => s.faultAt cVIEW_RANGE (BitVec.ofNat 64 x)
    | none =>
      if !s.thread.quiet then .wait none
      else match s.ctLoad s.curId da v with
        | .error (c, a) => s.faultAt c a
        | .ok _ => if (s.ct s.curCluster (ctIndex s.curId v)).st = .active then .wait none else .go

/-- The entry that a descriptor and a peer list give. -/
def CtDesc.entry (d : CtDesc) (rs : List Nat) : CtEntry :=
  { CtEntry.reset with
    st := .idle
    loc := d.loc.toNat
    dest := d.dest.toNat
    stage := d.stage.toNat
    status := d.status.toNat
    ef := d.ef.toNat
    len := d.len
    ty := (ctType d.ctl).getD .fp32
    comp := d.comp
    evt := d.ctl.getLsbD 37
    timeout := (d.ctl.extractLsb' 48 16).toNat
    pos := d.pos
    peers := rs.map fun r => (BitVec.ofNat 15 r, BitVec.ofNat 9 (r / 65536))
    gen := d.ring.extractLsb' 16 16 }

/-- CTSET (R359, R369). -/
def execCtset (a : DOp) (s : State) : Result :=
  issueSlot (.ctset a) (fun s => s.ctsetCheck (s.readD a 0) (s.readD a 1))
    (fun s => match s.ctLoad s.curId (s.readD a 0) (s.readD a 1) with
      | .error _ => s
      | .ok (d, rs) => s.modCt s.curCluster (ctIndex s.curId (s.readD a 1)) fun _ => d.entry rs) s

/-! ### Packets between entries (R347, R355) -/

/-- Where a peer can be reached: in the module, over the rack ring, or not at all (R353, R355, R388). -/
inductive Reach where
  | here | rack | lost
deriving DecidableEq, Repr

/-- The reach of a peer from a cluster: within the module in the tile's own partition; beyond it in a partition of the same
nonzero fabric domain, whose number only the other module knows (assumption 55). -/
def State.reach (s : State) (c : Nat) (dst : BitVec 15) : Reach :=
  let m := dst.toNat / 2048
  match (s.cluster c).owner with
  | none => .lost
  | some v =>
    if m = s.modl.pos.toNat then
      (if (s.cluster (dst.toNat % 2048 / 4)).owner = some v then .here else .lost)
    else if (s.part v.toNat).domain ≠ 0 ∧ Config.peerDomain s.turnNo dst.toNat = (s.part v.toNat).domain ∧
        s.modl.member.getLsbD m ∧ !s.modl.lost.getLsbD m ∧ !s.modl.isolated.getLsbD m then
      .rack
    else .lost

/-- The class of a packet: partial sums, finals, notices and responses are flows of their own (R347). -/
def flowClass : CtKind → Nat
  | .partial_ _ _ => 0
  | .final _ _ => 1
  | .abort => 2
  | .genRefused => 3

/-- Whether two packets belong to one flow (R347). -/
def sameFlow (a b : CtMsg) : Bool :=
  a.src == b.src && a.srcEntry == b.srcEntry && a.dst == b.dst && a.dstEntry == b.dstEntry &&
    flowClass a.kind == flowClass b.kind

/-- A packet that goes over the rack: behind earlier ones of its flow that a change of route holds (R353, R354). -/
def Mod.rackSend (m : Mod) (x : CtMsg) : Mod :=
  if (m.outRack.take m.oldRoute).any (sameFlow x) || m.held.any (sameFlow x) then { m with held := m.held ++ [x] }
  else { m with outRack := m.outRack ++ [x] }

/-- The held packets sent on whose flow has no unacknowledged packet from before the change of route (R353). -/
def Mod.release (m : Mod) : Mod := m.held.foldl (fun m x => m.rackSend x) { m with held := [] }

/-- The packets over the rack without number k (R353). -/
def Mod.dropSent (m : Mod) (k : Nat) : Mod :=
  Mod.release { m with
    outRack := m.outRack.eraseIdx k
    oldRoute := if k < m.oldRoute then m.oldRoute - 1 else m.oldRoute }

/-- The packets to other modules without those that a test names, sent and held (R327, R353). -/
def Mod.dropPackets (m : Mod) (gone : CtMsg → Bool) : Mod :=
  { m with
    outRack := m.outRack.filter fun x => !gone x
    oldRoute := ((m.outRack.take m.oldRoute).filter fun x => !gone x).length
    held := m.held.filter fun x => !gone x }

/-- The k-th packet sent over the rack is acknowledged, the first of its flow to wait (R353). -/
def State.rackAck (s : State) (k : Nat) : State :=
  match s.modl.outRack[k]? with
  | none => s
  | some x => if (s.modl.outRack.take k).any (sameFlow x) then s else s.modMod fun m => m.dropSent k

/-- A packet of an entry on its way to a peer: an instance's own, or a response of its port, which is no instance's. -/
def State.post (s : State) (c e : Nat) (to_ : BitVec 15 × BitVec 9) (gen : BitVec 16) (k : CtKind) : State :=
  let m : CtMsg := ⟨BitVec.ofNat 15 (s.physId (ctTile c e)), BitVec.ofNat 9 e, to_.1, to_.2, gen, k,
    if k = .genRefused then none else some (s.ct c e).op⟩
  match s.reach c to_.1 with
  | .here => { s with ctMsgs := s.ctMsgs ++ [m] }
  | .rack => s.modMod fun x => x.rackSend m
  | .lost => s

/-- The other participants of an entry. -/
def CtEntry.others (x : CtEntry) : List (BitVec 15 × BitVec 9) :=
  (x.peers.zipIdx.filter fun p => p.2 != x.pos).map Prod.fst

/-! ### Translations held by an instance (R361, R362) -/

/-- The 64 KiB pages of the slice that an extent lies in. -/
def slicePages (a n : Nat) : List Nat :=
  if a < 0x100000000 then []
  else
    let w := a - 0x100000000
    (List.range ((w + n - 1) / 65536 + 1 - w / 65536)).map fun k => w / 65536 + k

/-- The frames of pages, translated with W, or the fault. -/
def State.holdPages (s : State) (c : Nat) : List Nat → Except (BitVec 8) (List (Nat × Nat))
  | [] => .ok []
  | p :: r =>
    match s.translate c (65536 * p) rW with
    | .error e => .error e
    | .ok (pa, _) =>
      match s.holdPages c r with
      | .error e => .error e
      | .ok l => .ok ((p, pa) :: l)

/-- Bytes written by operation id through held translations: no fault, and nothing where none is held. -/
def State.heldWrite (s : State) (id t : Nat) (pages : List (Nat × Nat)) (a : Nat) (bs : List Byte) : State :=
  (pieces a bs).foldl (fun s p =>
    match tileTarget (t / 4) p.1 with
    | .spad swz off => s.writeSpad id t swz off p.2
    | .hbm _ w => match ffind pages (w / 65536) with
      | some pa => s.hbmWrite (pa + w % 65536) p.2
      | none => s
    | .cmd _ => s) s

/-! ### The end of an instance (R362, R363, R366) -/

/-- The status word (R363). -/
def ctStatus (gen : BitVec 16) (abt : Bool) (err : Nat) : Nat :=
  gen.toNat * 2 ^ 32 + (if abt then 2 ^ 9 else 2 ^ 8) + err

/-- The payload of an event record of kind 0x03 (R363). -/
def ctEvent (gen : BitVec 16) (abt : Bool) (err entry : Nat) : Nat :=
  gen.toNat * 2 ^ 40 + err * 2 ^ 32 + entry * 2 ^ 16 + if abt then 2 else 1

/-- The entry without its instance. -/
def CtEntry.ended (x : CtEntry) : CtEntry :=
  { x with
    st := .idle
    dstPages := none
    contrib := none
    parts := []
    fwd := []
    stageIn := []
    staged := []
    committed := false
    aborting := none }

/-- An instance ends: its status word, its handle, its event record, the entry IDLE. The instance that a port runs for an ended
rank has none of these (assumption 89). -/
def State.ctEnd (s : State) (c e : Nat) (abt : Bool) (err : BitVec 8) (status : Bool) : State :=
  let x := s.ct c e
  let t := ctTile c e
  let s := if status && x.proxy.isNone then s.heldWrite x.op t (x.dstPages.getD []) x.status (leBytes 8 (ctStatus x.gen abt err.toNat)) else s
  let s := (s.finishOp c x.op err).modCt c e CtEntry.ended
  if x.evt then s.event t 3 (ctEvent x.gen abt err.toNat e) else s

/-- Whether every plain access that the tile issued before an entry's CTREADY has performed (R276). -/
def State.ctQuiet (s : State) (c e : Nat) : Bool :=
  match s.op? c (s.ct c e).op with
  | some o => s.opQuiet o (s.ct c e).op
  | none => true

/-- Whether an instance runs: ACTIVE, its translations held, and not aborted. One whose walks met a damaged table entry holds
none and stands still until the halt that its kill has called (R209, R326, R361). -/
def CtEntry.runs (x : CtEntry) : Bool := x.st == .active && x.dstPages.isSome && x.aborting.isNone

/-- An instance that has not reached its commit point ends ABORTED; the notices go to every other peer unless a notice
was the cause (R366). The status word stands behind the tile's earlier plain accesses: where some have not performed, the
end is still to come (R276). -/
def State.ctAbort (s : State) (c e : Nat) (err : BitVec 8) (notify status : Bool) : State :=
  let x := s.ct c e
  if !x.runs || x.committed then s
  else
    let s := if !status || s.ctQuiet c e then s.ctEnd c e true err status
      else s.modCt c e fun x => { x with aborting := some (err, status) }
    if notify then x.others.foldl (fun s p => s.post c e p x.gen .abort) s else s

/-- The end of an aborted instance performs (R276, R366). -/
def State.ctFinish (s : State) (c e : Nat) : State :=
  match (s.ct c e).aborting with
  | some (err, status) => if s.ctQuiet c e then s.ctEnd c e true err status else s
  | none => s

/-- A fault of an engine's access for an entry: a translation fault aborts, an uncorrectable error kills (R366). -/
def State.ctFault (s : State) (c e : Nat) (cause : BitVec 8) : State :=
  if cause = cECC then s.killByEngine (ctTile c e) 4 0 cECC else s.ctAbort c e 7 true true

/-! ### CTREADY, CTWAIT, CTABORT (R360, R361, R367, R368) -/

/-- The entry of the issuing tile that an operand names. -/
def State.ctOf (s : State) (v : Word) : CtEntry := s.ct s.curCluster (ctIndex s.curId v)

/-- The entry is not FREE (R360). -/
def State.ctCheck (s : State) (v : Word) : Verdict := checkThat ((s.ctOf v).st != .free) (s.faultAt cLAUNCH_SHAPE v)

/-- The wait while an entry is ACTIVE. -/
def State.ctIdle (s : State) (v : Word) : Verdict := if (s.ctOf v).st = .active then .wait none else .go

/-- The translations of STATUS and DEST held for an instance, or its end where one fails: where STATUS fails the status word is
not written, where DEST alone fails R361 and R362 differ, and either may be (assumption 25). An uncorrectable error in a walk
kills, and the instance, which then holds no translation, stands still until the halt discards it (R209, R327). -/
def State.ctHold (s : State) (c e : Nat) : State :=
  let x := s.ct c e
  let kill (s : State) : State := s.killByEngine (ctTile c e) 4 0 cECC
  let hold (s : State) (ps : List (Nat × Nat)) : State := s.modCt c e fun x => { x with dstPages := some ps }
  match s.holdPages c (slicePages x.dest x.len), s.holdPages c (slicePages x.status 8) with
  | .ok d, .ok a => hold s (d ++ a)
  | .error k, .ok a =>
    if k = cECC then kill s
    else (hold { s with choice := s.choice + 1 } a).ctAbort c e 7 true (Config.abortStatus s.choice)
  | .ok _, .error k => if k = cECC then kill s else (hold s []).ctAbort c e 7 true false
  | .error j, .error k => if j = cECC ∨ k = cECC then kill s else (hold s []).ctAbort c e 7 true false

/-- The next instance of an entry (R361). -/
def State.ctready (s : State) (v : Word) : State :=
  let c := s.curCluster
  let e := ctIndex s.curId v
  let pend := (s.ct c e).pendAbort
  let f := s.startOp v false (.coll (BitVec.ofNat 9 e))
  let s := (f.2.modCt c e fun x =>
    { x.ended with st := .active, gen := x.gen + 1, pendAbort := false, op := f.1, start := f.2.cycle }).ctHold c e
  if pend then s.ctAbort c e 5 false true else s

/-- The handle in a collective operand (R360). -/
def ctHandle (v : Word) : Word := v &&& 0xFFFF

/-- CTREADY (R360, R361). -/
def execCtready (a : SOp) (s : State) : Result :=
  issueSlot (.ctready a)
    (fun s => ((s.handleCheck (ctHandle (s.readS a))).andThen (s.ctCheck (s.readS a))).andThen (s.ctIdle (s.readS a)))
    (fun s => s.ctready (s.readS a)) s

/-- CTWAIT (R367). -/
def execCtwait (a : SOp) (s : State) : Result :=
  issueSlot (.ctwait a) (fun s => (s.ctCheck (s.readS a)).andThen (s.ctIdle (s.readS a))) (fun s => s) s

/-- CTABORT (R368). -/
def execCtabort (a : SOp) (s : State) : Result :=
  issueSlot (.ctabort a) (fun s => s.ctCheck (s.readS a))
    (fun s => s.ctAbort s.curCluster (ctIndex s.curId (s.readS a)) 5 true true) s

/-! ### The contribution (R361, R364) -/

/-- Elements of width w of bytes. -/
def byteElems (w : Nat) (bs : List Byte) : List Nat :=
  let x := leNat bs
  (List.range (8 * bs.length / w)).map fun i => x / 2 ^ (w * i) % 2 ^ w

/-- Bytes of elements of width w. -/
def elemBytes (w : Nat) (xs : List Nat) : List Byte := leBytes (w * xs.length / 8) (packNat w xs)

/-- Elements cut into blocks of 32. -/
def blocks32 : Nat → List Nat → List (List Nat)
  | 0, _ => []
  | n + 1, xs => xs.take 32 :: blocks32 n (xs.drop 32)

/-- ceil (log2 v) of a positive FP32 code. -/
def ceilLog2 (code : Nat) : Int :=
  match fval .fp32 code with
  | .fin _ m e => if m = 2 ^ m.log2 then m.log2 + e else m.log2 + e + 1
  | _ => 0

/-- The scale of a block (R364). -/
def blockScale (ys : List Nat) : Nat :=
  let mags := (ys.map fun y => y % 2 ^ 31).filter fun y => decide (y < 0x7F800000)
  let m := mags.foldl max 0
  if m = 0 then 127 else (max 0 (min 254 (ceilLog2 m - 3 + 127))).toNat

/-- A contribution of a COMP round as 32 bits: an FP32 code, or one of the two magnitudes beyond FP32 that value(q) times
the scale can reach, 2^128 and 2^129, in codes that no contribution has else (R364; assumption 24). -/
def compCode (x : FVal) : Nat :=
  match x with
  | .fin n m e =>
    if m ≠ 0 ∧ 128 ≤ (m.log2 : Int) + e then (if n then 2 ^ 31 else 0) + 0x7F800000 + ((m.log2 : Int) + e - 128).toNat
    else (toFloatF .fp32 .rne x).1
  | _ => (toFloatF .fp32 .rne x).1

/-- The exact value of a contribution of a COMP round. -/
def compVal (c : Nat) : FVal :=
  if c % 2 ^ 31 < 0x7F800000 then fval .fp32 c
  else .fin (c / 2 ^ 31 % 2 == 1) 1 (128 + (c % 2 ^ 31 - 0x7F800000 : Nat))

/-- An element of a compressed block: the contribution and the new error feedback (R364). -/
def compressElem (e y : Nat) : Nat × Nat :=
  let scaled (v : FVal) (k : Int) : FVal := match v with
    | .fin n m x => .fin n m (x + k)
    | v => v
  let q := (toFloatF .e3m0 .rne (scaled (fval .fp32 y) (127 - e))).1
  let x := scaled (fval .e3m0 q) (e - 127)
  let back : Nat := match fval .fp32 y with
    | .fin _ _ _ => (addVal .fp32 .rne (fval .fp32 y) x.neg).1
    | _ => 0
  (compCode x, back)

/-- A block of a contribution compressed: contributions and new error feedback. -/
def compressBlock (ys : List Nat) : List (Nat × Nat) := ys.map (compressElem (blockScale ys))

/-- A whole contribution compressed, from LOCAL and EF. -/
def compress (loc ef : List Byte) : List Byte × List Byte :=
  let ys := List.zipWith (fun a b => (fAdd .fp32 .rne a b).1) (byteElems 32 loc) (byteElems 32 ef)
  let r := (blocks32 (ys.length / 32) ys).flatMap compressBlock
  (elemBytes 32 (r.map Prod.fst), elemBytes 32 (r.map Prod.snd))

/-- The instance of an operation: its entry, once its accesses may perform. -/
def State.ctOp (s : State) (c id : Nat) : Option (Op × Nat) :=
  match s.op? c id with
  | some o =>
    match o.kind with
    | .coll e => if (s.ct c e.toNat).runs ∧ (s.ct c e.toNat).op = id ∧ s.opQuiet o id then some (o, e.toNat) else none
    | _ => none
  | none => none

/-- The granules that a contribution is made of: those of LOCAL, then in a COMP round those of EF. -/
def CtEntry.reads (x : CtEntry) : Nat := if x.comp then 2 * (x.len / 64) else x.len / 64

/-- The address of a granule of a contribution. -/
def CtEntry.readAddr (x : CtEntry) (g : Nat) : Nat :=
  if g < x.len / 64 then x.loc + 64 * g else x.ef + 64 * (g - x.len / 64)

/-- One granule of LOCAL or EF read, once (R370). -/
def State.ctReadGran (s : State) (c id g : Nat) : State :=
  match s.ctOp c id with
  | none => s
  | some (o, e) =>
    let x := s.ct c e
    if x.contrib.isNone ∧ g < x.reads ∧ (ffind o.buf g).isNone then
      match s.readAt (ctTile c e) (x.readAddr g) 64 with
      | .error k => s.ctFault c e k
      | .ok bs => s.modOp c id fun o => { o with buf := fput o.buf g (granOf bs) }
    else s

/-- The bytes of n granules that an operation has read, from granule a on. -/
def Op.bufFrom (o : Op) (a n : Nat) : List Byte := (List.range n).flatMap fun g => granBytes (fget 0 o.buf (a + g))

/-- Chunks of 256 bytes of a block. -/
def CtEntry.chunks (x : CtEntry) : Nat := (x.len + 255) / 256

/-- Bytes of chunk k. -/
def chunkOf (bs : List Byte) (k : Nat) : List Byte := (bs.drop (256 * k)).take 256

/-- Two contributions of a COMP round, or a sum and one, added with one rounding (R361, R364). -/
def compAdd (first : Bool) (p own : Nat) : Nat :=
  (addVal .fp32 .rne (if first then compVal p else fval .fp32 p) (compVal own)).1

/-- A sum so far and the own contribution of a chunk added. -/
def CtEntry.addOwn (x : CtEntry) (p own : List Byte) : List Byte :=
  if x.comp then elemBytes 32 (List.zipWith (compAdd (x.pos == 1)) (byteElems 32 p) (byteElems 32 own))
  else combineBytes x.ty .sum .rne p own

/-- Chunk k of the sum up to this position, once its parts are there (R361). -/
def CtEntry.sumChunk (x : CtEntry) (k : Nat) : Option (List Byte) :=
  match x.contrib with
  | none => none
  | some own =>
    if x.pos = 0 then some (chunkOf own k)
    else (ffind x.parts k).map fun p => x.addOwn p (chunkOf own k)

/-- The instance that a port runs for an ended rank is over once all of its sums have gone on (R316; assumption 89). -/
def State.ctProxyDone (s : State) (c e : Nat) : State :=
  let x := s.ct c e
  if x.proxy.isSome && decide (x.chunks ≤ x.fwd.length) then s.modCt c e CtEntry.ended else s

/-- What is ready goes on to the next position (R361). -/
def State.ctForward (s : State) (c e : Nat) : State :=
  let x := s.ct c e
  if !x.runs || decide (x.peers.length ≤ x.pos + 1) then s
  else
    let ready := (List.range x.chunks).filterMap fun k =>
      if x.fwd.contains k then none else (x.sumChunk k).map fun b => (k, b)
    let next := x.peers.getD (x.pos + 1) (0, 0)
    if ready.isEmpty then s
    else if s.reach c next.1 = .lost then s.ctAbort c e 4 true true
    else ((ready.foldl (fun s r => s.post c e next x.gen (.partial_ r.1 r.2)) s).modCt c e fun x =>
      { x with fwd := x.fwd ++ ready.map Prod.fst }).ctProxyDone c e

/-- The contribution read and, with COMP, compressed with its error feedback written; LOCAL completes (R361, R364). Where a
translation of EF fails no granule of it is written (assumption 24). -/
def State.ctLocal (s : State) (c id : Nat) : State :=
  match s.ctOp c id with
  | none => s
  | some (_, e) =>
    let x := s.ct c e
    let t := ctTile c e
    if x.contrib.isSome then s
    else
      let s := (List.range x.reads).foldl (fun s g => s.ctReadGran c id g) s
      match s.ctOp c id with
      | none => s
      | some (o, _) =>
        let own := o.bufFrom 0 (x.len / 64)
        let ready (s : State) (bs : List Byte) : State :=
          (((s.modOp c id fun o => { o with buf := [] }).modCt c e fun x => { x with contrib := some bs }).finishLocal c id
            0).ctForward c e
        if (List.range x.reads).any fun g => (ffind o.buf g).isNone then s
        else if !x.comp then ready s own
        else
          let r := compress own (o.bufFrom (x.len / 64) (x.len / 64))
          match s.writeSpan id t (pieces x.ef r.2) with
          | .error k => s.ctFault c e k
          | .ok s => ready s r.1

/-- LOCAL_COMPLETION (R230, R361): of a copy, or of a collective contribution. -/
def execLocalCompletion (c : BitVec 9) (op : Nat) (s : State) : Result :=
  .next (match s.op? c.toNat op with
    | none => s
    | some o =>
      match o.kind with
      | .coll _ => s.ctLocal c.toNat op
      | _ => s.copyLocal c.toNat op)

/-- Whether the rest of a contribution holds a damaged word. -/
def State.ctDamaged (s : State) (t : Nat) (x : CtEntry) (o : Op) : Bool :=
  (List.range x.reads).any fun g => (ffind o.buf g).isNone && match s.readAt t (x.readAddr g) 64 with
    | .error e => e == cECC
    | .ok _ => false

/-- UNCORRECTABLE_ERROR (R219, R326, R366, R392): a copy or a contribution that still meets a damaged word kills its
context; a copy ends with ECC in its handle. -/
def execUncorrectableError (c : BitVec 9) (op : Nat) (s : State) : Result :=
  .next (match s.ctOp c.toNat op with
    | some (o, e) =>
      let x := s.ct c.toNat e
      if x.contrib.isNone && s.ctDamaged (ctTile c.toNat e) x o then s.ctFault c.toNat e cECC else s
    | none => s.copyDamage c.toNat op)

/-! ### The final result and the commit point (R361, R362) -/

/-- The chunks of the final result that the root can form. -/
def CtEntry.sums (x : CtEntry) : List (Nat × List Byte) :=
  (List.range x.chunks).filterMap fun k => (x.sumChunk k).map fun b => (k, b)

/-- Whether an entry is the root of its ring. -/
def CtEntry.root (x : CtEntry) : Bool := x.peers.length == x.pos + 1

/-- The root multicasts the final result (R362). -/
def State.ctMulticast (s : State) (c e : Nat) : State :=
  let x := s.ct c e
  x.others.foldl (fun s p => x.sums.foldl (fun s r => s.post c e p x.gen (.final r.1 r.2)) s) s

/-- The commit point: STAGE holds every byte of the final result, which is taken from there; an abort is ignored from
now on. The root's final result is formed and goes to the others (R362). What a translation fault of that read of STAGE does
R362 does not say; the model takes it as one of R366's, before the commit point (assumption 25). -/
def State.ctCommit (s : State) (c e : Nat) : State :=
  let x := s.ct c e
  if !x.runs || x.committed || !(List.range (x.len / 64)).all fun g => x.staged.contains g then s
  else
    match s.readSpan (ctTile c e) (granCuts x.stage x.len) with
    | .error k => s.ctFault c e k
    | .ok bs =>
      let s := (s.modOp c x.op fun o => { o with
        done := []
        buf := (List.range (x.len / 64)).map fun g => (g, granOf ((bs.drop (64 * g)).take 64)) }).modCt c e fun x =>
        { x with committed := true }
      if x.root then s.ctMulticast c e else s

/-- A granule of the final result on its way into STAGE: at the root out of its sums, elsewhere as it arrived. -/
def CtEntry.finalGran (x : CtEntry) (g : Nat) : Option Granule :=
  if x.root then (x.sumChunk (g / 4)).map fun b => granOf ((b.drop (64 * (g % 4))).take 64) else ffind x.stageIn g

/-- One granule of the final result enters STAGE, once (R362, R370); an ended rank has no STAGE (assumption 89). -/
def State.ctStageGran (s : State) (c e g : Nat) : State :=
  let x := s.ct c e
  if !x.runs || x.proxy.isSome || x.committed || decide (x.len ≤ 64 * g) || x.staged.contains g || !s.ctQuiet c e then s
  else match x.finalGran g with
    | none => s
    | some v =>
      match s.writeAt x.op (ctTile c e) (x.stage + 64 * g) (granBytes v) with
      | .error f => s.ctFault c e f
      | .ok s => (s.modCt c e fun x => { x with staged := g :: x.staged }).ctCommit c e

/-- What has come of the final result enters STAGE. -/
def State.ctStageAll (s : State) (c e : Nat) : State :=
  (List.range ((s.ct c e).len / 64)).foldl (fun s g => s.ctStageGran c e g) s

/-- ROOT_FINAL_RESULT (R361, R362): the root forms the final result in its STAGE and multicasts it; the port that runs the
entry of an ended root multicasts it without a STAGE (R316; assumption 89). -/
def execRootFinalResult (c : BitVec 9) (e : BitVec 9) (s : State) : Result :=
  .next (
    let x := s.ct c.toNat e.toNat
    if !(x.root && x.sums.length == x.chunks) then s
    else if x.proxy.isSome then (s.ctMulticast c.toNat e.toNat).modCt c.toNat e.toNat CtEntry.ended
    else s.ctStageAll c.toNat e.toNat)

/-! ### Ranks that have ended (R316) -/

/-- The entry with which an ended rank at position p of a peer's ring takes part in the peer's round: the peer's round and ring,
a contribution that no rule gives, nothing of the rank's own memory, handles and records (R316; assumption 89). -/
def CtEntry.proxyAt (x : CtEntry) (p op choice : Nat) (l : BitVec 6 × BitVec 4) : CtEntry :=
  { CtEntry.reset with
    st := .active
    len := x.len
    ty := x.ty
    comp := x.comp
    pos := p
    peers := x.peers
    gen := x.gen
    op := op
    dstPages := some []
    contrib := some ((List.range x.len).map (Config.endedContribution choice))
    proxy := some l }

/-- Whether the rank of tile u that has ended may take part in the round of an entry: all participants of the round are ranks of
one launch, and the rank's own entry is FREE, or IDLE with the generation before the round's (R239, R316, R365). -/
def State.ctMayJoin (s : State) (c e u f : Nat) : Bool :=
  let x := s.ct c e
  let y := s.ct (u / 4) f
  let v := (s.tile (ctTile c e)).part.toNat
  let k := (s.tile (ctTile c e)).slot.toNat
  let all := s.rankTiles v k
  x.runs && x.proxy.isNone && (x.peers.all fun r => all.any fun t => s.physId t == r.1.toNat) &&
    s.rankEnded v k (s.rankOf v k u) && ctTile (u / 4) f == u &&
    (y.st == .free || y.st == .idle && y.gen + 1 == x.gen)

/-- A rank that has ended counts as present in the round that a peer of its launch runs: its port takes part in its place
(R239, R316; assumption 89). An abort kept for the round ends its part at once (R361). -/
def State.ctEndedRank (s : State) (c e p : Nat) : State :=
  let x := s.ct c e
  match x.peers[p]? with
  | none => s
  | some q =>
    let u := q.1.toNat % 2048
    let f := q.2.toNat
    if !s.ctMayJoin c e u f then s
    else if (s.ct (u / 4) f).pendAbort then s.modCt (u / 4) f fun y => { y with gen := x.gen, pendAbort := false }
    else
      let i := s.freshId
      let l := ((s.tile (ctTile c e)).part, (s.tile (ctTile c e)).slot)
      ({ i.2 with choice := s.choice + 1 }.modCt (u / 4) f fun _ => x.proxyAt p i.1 s.choice l).ctForward (u / 4) f

/-- One granule of DEST written after the commit point (R362, R370). -/
def State.ctWriteGran (s : State) (c e g : Nat) : State :=
  let x := s.ct c e
  match s.op? c x.op with
  | none => s
  | some o =>
    if x.runs ∧ x.committed ∧ 64 * g < x.len ∧ !o.done.contains g then
      (s.heldWrite x.op (ctTile c e) (x.dstPages.getD []) (x.dest + 64 * g) (granBytes (fget 0 o.buf g))).modOp c x.op fun o =>
        { o with done := g :: o.done }
    else s

/-- A granule of DEST written for an operation that is a collective. -/
def State.ctOpWrite (s : State) (c id g : Nat) : State :=
  match s.ctOp c id with
  | none => s
  | some (_, e) => s.ctWriteGran c e g

/-- COMMIT_POINT (R362, R363): the rest of the final result enters STAGE; from the commit point on STAGE reaches DEST, then
the status word, REMOTE and the event record. -/
def execCommitPoint (c : BitVec 9) (e : BitVec 9) (s : State) : Result :=
  .next (
    let c := c.toNat
    let e := e.toNat
    let s := s.ctStageAll c e
    let x := s.ct c e
    if !x.runs || !x.committed then s
    else ((List.range (x.len / 64)).foldl (fun s g => s.ctWriteGran c e g) s).ctEnd c e false 0 true)

/-! ### Arrivals (R347, R365, R366) -/

/-- The cluster at whose port a packet arrives. -/
def msgCluster (m : CtMsg) : Nat := m.dst.toNat % 2048 / 4

/-- Whether a packet from the rack may enter: its destination is a tile of this module, in a partition of the same nonzero
fabric domain as the sender's (R355, R388; assumption 55). -/
def State.mayEnter (s : State) (m : CtMsg) : Bool :=
  m.dst.toNat / 2048 == s.modl.pos.toNat && match (s.cluster (msgCluster m)).owner with
    | none => false
    | some v => (s.part v.toNat).domain != 0 && Config.peerDomain s.turnNo m.src.toNat == (s.part v.toNat).domain

/-- The packet that arrives, with the state in which it is no longer on its way and the one in which it is still to be
presented; a packet from the rack waits in the module from then on. Only the first packet of a flow is presented (R347 to
R349). -/
def State.ctTake (s : State) : CtSource → Option (CtMsg × State × State)
  | .inFlight k =>
    match s.ctMsgs[k]? with
    | none => none
    | some m =>
      if (s.ctMsgs.take k).any (sameFlow m) then none else some (m, { s with ctMsgs := s.ctMsgs.eraseIdx k }, s)
  | .rack m =>
    if !s.mayEnter m then none
    else
      let kept : State := { s with ctMsgs := s.ctMsgs ++ [m] }
      some (m, if s.ctMsgs.any (sameFlow m) then kept else s, kept)

/-- Whether a packet is refused at its port whatever it holds: the arrival buffer is full, or an earlier packet of its flow
waits (R348). -/
def State.ctRefusedHere (s : State) (src : CtSource) (m : CtMsg) : Bool :=
  s.bufferFull (msgCluster m) || match src with
    | .inFlight _ => false
    | .rack _ => s.ctMsgs.any (sameFlow m)

/-- A GEN_REFUSED answer for an instance that is still ACTIVE: of its generation, and the very instance where the answer tells
(R365, R366). -/
def State.ctRefused (s : State) (c e : Nat) (gen : BitVec 16) (inst : Option Nat) : State :=
  if (s.ct c e).gen = gen ∧ inst.all (· == (s.ct c e).op) then s.ctAbort c e 9 true true else s

/-- The granules of chunk k of a final result. -/
def chunkGrans (k : Nat) (bs : List Byte) : List (Nat × Granule) :=
  (List.range (bs.length / 64)).map fun i => (4 * k + i, granOf ((bs.drop (64 * i)).take 64))

/-- A data packet applied to an entry ACTIVE on its generation: a partial sum from the position below, a part of the
final result from the root, whose granules are then on their way into STAGE. -/
def State.ctApply (s : State) (c e : Nat) (m : CtMsg) : State :=
  match m.kind with
  | .partial_ k bs => (s.modCt c e fun x => { x with parts := fput x.parts k bs }).ctForward c e
  | .final k bs => s.modCt c e fun x => { x with stageIn := (chunkGrans k bs).foldl (fun f g => fput f g.1 g.2) x.stageIn }
  | _ => s

/-- A GEN_REFUSED response to the origin of a packet: at once within the module, else over the rack ring. -/
def State.ctRefuse (s : State) (m : CtMsg) : State :=
  if m.src.toNat / 2048 = s.modl.pos.toNat then s.ctRefused (m.src.toNat % 2048 / 4) m.srcEntry.toNat m.gen m.inst
  else s.post (msgCluster m) m.dstEntry.toNat (m.src, m.srcEntry) m.gen .genRefused

/-- What a port does with a data packet (R365); `keep` is the state in which the packet is still to be presented. -/
def State.ctArrive (s keep : State) (m : CtMsg) : State :=
  let c := msgCluster m
  let e := m.dstEntry.toNat
  let x := s.ct c e
  let d := m.gen - x.gen
  if x.st = .free ∨ !x.peers.any fun p => p.1 == m.src then s
  else if d.toNat ≥ 0x8000 then s
  else if d = 0 then (if x.runs then s.ctApply c e m else s)
  else if d = 1 then keep
  else s.ctRefuse m

/-- CT_PACKET_ARRIVAL (R347, R348, R365): a data packet or a GEN_REFUSED response at its port. -/
def execCtPacketArrival (src : CtSource) (s : State) : Result :=
  .next (match s.ctTake src with
    | none => s
    | some (m, x, keep) =>
      match m.kind with
      | .abort => s
      | .genRefused => x.ctRefused (msgCluster m) m.dstEntry.toNat m.gen none
      | _ => if s.ctRefusedHere src m then keep else x.ctArrive keep m)

/-- ABORT_NOTICE (R366): for the ACTIVE generation the abort applies, for the next one it is kept, else ignored. -/
def execAbortNotice (src : CtSource) (s : State) : Result :=
  .next (match s.ctTake src with
    | none => s
    | some (m, x, keep) =>
      match m.kind with
      | .abort =>
        let c := msgCluster m
        let e := m.dstEntry.toNat
        let y := x.ct c e
        if s.ctRefusedHere src m then keep
        else if y.st = .free ∨ !y.peers.any fun p => p.1 == m.src then x
        else if m.gen = y.gen then x.ctAbort c e 5 false true
        else if m.gen = y.gen + 1 then x.modCt c e fun y => { y with pendAbort := true }
        else x
      | _ => s)

/-- CT_TIMEOUT (R366): TIMEOUT microseconds after CTREADY, at 1050 cycles each (R5). -/
def execCtTimeout (c : BitVec 9) (e : BitVec 9) (s : State) : Result :=
  .next (
    let x := s.ct c.toNat e.toNat
    if x.timeout ≠ 0 ∧ x.start + 1050 * x.timeout ≤ s.cycle then s.ctAbort c.toNat e.toNat 6 true true else s)

/-- A PEER_LOST response to a packet aborts the instance that sent it, if that instance still runs: no later one of the entry
(R366). -/
def State.peerLost (s : State) (m : CtMsg) : State :=
  let c := m.src.toNat % 2048 / 4
  if m.inst = some (s.ct c m.srcEntry.toNat).op then s.ctAbort c m.srcEntry.toNat 4 true true else s

/-- Every packet toward a module that has no acknowledgement is answered PEER_LOST by this module's own stations (R353). Whether
R353 means the packets routed through that module to positions beyond it as well it does not say; the model answers those
addressed to it alone (assumption 42). -/
def State.answerLost (s : State) (pos : Nat) : State :=
  let gone (m : CtMsg) : Bool := m.dst.toNat / 2048 == pos
  let lost := (s.modl.outRack ++ s.modl.held).filter gone
  lost.foldl State.peerLost (s.modMod fun m => m.dropPackets gone)

/-- Whether packet k of those this module has sent over the rack and that have no acknowledgement is one of generation `gen` of
an entry, and the first of its flow to wait (R347, R353). -/
def State.awaitsAnswer (s : State) (c e : Nat) (gen : BitVec 16) (k : Nat) : Bool :=
  match s.modl.outRack[k]? with
  | none => false
  | some m =>
    m.src.toNat % 2048 / 4 == c && m.srcEntry.toNat == e && m.gen == gen && !(s.modl.outRack.take k).any (sameFlow m)

/-- PEER_LOST_RESPONSE (R353, R355, R366): another module's station answers one packet of the instance. Where more than one
waits for an answer, which of them comes first is open (assumption 42). -/
def execPeerLostResponse (c : BitVec 9) (e : BitVec 9) (gen : BitVec 16) (s : State) : Result :=
  .next (
    let l := (List.range s.modl.outRack.length).filter (s.awaitsAnswer c.toNat e.toNat gen)
    match l[Config.lostAnswer s.turnNo % l.length]? with
    | none => s
    | some k =>
      match s.modl.outRack[k]? with
      | none => s
      | some m => (s.modMod fun x => x.dropSent k).peerLost m)

/-- GEN_REFUSED_RESPONSE (R365, R366). -/
def execGenRefusedResponse (c : BitVec 9) (e : BitVec 9) (gen : BitVec 16) (s : State) : Result :=
  .next (s.ctRefused c.toNat e.toNat gen none)

end Sys2Proof.Machine
end

