-- ==== Sys2Proof/Machine/Dictionary.lean ====
section
/-! DEFINITION. DLOAD, DSEL, FFENCE, the filling of a bank, and the debug latch (R172 to R187). -/

namespace Sys2Proof.Machine

/-- The tile with a bank replaced. -/
def Tile.setBank (x : Tile) (k : Bool) (b : DictBank) : Tile := if k then { x with bank1 := b } else { x with bank0 := b }

/-- The tag a DLOAD of n entries at an address writes (R186). -/
def dictTag (n : Nat) (a : Word) (image : BitVec 32) : Word :=
  BitVec.ofNat 64 (2 ^ 63 + n * 2 ^ 51 + a.toNat / 16 % 2 ^ 19 * 2 ^ 32 + image.toNat)

/-- The first damaged byte of an image, 64-bit word by word. -/
def State.imageDamage (s : State) (a : Word) (n : Nat) : Option Word :=
  let v := spadView a.toNat
  ((List.range (2 * n)).find? fun k => s.spadBad s.curId (linOf v.1 (v.2 + 8 * k)) 8).map fun k =>
    a + BitVec.ofNat 64 (8 * k)

/-- Whether a bank already holds the image that a DLOAD names (R174). -/
def State.resident (s : State) (k : Bool) (a n : Word) : Bool :=
  (s.cur.bank k).tag == dictTag n.toNat a s.cur.imageId

/-- The checks of DLOAD (R174, R182). A damaged word that stands in the image at issue kills then (assumption 31). -/
def State.dloadCheck (s : State) (k : Bool) (a n : Word) : Verdict :=
  if n.toNat > 2048 then s.faultAt cVIEW_RANGE (a + 32768)
  else if n = 0 then .go
  else if a.toNat % 64 ≠ 0 then s.faultAt cALIGN a
  else match outsideSpad a.toNat (16 * n.toNat) with
    | some x => s.faultAt cVIEW_RANGE (BitVec.ofNat 64 x)
    | none =>
      if s.resident k a n then .go
      else match s.imageDamage a n.toNat with
        | some x => s.faultAt cECC x
        | none => .go

/-- The damaged entries of a bank of a tile. -/
def State.damagedEntries (s : State) (t : Nat) (k : Bool) : List Nat :=
  s.modl.bad.filterMap fun p => match p with
    | .dict u w => if u.toNat = t ∧ decide (w / 4096 = 1) = k then some (w / 2 % 2048) else none
    | _ => none

/-- A bank with new contents; a load of the bank that was active at its issue opens a load window that ends eight issue
cycles after the DLOAD at cycle m (R179). -/
def State.fillBank (s : State) (t : Nat) (k : Bool) (b : DictBank) (m : Nat) (opens : Bool) : State :=
  let bad := s.damagedEntries t k
  s.modTile t fun x =>
    let y := x.setBank k b
    if opens then { y with loadWins := ⟨k, x.bank k, bad, m + 8⟩ :: x.loadWins } else y

/-- DLOAD at commit (R174): an empty bank at once, a resident one nothing, else a fill during the stall. Damaged words of a
bank that becomes undefined stay damaged (R182; assumption 65). -/
def State.dload (s : State) (k : Bool) (a n : Word) : State :=
  if n = 0 then s.fillBank s.curId k DictBank.reset s.now (s.cur.dsel == k)
  else if s.resident k a n then s
  else
    (s.modCur fun x => { x with
      fill := some ⟨k, a.toNat, n.toNat, dictTag n.toNat a x.imageId, [], x.dsel == k⟩ }).modIss fun i =>
      { i with cost := i.cost + 8 + (n.toNat + 3) / 4 }

/-- DLOAD (R174). -/
def execDload (k : Bool) (a b : SOp) (s : State) : Result :=
  issueSlot (.dload k a b) (fun s => s.dloadCheck k (s.readS a) (s.readS b))
    (fun s => s.dload k (s.readS a) (s.readS b)) s

/-- DSEL (R176, R178). -/
def execDsel (k : Bool) (s : State) : Result :=
  issueSlot (.dsel k) noCheck
    (fun s => s.modCur fun x => if x.dsel = k then x else { x with dsel := k, selLast := some (x.th.bank.n + 8) }) s

/-- FFENCE (R96, R177, R178): every open window ends, the bundles after it are fetched anew. -/
def execFfence (s : State) : Result :=
  issueSlot .ffence noCheck
    (fun s => (s.modCur Tile.newGroup).modIss fun k => { k with control := .refetch, cost := k.cost + 2 }) s

/-! ### The fill (R173, R175) -/

/-- The granules of an image. -/
def Fill.granules (f : Fill) : Nat := (16 * f.count + 63) / 64

/-- The first damaged byte of granule g of an image, word by word, within the image's entries. -/
def State.fillDamage (s : State) (t g : Nat) (f : Fill) : Option Nat :=
  let v := spadView f.addr
  ((List.range 8).find? fun k =>
    decide (64 * g + 8 * k < 16 * f.count) && s.spadBad t (linOf v.1 (v.2 + 64 * g + 8 * k)) 8).map fun k =>
      f.addr + 64 * g + 8 * k

/-- One granule of the image read, once, during the stall: after the stores of the DLOAD's own bundle (assumption 79). A damaged
word kills, with its address in the stop record (R175, R182). -/
def State.fillRead (s : State) (t g : Nat) : State :=
  match (s.tile t).fill with
  | none => s
  | some f =>
    if (s.tile t).alive ∧ g < f.granules ∧ (ffind f.got g).isNone then
      match s.fillDamage t g f with
      | some a => s.killTile t cECC 0 (BitVec.ofNat 64 a)
      | none =>
      let v := spadView f.addr
      let r := s.readView t v.1 (v.2 + 64 * g) 64
      r.2.modTile t fun x => { x with fill := some { f with got := fput f.got g (granOf r.1) } }
    else s

/-- The entries of an image from its granules (R173). -/
def Fill.entries (f : Fill) : FMap Template :=
  (List.range f.count).map fun e => (e, (fget 0 f.got (e / 4)).extractLsb' (128 * (e % 4)) 128)

/-- The damaged words of a bank that has been written whole are whole again (R392). -/
def State.cleanBank (s : State) (t : Nat) (k : Bool) : State :=
  s.clean fun p => match p with
    | .dict u w => u.toNat == t && decide (w / 4096 = if k then 1 else 0)
    | _ => false

/-- The fill completes: what is left of the image is read, and the bank and its tag are written, all at once (R174; assumption
82). -/
def State.fillDone (s : State) (t : Nat) : State :=
  match (s.tile t).fill with
  | none => s
  | some f =>
    let s := (List.range f.granules).foldl (fun s g => s.fillRead t g) s
    if !(s.tile t).alive then s
    else match (s.tile t).fill with
      | none => s
      | some f =>
        ((s.fillBank t f.bank ⟨f.entries, f.tag, none⟩ (((s.tile t).th.bankAt .tl0).n - 1) f.opens).modTile t fun x =>
          { x with fill := none }).cleanBank t f.bank

/-- DLOAD_FILL (R174, R175). -/
def execDloadFill (t : BitVec 11) (s : State) : Result := .next (s.fillDone t.toNat)

/-! ### The debug block (R187, R391) -/

/-- A latched entry, damaged words as they are stored (R187; assumption 82); an undefined one reads WOP 0x3FF (R79), with zeros
beside it (assumption 31). -/
def Tile.entryWord (x : Tile) (v : Word) : BitVec 128 :=
  ((x.bank (v.getLsbD 11)).entry (v.extractLsb' 0 11).toNat).getD (0x3FF#128 <<< 118)

/-- DDIDX_WRITE (R187): the entry is latched where Lovage admits the request (R391). -/
def execDdidxWrite (t : BitVec 11) (x : DebugWrite) (s : State) : Result :=
  .next (if x.granted then s.modTile t.toNat fun y => { y with ddat := y.entryWord x.value } else s)

/-- The management address of a tile's debug block (R391). -/
def debugBase (t : BitVec 11) : Nat := 0x01000000 + 0x100 * t.toNat

/-- The debug register of a tile at an offset (R187); DDIDX is write only and reads zero (R9). -/
def State.debugReg (s : State) (t off : Nat) : Word :=
  let x := s.tile t
  match off with
  | 0x48 => (x.ddat.extractLsb' 0 32).setWidth 64
  | 0x50 => (x.ddat.extractLsb' 32 32).setWidth 64
  | 0x58 => (x.ddat.extractLsb' 64 32).setWidth 64
  | 0x60 => (x.ddat.extractLsb' 96 32).setWidth 64
  | 0x68 => x.dictst x.th.bank.n
  | 0x70 => x.bank0.tag
  | 0x78 => x.bank1.tag
  | _ => 0

/-- What a read over the management link returns at an address of the debug blocks, where it is admitted; reading changes
nothing (R187, R391). -/
def State.debugRead (s : State) (a : Nat) (granted : Bool) : Option Word :=
  if granted ∧ 0x01000000 ≤ a ∧ a < 0x01000000 + 0x100 * 2048 then
    some (s.debugReg ((a - 0x01000000) / 0x100) ((a - 0x01000000) % 0x100))
  else none

end Sys2Proof.Machine
end

