-- ==== Sys2Proof/Machine/Windows.lean ====
section
/-! DEFINITION. Window transfers: their checks at issue, their packets, acceptance and application at the target's port, and their completions (R240 to R249, R264, R347, R348). -/

namespace Sys2Proof.Machine

/-! ### At issue (R240, R241) -/

/-- Whether a window value names an open window of the tile (R262). -/
def Tile.windowOk (x : Tile) (wv : Word) : Bool :=
  let d := x.dir (wv.extractLsb' 0 8).toNat
  wv.getLsbD 16 && d.isOpen && d.gen == wv.extractLsb' 8 8

/-- The window value that TARGET carries. -/
def targetWindow (t : Word) : Word := (t >>> 16) &&& 0x1FFFF

/-- The transfer of a descriptor (R240). `esz` is the element size. -/
def State.winP (s : State) (a : DOp) (kind : WKind) (esz : Nat) (f : Fmt) (comb : Comb) (rm : Rm) : WinP :=
  let x := s.cur
  let tg := s.readD a 1
  let ctl := s.readD a 3
  let rank := tg.extractLsb' 0 16
  { kind := kind, laddr := (s.readD a 0).toNat,
    target := BitVec.ofNat 11 ((s.rankTile x.part.toNat x.slot.toNat rank.toNat).getD s.curId), rank := rank,
    wid := tg.extractLsb' 16 8, gen := tg.extractLsb' 24 8, off := ((s.readD a 2).extractLsb' 0 32).toNat,
    len := if kind = .cas then esz else (ctl.extractLsb' 0 32).toNat, esz := esz, tag := ctl.extractLsb' 40 8, f := f,
    comb := comb, rm := rm }

/-- EVT of a window transfer's control word. -/
def State.winEvt (s : State) (a : DOp) : Bool := (s.readD a 3).getLsbD 32

/-- The size of the local extent (R241). -/
def WinP.extent (p : WinP) : Nat :=
  match p.kind with
  | .gac => 2 * p.len
  | .cas => 3 * p.esz
  | _ => p.len

/-- The checks of a transfer (R241). -/
def State.winCheck (s : State) (h : Word) (a : DOp) (p : WinP) : Verdict :=
  let bad (x : Nat) : Bool := x % p.esz != 0
  (s.handleCheck h).andThen
    (if !s.cur.windowOk (targetWindow (s.readD a 1)) || !decide (p.rank.toNat < s.cur.nrank.toNat) then
      s.faultAt cWINDOW_ID (s.readD a 1)
    else if bad p.laddr then s.faultAt cALIGN (BitVec.ofNat 64 p.laddr)
    else if bad p.off then s.faultAt cALIGN (BitVec.ofNat 64 p.off)
    else if p.kind ≠ .cas ∧ (bad p.len ∨ p.len > 0x80000000) then s.faultAt cALIGN (BitVec.ofNat 64 p.len)
    else
      match (if p.extent = 0 then none else outside p.laddr p.extent) with
      | some x => s.faultAt cVIEW_RANGE (BitVec.ofNat 64 x)
      | none =>
        if p.len = 0 ∧ p.kind ≠ .strn ∨ (s.cluster s.curCluster).queue.length < 64 then .go else .wait none)

/-- A transfer at commit: into the copy queue, or complete at once when it moves nothing (R241, R242). -/
def State.startWin (s : State) (h : Word) (p : WinP) (evt : Bool) : State :=
  let f := s.startOp h evt (.win p)
  if p.len = 0 ∧ p.kind ≠ .strn then f.2.finishOp s.curCluster f.1 0
  else f.2.modCluster s.curCluster fun k => { k with queue := k.queue ++ [f.1] }

/-- A window transfer in issue. -/
def winOp (i : Instr) (h : State → Word) (a : DOp) (p : State → WinP) (s : State) : Result :=
  issueSlot i (fun s => s.winCheck (h s) a (p s)) (fun s => s.startWin (h s) (p s) (s.winEvt a)) s

/-- WGET (R244). -/
def execWget (d : BitVec 5) (a : DOp) (s : State) : Result :=
  winOp (.wget d a) (fun s => s.thread.getS d) a (fun s => s.winP a .get 1 .fp32 .repl .rne) s

/-- WSTR (R245). -/
def execWstr (d : BitVec 5) (a : DOp) (s : State) : Result :=
  winOp (.wstr d a) (fun s => s.thread.getS d) a (fun s => s.winP a .str 1 .fp32 .repl .rne) s

/-- WSTRN (R245). -/
def execWstrn (d : BitVec 5) (a : DOp) (s : State) : Result :=
  winOp (.wstrn d a) (fun s => s.thread.getS d) a (fun s => s.winP a .strn 1 .fp32 .repl .rne) s

/-- WACC: FP32 sums (R243, R246). -/
def execWacc (d : BitVec 5) (a : DOp) (s : State) : Result :=
  winOp (.wacc d a) (fun s => s.thread.getS d) a (fun s => s.winP a .acc 4 .fp32 .sum .rne) s

/-- WGAC: INT32 sums (R243, R246). -/
def execWgac (d : BitVec 5) (a : DOp) (s : State) : Result :=
  winOp (.wgac d a) (fun s => s.thread.getS d) a (fun s => s.winP a .gac 4 .int32 .sum .rne) s

/-- WCAS (R247): the word size by SZ. -/
def execWcas (d : BitVec 5) (a : DOp) (s : State) : Result :=
  winOp (.wcas d a) (fun s => s.thread.getS d) a
    (fun s => s.winP a .cas (if (s.readD a 3).getLsbD 33 then 8 else 4) .fp32 .repl .rne) s

/-- WACC.W (R243, R246). -/
def execWaccW (d : DOp) (a : DOp) (f : Fmt) (op : Comb) (m : Rm) (s : State) : Result :=
  winOp (.waccW d a f op m) (fun s => s.readD d 0) a (fun s => s.winP a .acc (f.width / 8) f op m) s

/-- WGAC.W (R243, R246). -/
def execWgacW (d : DOp) (a : DOp) (f : Fmt) (op : Comb) (m : Rm) (s : State) : Result :=
  winOp (.wgacW d a f op m) (fun s => s.readD d 0) a (fun s => s.winP a .gac (f.width / 8) f op m) s

/-! ### Packets (R242) -/

/-- The packets of a transfer's bytes: one for each aligned 256-byte block of target offsets it touches. -/
def WinP.dataPackets (p : WinP) : Nat :=
  if p.kind = .cas then 1 else if p.len = 0 then 0 else (p.off + p.len - 1) / 256 - p.off / 256 + 1

/-- All packets: a WSTRN ends with one for its notify record (R245). -/
def WinP.packets (p : WinP) : Nat := p.dataPackets + if p.kind = .strn then 1 else 0

/-- The target offsets of data packet k: the first, and how many. -/
def WinP.span (p : WinP) (k : Nat) : Nat × Nat :=
  if p.kind = .cas then (p.off, p.esz)
  else
    let lo := max p.off (256 * (p.off / 256 + k))
    (lo, min (p.off + p.len) (256 * (p.off / 256 + k + 1)) - lo)

/-- The local bytes that packet k carries: address and length. -/
def WinP.source (p : WinP) (k : Nat) : Nat × Nat :=
  match p.kind with
  | .get => (p.laddr, 0)
  | .cas => (p.laddr, 2 * p.esz)
  | _ => if k < p.dataPackets then (p.laddr + ((p.span k).1 - p.off), (p.span k).2) else (p.laddr, 0)

/-- The local bytes that a transfer reads: how many, from LADDR on (R243). -/
def WinP.sourceLen (p : WinP) : Nat :=
  match p.kind with
  | .get => 0
  | .cas => 2 * p.esz
  | _ => p.len

/-- The key of the flow of a tile to a tile's port (R347). -/
def flowKey (o t : Nat) : Nat := 2048 * o + t

/-- A flow. -/
def State.flow (s : State) (o t : Nat) : Flow := fget ⟨[], none⟩ s.flows (flowKey o t)

/-- The state with a flow replaced; an empty one is not kept. -/
def State.setFlow (s : State) (o t : Nat) (f : Flow) : State :=
  { s with flows := if f.items.isEmpty ∧ f.refused = none then fdel s.flows (flowKey o t)
      else fput s.flows (flowKey o t) f }

/-- An item added to a flow (R242). -/
def State.send (s : State) (o t : Nat) (i : FlowItem) : State :=
  let f := s.flow o t
  s.setFlow o t { f with items := f.items ++ [i] }

/-- The number of a notice or a release among its tile's operations. -/
def FlowItem.noticeId : FlowItem → Option Nat
  | .packet _ _ _ => none
  | .completion n _ _ => some n
  | .release n _ _ => some n

/-- A packet of an operation placed ahead of the notices and releases issued after the operation (R242, R255, R259). -/
def insertPacket (id : Nat) (i : FlowItem) : List FlowItem → List FlowItem
  | [] => [i]
  | q :: r =>
    match q.noticeId with
    | some n => if id < n then i :: q :: r else q :: insertPacket id i r
    | none => q :: insertPacket id i r

/-- A packet of an operation added to its flow. -/
def State.sendPacket (s : State) (o t id : Nat) (i : FlowItem) : State :=
  let f := s.flow o t
  s.setFlow o t { f with items := insertPacket id i f.items }

/-- A window transfer that a channel runs and whose accesses may perform. -/
def State.runningWin (s : State) (c id : Nat) : Option (Op × WinP) :=
  match s.op? c id with
  | some o =>
    match o.kind, o.chan with
    | .win p, some _ => if s.opQuiet o id then some (o, p) else none
    | _, _ => none
  | none => none

/-- Whether every transfer of a tile to a target, issued before number id, has sent its packets (R242). -/
def State.sentBefore (s : State) (o t id : Nat) : Bool :=
  (s.cluster (o / 4)).ops.all fun e => e.1 ≥ id || e.2.tile.toNat != o || match e.2.kind with
    | .win q => q.target.toNat != t || decide (q.packets ≤ e.2.sent)
    | _ => true

/-- The granules of a local extent read once into the operation's buffer, keyed by address / 64, each whole, damage outside the
extent among it (R245; assumption 84). -/
def State.winFetch (s : State) (c id t : Nat) : List (Nat × Nat) → Except (BitVec 8) State
  | [] => .ok s
  | (a, _) :: r =>
    let g := a / 64
    match s.op? c id with
    | none => .ok s
    | some o =>
      if (ffind o.buf g).isSome then s.winFetch c id t r
      else
        match s.readAt t (64 * g) 64 with
        | .error e => .error e
        | .ok bs => (s.modOp c id fun o => { o with buf := fput o.buf g (granOf bs) }).winFetch c id t r

/-- Bytes of the local extent out of the buffer. -/
def bufBytes (buf : FMap Granule) (a n : Nat) : List Byte :=
  (granCuts a n).flatMap fun x => ((granBytes (fget 0 buf (x.1 / 64))).drop (x.1 % 64)).take x.2

/-- A channel reads one granule of a window operation's source ahead of the packet that carries it: a tile's write may be seen
in one granule and missed in another (R223, R245). -/
def State.winRead (s : State) (c id g : Nat) : State :=
  match s.runningWin c id with
  | none => s
  | some (o, p) =>
    match (granCuts p.laddr p.sourceLen)[g]? with
    | none => s
    | some x =>
      match s.winFetch c id o.tile.toNat [x] with
      | .error e => s.copyFail c id e
      | .ok s => s

/-- A channel sends the next packet of a window transfer, what is left of its source read first (R242, R245). -/
def State.packetSend (s : State) (c id : Nat) : State :=
  match s.runningWin c id with
  | none => s
  | some (o, p) =>
    if p.packets ≤ o.sent ∨ !s.sentBefore o.tile.toNat p.target.toNat id then s
    else
      let src := p.source o.sent
      match s.winFetch c id o.tile.toNat (granCuts src.1 src.2) with
      | .error e => s.copyFail c id e
      | .ok s =>
        match s.op? c id with
        | none => s
        | some o =>
          (s.modOp c id fun o => { o with sent := o.sent + 1 }).sendPacket o.tile.toNat p.target.toNat id
            (.packet id o.sent (bufBytes o.buf src.1 src.2))

/-! ### The port's decision (R248, R250) -/

/-- Whether an epoch state admits an origin. -/
def Epoch.admits (e : Epoch) (u : BitVec 11) (rank : Nat) : Bool :=
  match e with
  | .closed => false
  | .fence => true
  | .posted g done => (groupMembers g).contains rank && !done.contains rank
  | .lockedSh hs => hs.contains u
  | .lockedEx h => h == u

/-- Whether an entry has the rights a transfer needs (R243). -/
def WEntry.allows (e : WEntry) : WKind → Bool
  | .get => e.rd
  | .str | .strn => e.w
  | .acc => e.a
  | .gac | .cas => e.rd && e.a

/-- The entry at a target's port of a window of the launch that tile o is bound to. -/
def State.entryFrom (s : State) (o t wid : Nat) : Option WEntry := s.wentry (s.tile o).slot.toNat t wid

/-- The port's decision on a transfer: 0 or an error code. The entry of a rank that has ended is CLOSED and stays so until
the launch retires (R239). -/
def State.decide_ (s : State) (o t : Nat) (p : WinP) : BitVec 8 :=
  match s.entryFrom o t p.wid.toNat with
  | none => 1
  | some e =>
    if e.gen ≠ p.gen ∨ e.rank ≠ p.rank ∨ !e.epoch.admits (BitVec.ofNat 11 o) (s.tile o).rank.toNat then 1
    else if p.off + p.len > e.len then 2
    else if !e.allows p.kind then 3
    else 0

/-! ### Application (R244 to R247, R264) -/

/-- The rights a packet needs at the target's table (R248). -/
def WKind.need : WKind → Nat
  | .get => rRD
  | .str | .strn => rW
  | _ => rRD + rW

/-- The cause that refuses bytes of the target's part: translation at the port, damaged words that are read. -/
def State.portCheck (s : State) (t a n need : Nat) : Option (BitVec 8) :=
  (granCuts a n).findSome? fun x =>
    match tileTarget (t / 4) x.1 with
    | .spad swz off => if need != rW && s.spadBad t (linOf swz off) x.2 then some cECC else none
    | .hbm c w =>
      match s.translate c w need with
      | .error e => some e
      | .ok (pa, _) => if need != rW && s.hbmBad pa x.2 then some cECC else none
    | .cmd _ => some cXLATE_NOTPRESENT

/-- What a packet writes at the target, and what it fetches: WGAC the elements as they stood, as the module writes elements
(R44, R246). -/
def WinP.apply (p : WinP) (old new : List Byte) : Option (List Byte) × List Byte :=
  match p.kind with
  | .get => (none, old)
  | .str | .strn => (some new, [])
  | .acc => (some (combineBytes p.f p.comb p.rm old new), [])
  | .gac => (some (combineBytes p.f p.comb p.rm old new), combineBytes p.f .repl p.rm old old)
  | .cas => (if old = new.take p.esz then some (new.drop p.esz) else none, old)

/-- The elements of a packet that act alone: those of WACC and WGAC (R264). -/
def WKind.byElement : WKind → Bool
  | .acc | .gac => true
  | _ => false

/-- Bytes of an accepted transfer applied at the target, at an address: the state and what is fetched (R264). -/
def State.applyBytes (s : State) (id t a n : Nat) (p : WinP) (bytes : List Byte) : Except (BitVec 8) (State × List Byte) :=
  match s.portCheck t a n (WKind.need p.kind) with
  | some e => .error e
  | none =>
    let old : List Byte := if p.kind = .str ∨ p.kind = .strn then [] else
      match s.readSpan t (granCuts a n) with
      | .ok bs => bs
      | .error _ => []
    let r := p.apply old bytes
    let wr : Except (BitVec 8) State :=
      match r.1 with
      | none => .ok s
      | some bs => s.writeSpan id t (pieces a bs)
    match wr with
    | .error e => .error e
    | .ok s => .ok (s, r.2)

/-- Data packet k of an accepted transfer applied at the target, from its first element that has not acted on (R264). -/
def State.applyPacket (s : State) (c id t k : Nat) (p : WinP) (base : Nat) (bytes : List Byte) : Except (BitVec 8) State :=
  let sp := p.span k
  let o := s.op? c id
  let i := p.esz * (o.map Op.elem).getD 0
  match s.applyBytes id t (base + sp.1 + i) (sp.2 - i) p (bytes.drop i) with
  | .error e => .error e
  | .ok (s, got) => .ok (s.modOp c id fun o => { o with
      done := k :: o.done
      answers := fput o.answers k (o.part ++ got)
      elem := 0
      part := [] })

/-- The next element of data packet k of an accepted WACC or WGAC acts at the target (R264), also before a byte of the packet
that has no translation (R248; assumption 84). What stops it is met again when the rest of the packet is applied. -/
def State.applyElement (s : State) (c id t k : Nat) (p : WinP) (base : Nat) (bytes : List Byte) : State :=
  let sp := p.span k
  match s.op? c id with
  | none => s
  | some o =>
    let i := p.esz * o.elem
    if sp.2 ≤ i then s
    else match s.applyBytes id t (base + sp.1 + i) p.esz p ((bytes.drop i).take p.esz) with
      | .error _ => s
      | .ok (s, got) => s.modOp c id fun o => { o with elem := o.elem + 1, part := o.part ++ got }

/-- The notify record of a WSTRN (R245). -/
def notifyRecord (rank : BitVec 16) (p : WinP) : Word :=
  BitVec.ofNat 64 (rank.toNat * 2 ^ 48 + p.wid.toNat * 2 ^ 40 + p.tag.toNat * 2 ^ 32 + p.off)

/-- A packet that the port takes: the decision at the first packet, then application; a packet of an operation that has
ended is dropped. The record of an owner that has ended is discarded (R249). Damage at the target kills the context of the
launch, and the target's port writes the stop record (R248, R326). -/
def State.takePacket (s : State) (o t id k : Nat) (bytes : List Byte) : State :=
  let c := o / 4
  match s.op? c id with
  | none => s
  | some op =>
    match op.kind with
    | .win p =>
      let code := op.accepted.getD (s.decide_ o t p)
      if code ≠ 0 then s.finishOp c id code
      else
        let s := s.modOp c id fun o => { o with accepted := some 0 }
        match s.entryFrom o t p.wid.toNat with
        | none => s.finishOp c id 1
        | some e =>
          if k < p.dataPackets then
            match s.applyPacket c id t k p e.base bytes with
            | .ok s => s
            | .error cause =>
              let s := if cause = cECC then s.killAt o (t / 4) 4 0 cECC else s
              s.finishOp c id (copyCode cause)
          else if s.ownerEnded (s.tile o).slot.toNat t then s.modOp c id fun o => { o with done := k :: o.done }
          else s.modTile t fun x => { x with notify := x.notify ++ [(notifyRecord (s.tile o).rank p, id)] }
    | _ => s

/-- The next element of a packet that stands at the head of a flow acts, where the port accepts its operation (R264). -/
def State.takeElement (s : State) (o t id k : Nat) (bytes : List Byte) : State :=
  let c := o / 4
  match s.op? c id with
  | none => s
  | some op =>
    match op.kind with
    | .win p =>
      if !p.kind.byElement ∨ p.dataPackets ≤ k ∨ op.accepted.getD (s.decide_ o t p) ≠ 0 then s
      else match s.entryFrom o t p.wid.toNat with
        | none => s
        | some e => (s.modOp c id fun o => { o with accepted := some 0 }).applyElement c id t k p e.base bytes
    | _ => s

/-- Whether a notify record of a flow waits at the port: what is behind it waits with it (R245). -/
def State.flowWaits (s : State) (o t : Nat) : Bool :=
  (s.tile t).notify.any fun e => match s.op? (o / 4) e.2 with
    | some op => op.tile.toNat == o
    | none => false

/-- Whether elements of an operation's packet have acted: the packet is in the arrival buffer. -/
def State.begun (s : State) (o id : Nat) : Bool :=
  match s.op? (o / 4) id with
  | some op => op.elem != 0
  | none => false

/-- Where packet k of an operation acts at its target: granules of its scratchpad, or the slice, whose packets share the order
of the atomic units (R264; assumption 75). -/
def State.packetPlaces (s : State) (o t id k : Nat) : List (Option Nat) :=
  match (s.op? (o / 4) id).map Op.kind with
  | some (.win p) =>
    match s.entryFrom o t p.wid.toNat with
    | none => []
    | some e =>
      (granCuts (e.base + (p.span k).1) (p.span k).2).map fun x => match tileTarget (t / 4) x.1 with
        | .spad swz off => some (t % 4 * 65536 + linOf swz off / 64)
        | _ => none
  | _ => []

/-- Whether a packet of another flow whose elements have begun to act at the port keeps packet k of an operation from acting
there: the port applies packets to each byte one at a time, in one order (R264, R265, R284). -/
def State.portHeld (s : State) (o t id k : Nat) : Bool :=
  s.flows.any fun e => e.1 != flowKey o t && e.1 % 2048 / 4 == t / 4 && match e.2.items with
    | .packet q j _ :: _ => s.begun (e.1 / 2048) q &&
      (s.packetPlaces (e.1 / 2048) (e.1 % 2048) q j).any (s.packetPlaces o t id k).contains
    | _ => false

/-- The entry that a notice or a release of a flow concerns. -/
def State.flowEntry (s : State) (o t : Nat) (wid gen : BitVec 8) : Option WEntry :=
  (s.entryFrom o t wid.toNat).filter fun e => e.gen == gen

/-- The epoch state after a release (R259, R261). -/
def Epoch.release (e : Epoch) (u : BitVec 11) : Epoch :=
  match e with
  | .lockedSh hs => if (hs.erase u).isEmpty then .closed else .lockedSh (hs.erase u)
  | .lockedEx h => if h = u then .closed else .lockedEx h
  | e => e

/-- A lock's release at the target's port (R259, R261, R263). -/
def State.takeRelease (s : State) (o t : Nat) (wid gen : BitVec 8) : State :=
  let k := (s.tile o).slot.toNat
  match s.flowEntry o t wid gen with
  | none => s
  | some e =>
    ((s.setEntry k t wid.toNat { e with epoch := e.epoch.release (BitVec.ofNat 11 o) }).entryEvent k t wid.toNat e
      (s.tile o).rank.toNat 3).serveAll k t wid.toNat

/-- A completion notice at the target's port: the member joins the completed set (R255, R256, R263). -/
def State.takeCompletion (s : State) (o t : Nat) (wid gen : BitVec 8) : State :=
  let k := (s.tile o).slot.toNat
  match s.flowEntry o t wid gen with
  | none => s
  | some e =>
    (s.setEntry k t wid.toNat (e.completedBy (s.tile o).rank.toNat)).entryEvent k t wid.toNat e (s.tile o).rank.toNat 4

/-- An item that a port takes. -/
def State.takeItem (s : State) (o t : Nat) : FlowItem → State
  | .packet id k bytes => s.takePacket o t id k bytes
  | .completion _ wid gen => s.takeCompletion o t wid gen
  | .release _ wid gen => s.takeRelease o t wid gen

/-- Whether the head of a flow may arrive: no notify record holds its flow, no begun packet of another flow stands before a
packet, and every packet of the operations issued before a notice or a release is on its way ahead of it (R245, R255,
R259, R264). -/
def State.mayArrive (s : State) (o t : Nat) (i : FlowItem) : Bool :=
  !s.flowWaits o t && match i with
    | .packet id k _ => !s.portHeld o t id k
    | .completion id _ _ | .release id _ _ => s.sentBefore o t id

/-- Whether the port refuses an item for want of a place: its arrival buffer is full, and the item is not in it already
(R348). -/
def State.refuses (s : State) (o t : Nat) (i : FlowItem) : Bool :=
  s.bufferFull (t / 4) && match i with
    | .packet id _ _ => !s.begun o id
    | _ => true

/-- The head of a flow taken by the port, or refused when the arrival buffer is full (R348). -/
def State.arrive (s : State) (o t : Nat) : State :=
  let f := s.flow o t
  match f.items with
  | [] => s
  | i :: r =>
    if !s.mayArrive o t i then s
    else if s.refuses o t i then s.setFlow o t { f with refused := some s.cycle }
    else (s.setFlow o t ⟨r, none⟩).takeItem o t i

/-- The next element of the packet at the head of a flow acts at its port (R264). -/
def State.packetElement (s : State) (o t : Nat) : State :=
  let f := s.flow o t
  match f.items with
  | .packet id k bytes :: _ =>
    if !s.mayArrive o t (.packet id k bytes) || f.refused.isSome || s.refuses o t (.packet id k bytes) then s
    else s.takeElement o t id k bytes
  | _ => s

/-- The head of a flow, where it is of a kind and not refused before, arrives. -/
def State.arriveFirst (s : State) (o t : Nat) (kind : FlowItem → Bool) : State :=
  let f := s.flow o t
  if f.refused.isNone && f.items.head?.any kind then s.arrive o t else s

/-- WINDOW_PACKET_ARRIVAL (R248, R347). -/
def execWindowPacketArrival (o t : BitVec 11) (s : State) : Result :=
  .next (s.arriveFirst o.toNat t.toNat fun i => i.noticeId.isNone)

/-- PACKET_REPRESENT (R258, R348): the refused head of a flow, or else a refused request or post notice, of a tile to a target
again, 64 cycles later at the soonest. -/
def execPacketRepresent (o t : BitVec 11) (s : State) : Result :=
  let due (n : Option Nat) : Bool := n.any fun n => decide (n + 64 ≤ s.cycle)
  let f := s.flow o.toNat t.toNat
  .next (
    if f.refused.isSome then if due f.refused then s.arrive o.toNat t.toNat else s
    else match s.reqs.find? fun m => m.origin == o && m.target == t && due m.refused with
      | some m => s.presentReq m
      | none =>
        match s.notes.zipIdx.find? fun n => n.1.owner == o && n.1.member == t && due n.1.refused with
        | some (n, k) => s.presentNotice k n
        | none => s)

/-- NOTIFY_RECORD (R245, R249, R277): the oldest waiting record of a tile enters q1, or is discarded once its owner has ended.
The owner's views then both hold the bytes of its WSTRN, which the reader of the record observes (R198). -/
def execNotifyRecord (t : BitVec 11) (s : State) : Result :=
  .next (
    let x := s.tile t.toNat
    match x.notify with
    | [] => s
    | (r, id) :: rest =>
      let done (s : State) : State :=
        s.modTile t.toNat (fun x => ({ x with notify := rest } : Tile).joinOp id) |> fun s =>
          { s with clusters := s.clusters.map fun e => (e.1,
              match ffind e.2.ops id with
              | none => e.2
              | some o => { e.2 with ops := fput e.2.ops id { o with done := (match o.kind with
                  | .win p => p.dataPackets
                  | _ => 0) :: o.done } }) }
      if x.run = .ended ∨ x.run = .free then done s
      else if x.q1.length < 64 then (done s).modTile t.toNat fun x => { x with q1 := x.q1 ++ [r] }
      else s)

/-! ### Fetched bytes and completions (R244, R246, R247, R249) -/

/-- Whether a transfer fetches. -/
def WKind.fetches : WKind → Bool
  | .get | .gac | .cas => true
  | _ => false

/-- The local destination of fetched bytes: address and length. -/
def WinP.dest (p : WinP) : Nat × Nat :=
  match p.kind with
  | .get => (p.laddr, p.len)
  | .gac => (p.laddr + p.len, p.len)
  | .cas => (p.laddr + 2 * p.esz, p.esz)
  | _ => (p.laddr, 0)

/-- Every fetched byte, by packet. -/
def fetched (p : WinP) (answers : FMap (List Byte)) : List Byte :=
  (List.range p.dataPackets).flatMap fun k => fget [] answers k

/-- The packets that bytes [i, i + n) of the fetched bytes lie in. -/
def WinP.packetsOf (p : WinP) (i n : Nat) : List Nat :=
  (List.range p.dataPackets).filter fun k =>
    let s := p.span k
    decide (s.1 - p.off < i + n ∧ i < s.1 - p.off + s.2)

/-- A channel writes one granule of fetched bytes, once every packet it is made of has returned. -/
def State.answerWrite (s : State) (c id j : Nat) : State :=
  match s.op? c id with
  | none => s
  | some o =>
    match o.kind with
    | .win p =>
      let cuts := granCuts p.dest.1 p.dest.2
      match cuts[j]? with
      | none => s
      | some (a, n) =>
        let i := a - p.dest.1
        if !p.kind.fetches ∨ o.wrote.contains j ∨ (p.packetsOf i n).any fun k => (ffind o.answers k).isNone then s
        else
          match s.writeAt id o.tile.toNat a (((fetched p o.answers).drop i).take n) with
          | .error e => s.copyFail c id e
          | .ok s => s.modOp c id fun o => { o with wrote := j :: o.wrote }
    | _ => s

/-- WINDOW_OP_COMPLETION (R249): LOCAL once every source byte is read, REMOTE once every packet has applied; a fetching
transfer completes both once its bytes are written locally. -/
def execWindowOpCompletion (c : BitVec 9) (op : Nat) (s : State) : Result :=
  .next (match s.op? c.toNat op with
    | none => s
    | some o =>
      match o.kind with
      | .win p =>
        if p.kind.fetches then
          if o.done.length < p.packets then s
          else
            let n := (granCuts p.dest.1 p.dest.2).length
            let s := (List.range n).foldl (fun s j => s.answerWrite c.toNat op j) s
            match s.op? c.toNat op with
            | none => s
            | some _ => s.finishOp c.toNat op 0
        else if !o.loc ∧ p.packets ≤ o.sent then s.finishLocal c.toNat op 0
        else if p.packets ≤ o.done.length then s.finishOp c.toNat op 0
        else s
      | _ => s)

end Sys2Proof.Machine
end

