-- ==== Sys2Proof/Machine/Epochs.lean ====
section
/-! DEFINITION. Opening and dropping windows, and the intervals of a window: fences, posts, locks (R236 to R239, R250 to R263, R278). -/

namespace Sys2Proof.Machine

/-! ### What the checks of window synchronisation share (R262, R278) -/

/-- The window id of a window value. -/
def widOf (wv : Word) : BitVec 8 := wv.extractLsb' 0 8

/-- The directory entry of a window value at the issuing tile. -/
def State.dirOf (s : State) (wv : Word) : WDir := s.cur.dir (widOf wv).toNat

/-- WINDOW_ID with the window value (R262). -/
def State.misuse (s : State) (wv : Word) : Verdict := s.faultAt cWINDOW_ID wv

/-- The window value names an open window (R262). -/
def State.wvCheck (s : State) (wv : Word) : Verdict := checkThat (s.cur.windowOk wv) (s.misuse wv)

/-- The issue waits until every plain access that the tile issued earlier has performed (R278). -/
def State.quietCheck (s : State) : Verdict := if s.thread.quiet then .go else .wait none

/-- A bundle that waits for the answer to a request: its own checks stand before the request is made; plain accesses that a
trap handler has issued since perform before it issues (R278). -/
def State.askCheck (s : State) (q : WaitReq) (first : Verdict) : Verdict :=
  if (s.granted q).isSome then s.quietCheck
  else if s.cur.req = some q then .wait (some q)
  else (first.andThen s.quietCheck).andThen (.wait (some q))

/-- Whether an operation is a transfer on a window to a rank that a test names. -/
def Op.onWindow (o : Op) (wid gen : BitVec 8) (hits : Nat → Bool) : Bool :=
  match o.kind with
  | .win p => p.wid == wid && p.gen == gen && hits p.rank.toNat
  | _ => false

/-- Whether the tile has transfers in flight on a window to ranks that a test names. -/
def State.busyOn (s : State) (t : Nat) (wid gen : BitVec 8) (hits : Nat → Bool) : Bool :=
  (s.cluster (t / 4)).ops.any fun e => e.2.tile.toNat == t && e.2.onWindow wid gen hits

/-- The wait for the issuing tile's transfers on a window to ranks that a test names. -/
def State.drainCheck (s : State) (wv : Word) (hits : Nat → Bool) : Verdict :=
  if s.busyOn s.curId (widOf wv) (wv.extractLsb' 8 8) hits then .wait none else .go

/-- A change of the issuing tile's directory entry. -/
def State.modWin (s : State) (wv : Word) (f : WDir → WDir) : State := s.modCur fun x => x.modDir (widOf wv).toNat f

/-- Whether a collective request of a kind still waits for a rank of its launch: for a plain access of its own to perform, or
for a rank that has not ended to ask (R239, R278). -/
def rankMissing (waits : WaitReq → Bool) (x : Tile) : Bool :=
  !x.th.quiet || x.run != .ended && !(x.grant.isNone && x.req.any waits)

/-- Whether a collective request of a launch is complete: some rank waits, every rank that has not ended does, and every plain
access before it has performed (R237 to R239, R251, R278). -/
def State.allWait (s : State) (v slot : Nat) (waits : WaitReq → Bool) : Bool :=
  let rs := s.ranks v slot
  (rs.any fun e => e.2.run != .ended) && !rs.any fun e => rankMissing waits e.2

/-- The ranks of a launch that wait in a collective request. -/
def State.waiting (s : State) (v slot : Nat) : List (Nat × Tile) := (s.ranks v slot).filter fun e => e.2.run != .ended

/-! ### WOPEN and WDROP (R236 to R239) -/

/-- LEN of a part's control word. -/
def partLen (ctl : Word) : Nat := (ctl.extractLsb' 0 32).toNat

/-- The checks of a part (R236). -/
def State.partCheck (s : State) (base ctl : Word) : Verdict :=
  if base.toNat % 64 ≠ 0 ∨ partLen ctl % 64 ≠ 0 then s.faultAt cALIGN base
  else match (if partLen ctl = 0 then none else outside base.toNat (partLen ctl)) with
    | some x => s.faultAt cVIEW_RANGE (BitVec.ofNat 64 x)
    | none => .go

/-- The request of a WOPEN. -/
def State.wopenReq (s : State) (a : DOp) : WaitReq := .wopen (s.readD a 0) (s.readD a 1)

/-- WOPEN (R236, R237): the bundle issues with the window value once the collective is done. -/
def execWopen (d : BitVec 5) (a : DOp) (s : State) : Result :=
  issueSlot (.wopen d a) (fun s => s.askCheck (s.wopenReq a) (s.partCheck (s.readD a 0) (s.readD a 1)))
    (fun s => (s.dstS 1 false (.reg d) ((s.granted (s.wopenReq a)).getD 0)).settleReq) s

/-- A directory without an epoch of its own on the window (R262, for WFEN and WDROP). -/
def WDir.idle (d : WDir) : Bool := d.started.isNone && !d.posted && d.locks.isEmpty

/-- WDROP (R238). -/
def execWdrop (a : SOp) (s : State) : Result :=
  issueSlot (.wdrop a)
    (fun s => s.askCheck (.wdrop (widOf (s.readS a)))
      ((s.wvCheck (s.readS a)).andThen (checkThat (s.dirOf (s.readS a)).idle (s.misuse (s.readS a)))))
    (fun s => s.settleReq) s

/-- The entry of a part in a new window (R234, R237). -/
def newEntry (rank : BitVec 16) (gen : BitVec 8) (base ctl : Word) : WEntry :=
  { rank := rank, gen := gen, base := base.toNat, len := partLen ctl, rd := ctl.getLsbD 32, w := ctl.getLsbD 33,
    a := ctl.getLsbD 34, evt := ctl.getLsbD 35, epoch := .closed, queue := [] }

/-- The entry of a rank in a new window: the part it waits with, or a part of length 0 once it has ended (R237, R239). -/
def Tile.newEntry (x : Tile) (gen : BitVec 8) : WEntry :=
  match x.run, x.req with
  | .ended, _ => Machine.newEntry x.rank gen 0 0
  | _, some (.wopen base ctl) => Machine.newEntry x.rank gen base ctl
  | _, _ => Machine.newEntry x.rank gen 0 0

/-- Whether every port has a free entry for each of its ranks in a launch, the freed ones among them (R237, R239). -/
def State.portsHaveRoom (s : State) (v slot : Nat) : Bool :=
  let ts := s.rankTiles v slot
  ts.all fun t => decide ((s.cluster (t / 4)).wins.length + (ts.filter fun u => u / 4 == t / 4).length ≤ 256)

/-- A window opened in a launch: an entry for every rank, in the directory of every rank that is still bound (R237,
R239). -/
def State.openWindow (s : State) (v slot wid : Nat) (gen : BitVec 8) : State :=
  let s := (s.freedRanks v slot).foldl
    (fun s e => s.setEntry slot e.1 wid (Machine.newEntry (BitVec.ofNat 16 e.2) gen 0 0)) s
  (s.ranks v slot).foldl (fun s e =>
    (s.setEntry slot e.1 wid (e.2.newEntry gen)).modTile e.1 fun x =>
      x.modDir wid fun d => { WDir.reset with isOpen := true, gen := d.gen }) s

/-- WOPEN_COLLECTIVE (R237): the lowest closed id, an entry at every rank's port, every directory; or 0 for everyone. -/
def execWopenCollective (v : BitVec 6) (slot : BitVec 4) (s : State) : Result :=
  .next (
    let v := v.toNat
    let k := slot.toNat
    let asks (q : WaitReq) : Bool := match q with
      | .wopen _ _ => true
      | _ => false
    if !s.allWait v k asks then s
    else
      let all (w : Word) (s : State) : State := (s.waiting v k).foldl (fun s e => s.answerReq e.1 w) s
      match (s.waiting v k).head? with
      | none => s
      | some first =>
        match (List.range 256).find? fun w => !(first.2.dir w).isOpen with
        | none => all 0 s
        | some wid =>
          if !s.portsHaveRoom v k then all 0 s
          else
            let gen := (first.2.dir wid).gen
            all (windowValue wid gen) (s.openWindow v k wid gen))

/-- Whether any rank of a launch has transfers in flight on a window. -/
def State.launchBusyOn (s : State) (v slot : Nat) (wid gen : BitVec 8) : Bool :=
  (s.ranks v slot).any fun e => s.busyOn e.1 wid gen fun _ => true

/-- The entries of a window freed at every rank's port (R238). -/
def State.freeWindow (s : State) (v slot wid : Nat) : State :=
  (s.rankTiles v slot).foldl (fun s t =>
    s.modCluster (t / 4) fun c => { c with wins := fdel c.wins (entryKey slot t wid) }) s

/-- WDROP_COLLECTIVE (R238): the entries freed, the generation advanced, the id closed. -/
def execWdropCollective (v : BitVec 6) (slot : BitVec 4) (wid : BitVec 8) (s : State) : Result :=
  .next (
    let v := v.toNat
    let k := slot.toNat
    let rs := s.ranks v k
    let resting (t : Nat) : Bool := match s.wentry k t wid.toNat with
      | some e => e.epoch == .closed && e.queue.isEmpty
      | none => true
    if !s.allWait v k (fun q => q == .wdrop wid) || !rs.all fun e => resting e.1 then s
    else
      match (s.waiting v k).head? with
      | none => s
      | some first =>
        if s.launchBusyOn v k wid (first.2.dir wid.toNat).gen then s
        else rs.foldl (fun s e =>
          (s.modTile e.1 fun x => x.modDir wid.toNat fun d => { WDir.reset with gen := d.gen + 1 }).answerReq e.1 0)
          (s.freeWindow v k wid.toNat))

/-! ### Fences (R251) -/

/-- The request of a WFEN: NOSUCC is bit 17 of the window value. -/
def wfenReq (wv : Word) : WaitReq := .wfen (widOf wv) (wv.getLsbD 17)

/-- WFEN (R251). -/
def execWfen (a : SOp) (s : State) : Result :=
  issueSlot (.wfen a)
    (fun s => s.askCheck (wfenReq (s.readS a))
      ((s.wvCheck (s.readS a)).andThen (checkThat (s.dirOf (s.readS a)).idle (s.misuse (s.readS a)))))
    (fun s => s.settleReq) s

/-- Whether an entry's fence switch stands at the head with no holder and no post left. -/
def WEntry.fenceReady (e : WEntry) : Bool :=
  (e.epoch == .closed || e.epoch == .fence) && match e.queue.head? with
    | some (.fence _) => true
    | _ => false

/-- FENCE_SWITCH (R251, R261): every entry becomes FENCE, or CLOSED where a WFEN of some rank said NOSUCC; then every
WFEN issues and the queues are served. -/
def execFenceSwitch (v : BitVec 6) (slot : BitVec 4) (wid : BitVec 8) (s : State) : Result :=
  .next (
    let v := v.toNat
    let k := slot.toNat
    let w := wid.toNat
    let asks (q : WaitReq) : Bool := match q with
      | .wfen x _ => x == wid
      | _ => false
    let rs := s.waiting v k
    let ready (t : Nat) : Bool := match s.wentry k t w with
      | some e => e.fenceReady
      | none => false
    if !s.allWait v k asks || !rs.all fun e => ready e.1 then s
    else
      match rs.head? with
      | none => s
      | some first =>
        if s.launchBusyOn v k wid (first.2.dir w).gen then s
        else
          let nosucc := rs.any fun e => e.2.req == some (.wfen wid true)
          let s := rs.foldl (fun s e =>
            match s.wentry k e.1 w with
            | none => s
            | some x =>
              (((s.setEntry k e.1 w { x with queue := x.queue.drop 1, epoch := if nosucc then .closed else .fence }).entryEvent
                k e.1 w x e.2.rank.toNat 5).modTile e.1 fun y =>
                  y.modDir w fun d => { d with fence := !nosucc }).answerReq e.1 0) s
          rs.foldl (fun s e => s.serveAll k e.1 w) s)

/-! ### Post, start, complete, wait (R252 to R256) -/

/-- The checks of a group, after those of the directory (R252). -/
def State.groupCheck (s : State) (g : Word) : Verdict :=
  checkThat (groupOk g s.cur.nrank.toNat) (s.faultAt cWINDOW_ID g)

/-- WPOST (R253): a request to the tile's own entry; it does not wait for it. -/
def execWpost (a b : SOp) (s : State) : Result :=
  issueSlot (.wpost a b)
    (fun s => ((s.wvCheck (s.readS a)).andThen (checkThat (!(s.dirOf (s.readS a)).posted) (s.misuse (s.readS a)))).andThen
      (s.groupCheck (s.readS b)))
    (fun s => (s.modWin (s.readS a) fun d => { d with posted := true }).sendReq s.curId s.curId (widOf (s.readS a)).toNat
      (.post (s.readS b))) s

/-- Whether every plain access of a rank that still has its tile has performed (R278). -/
def State.rankQuiet (s : State) (v slot rank : Nat) : Bool :=
  (s.boundRank v slot rank).all fun t => (s.tile t).th.quiet

/-- Whether a rank still has operations on a window in flight to a rank (R278). -/
def State.rankBusy (s : State) (v slot rank : Nat) (wid gen : BitVec 8) (owner : Nat) : Bool :=
  (s.boundRank v slot rank).any fun t => s.busyOn t wid gen fun r => r == owner

/-- Whether the tile holds what a WSTART of a group waits for: a notice of every member, or the member has ended, which
counts as a post behind its accesses (R239, R254, R278). -/
def State.postsHeld (s : State) (d : WDir) (g : Word) : Bool :=
  let v := s.cur.part.toNat
  let k := s.cur.slot.toNat
  (groupMembers g).all fun r => d.notices.contains r || s.rankEnded v k r && s.rankQuiet v k r

/-- WSTART (R254). -/
def execWstart (a b : SOp) (s : State) : Result :=
  issueSlot (.wstart a b)
    (fun s => (((s.wvCheck (s.readS a)).andThen
        (checkThat (s.dirOf (s.readS a)).started.isNone (s.misuse (s.readS a)))).andThen
      (s.groupCheck (s.readS b))).andThen
      (s.quietCheck.andThen (if s.postsHeld (s.dirOf (s.readS a)) (s.readS b) then .go else .wait none)))
    (fun s => s.modWin (s.readS a) fun d =>
      { d with started := some (s.readS b), notices := (groupMembers (s.readS b)).foldl List.erase d.notices }) s

/-- The group of the tile's started epoch on a window. -/
def State.startedGroup (s : State) (wv : Word) : Word := (s.dirOf wv).started.getD 0

/-- A completion notice to every member of a group, behind the tile's earlier packets (R255). -/
def State.sendCompletions (s : State) (wv g : Word) : State :=
  (groupMembers g).foldl (fun s r =>
    match s.rankTile s.cur.part.toNat s.cur.slot.toNat r with
    | some t => s.freshId.2.send s.curId t (.completion s.nextId (widOf wv) (wv.extractLsb' 8 8))
    | none => s) s

/-- WCOMP (R255). -/
def execWcomp (a : SOp) (s : State) : Result :=
  issueSlot (.wcomp a)
    (fun s => ((s.wvCheck (s.readS a)).andThen
        (checkThat (s.dirOf (s.readS a)).started.isSome (s.misuse (s.readS a)))).andThen
      (s.quietCheck.andThen
        (s.drainCheck (s.readS a) fun r => (groupMembers (s.startedGroup (s.readS a))).contains r)))
    (fun s => (s.sendCompletions (s.readS a) (s.startedGroup (s.readS a))).modWin (s.readS a) fun d =>
      { d with started := none }) s

/-- Whether the exposure of an entry is complete: POSTED, and the completed set holds every member, those whose notice has
arrived and those that have ended, which counts as a WCOMP behind their operations to the owner (R239, R256, R278). -/
def State.exposureDone (s : State) (x : Tile) (wid : BitVec 8) (e : WEntry) : Bool :=
  let v := x.part.toNat
  let k := x.slot.toNat
  match e.epoch with
  | .posted g done => (groupMembers g).all fun r =>
      done.contains r || s.rankEnded v k r && !s.rankBusy v k r wid e.gen x.rank.toNat
  | _ => false

/-- WWAIT at commit: the entry is CLOSED and its queue served (R256, R261). -/
def State.endExposure (s : State) (wv : Word) : State :=
  let w := (widOf wv).toNat
  let k := s.cur.slot.toNat
  match s.wentry k s.curId w with
  | none => s
  | some e => ((s.setEntry k s.curId w { e with epoch := .closed }).modWin wv fun d => { d with posted := false }).serveAll
      k s.curId w

/-- WWAIT (R256). -/
def execWwait (a : SOp) (s : State) : Result :=
  issueSlot (.wwait a)
    (fun s => ((s.wvCheck (s.readS a)).andThen (checkThat (s.dirOf (s.readS a)).posted (s.misuse (s.readS a)))).andThen
      (s.quietCheck.andThen (match s.entryFrom s.curId s.curId (widOf (s.readS a)).toNat with
        | some e => if s.exposureDone s.cur (widOf (s.readS a)) e then .go else .wait none
        | none => .wait none)))
    (fun s => s.endExposure (s.readS a)) s

/-! ### Locks (R257 to R260) -/

/-- The target rank of a lock instruction. -/
def lockRank (v : Word) : Nat := (v.extractLsb' 0 16).toNat

/-- The target rank is a rank of the launch (R262). -/
def State.rankCheck (s : State) (wv v : Word) : Verdict :=
  checkThat (decide (lockRank v < s.cur.nrank.toNat)) (s.misuse wv)

/-- The directory's record of a lock on a rank. -/
def WDir.lock (d : WDir) (r : Nat) : Option LockSt := ffind d.locks r

/-- The request of a WLOCK. -/
def wlockReq (wv v : Word) (ex : Bool) : WaitReq := .wlock (widOf wv) (lockRank v) ex

/-- A WLOCK in issue: it waits until its request is granted, or refused because the owner has ended (R257). -/
def wlockOp (i : Instr) (a b : SOp) (ex : Bool) (s : State) : Result :=
  issueSlot i
    (fun s => s.askCheck (wlockReq (s.readS a) (s.readS b) ex)
      (((s.wvCheck (s.readS a)).andThen (s.rankCheck (s.readS a) (s.readS b))).andThen
        (checkThat ((s.dirOf (s.readS a)).lock (lockRank (s.readS b))).isNone (s.misuse (s.readS a)))))
    (fun s => s.settleReq) s

/-- WLOCK.SH (R257). -/
def execWlockSh (a b : SOp) (s : State) : Result := wlockOp (.wlockSh a b) a b false s

/-- WLOCK.EX (R257). -/
def execWlockEx (a b : SOp) (s : State) : Result := wlockOp (.wlockEx a b) a b true s

/-- WUNLK at commit: the release travels behind the tile's operations; the record is cleared (R257, R259). -/
def State.unlock (s : State) (wv v : Word) : State :=
  let r := lockRank v
  let s1 :=
    if (s.dirOf wv).lock r = some .held then
      match s.rankTile s.cur.part.toNat s.cur.slot.toNat r with
      | some t => s.freshId.2.send s.curId t (.release s.nextId (widOf wv) (wv.extractLsb' 8 8))
      | none => s
    else s
  s1.modWin wv fun d => { d with locks := fdel d.locks r }

/-- A lock that WUNLK ends: held, or recorded as refused (R257, R262). -/
def WDir.unlockable (d : WDir) (r : Nat) : Bool := d.lock r == some .held || d.lock r == some .refused

/-- WUNLK (R259). -/
def execWunlk (a b : SOp) (s : State) : Result :=
  issueSlot (.wunlk a b)
    (fun s => (((s.wvCheck (s.readS a)).andThen (s.rankCheck (s.readS a) (s.readS b))).andThen
        (checkThat ((s.dirOf (s.readS a)).unlockable (lockRank (s.readS b))) (s.misuse (s.readS a)))).andThen
      (s.quietCheck.andThen (s.drainCheck (s.readS a) fun r => r == lockRank (s.readS b))))
    (fun s => s.unlock (s.readS a) (s.readS b)) s

/-- WFLSH (R260): B[16] names every target. -/
def execWflsh (a b : SOp) (s : State) : Result :=
  issueSlot (.wflsh a b)
    (fun s => ((s.wvCheck (s.readS a)).andThen
        (if (s.readS b).getLsbD 16 then .go else s.rankCheck (s.readS a) (s.readS b))).andThen
      (s.drainCheck (s.readS a) fun r => (s.readS b).getLsbD 16 || r == lockRank (s.readS b)))
    (fun s => s) s

/-! ### Events of the ports -/

/-- REQUEST_QUEUE_ACCEPT (R253, R257, R258): a request reaches its port for the first time. -/
def execRequestQueueAccept (k : Nat) (s : State) : Result :=
  .next (match s.reqs[k]? with
    | none => s
    | some m => if m.refused = none then s.presentReq m else s)

/-- LOCK_RELEASE (R259, R261, R263, R348). -/
def execLockRelease (o t : BitVec 11) (s : State) : Result :=
  .next (s.arriveFirst o.toNat t.toNat fun i => match i with
    | .release _ _ _ => true
    | _ => false)

/-- POST_NOTICE (R253, R254, R348): a notice reaches its member's port for the first time. -/
def execPostNotice (k : Nat) (s : State) : Result :=
  .next (match s.notes[k]? with
    | none => s
    | some n => if n.refused = none then s.presentNotice k n else s)

/-- COMPLETION_NOTICE (R255, R256, R263, R348): a member joins the completed set. -/
def execCompletionNotice (o t : BitVec 11) (s : State) : Result :=
  .next (s.arriveFirst o.toNat t.toNat fun i => match i with
    | .completion _ _ _ => true
    | _ => false)

end Sys2Proof.Machine
end

