-- ==== Sys2Proof/Machine/Launch.lean ====
section
/-! DEFINITION. Launches and sequencer programs: LAUNCH, WAITL, LSTAT, the launch unit's queue, binding and retirement, start and done records, cuts, and the partition halt (R294 to R317, R326 to R332). -/

namespace Sys2Proof.Machine

/-! ### Launch slots of a context -/

/-- A launch slot of a context. -/
def Seq.slot (q : Seq) (k : Nat) : LSlot :=
  let _ : Inhabited LSlot := ⟨LSlot.reset⟩
  vget q.slots k

/-- The context with a launch slot replaced. -/
def Seq.setSlot (q : Seq) (k : Nat) (l : LSlot) : Seq := { q with slots := vset q.slots k l }

/-- The lowest FREE launch slot (R306). -/
def Seq.freeSlot (q : Seq) : Option Nat := (List.range 16).find? fun k => (q.slot k).st == .free

/-- The number of the issuing context; 0 for a tile, which has no launch slots. -/
def State.curSeq (s : State) : Nat :=
  match s.iss.agent with
  | .seq q => q.toNat
  | .tile _ => 0

/-! ### Shapes and tile sets (R294, R295, R305) -/

/-- NRANK (R294). -/
def shNrank (w : Word) : Nat := shNx w * shNy w * shNz w * shNs w

/-- The shape and control words keep R305 for a partition of n clusters. -/
def shapeOk (sh ctl : Word) (n : Nat) : Bool :=
  sh.extractLsb' 56 8 == 0 && sh.extractLsb' 32 4 == 0 && shTmask sh != 0 && decide (1 ≤ shNcl sh ∧ shNcl sh ≤ 64) &&
    decide (1 ≤ shNx sh ∧ 1 ≤ shNy sh ∧ 1 ≤ shNz sh ∧ 1 ≤ shNs sh ∧ shNs sh ≤ 8) && ctl.extractLsb' 3 61 == 0 &&
    decide (shLidx0 sh + shNcl sh ≤ n) && shNrank sh == shNcl sh * (maskTiles (shTmask sh)).length

/-- PRIO of a control word. -/
def ctlPrio (w : Word) : Nat := (w.extractLsb' 0 2).toNat

/-- CUTOK of a control word. -/
def ctlCutok (w : Word) : Bool := w.getLsbD 2

/-! ### LAUNCH (R305, R306) -/

/-- The four words of an image header. -/
structure ImageHdr where
  image : BitVec 32
  entry : Word
  hb1 : Word
  hb2 : Word
deriving DecidableEq, Repr

/-- Bytes at an address of a sequencer context, within one granule, or the cause and the address (R300). -/
def State.seqRead (s : State) (q a n : Nat) : Except (BitVec 8 × Nat) (List Byte) :=
  match s.seqTarget q a n with
  | .error x => .error (cVIEW_RANGE, x)
  | .ok (.cmd off) => .ok (readBytes (s.seqCtx q).cmd off n)
  | .ok (.hbm c w) =>
    match s.translate c w rRD with
    | .error e => .error (e, a)
    | .ok (pa, _) => if s.hbmBad pa n then .error (cECC, a) else .ok (readBytes s.hbm pa n)
  | .ok (.spad _ _) => .error (cVIEW_RANGE, a)

/-- Word k of bytes. -/
def wordAt (bs : List Byte) (k : Nat) : Word := BitVec.ofNat 64 (leNat ((bs.drop (8 * k)).take 8))

/-- An image header, if its bytes keep R296. -/
def imageHdr (bs : List Byte) : Option ImageHdr :=
  let e := wordAt bs 1
  if (wordAt bs 0).extractLsb' 32 32 ≠ 0 ∨ (wordAt bs 0).extractLsb' 0 32 = 0 ∨ e.toNat % 4 ≠ 0 ∨
      e.toNat < 0x100000000 ∨ 0x17FFFFFFF < e.toNat then none
  else some ⟨(wordAt bs 0).extractLsb' 0 32, e, wordAt bs 2, wordAt bs 3⟩

/-- The clusters of the partition that a context serves. -/
def State.pcl (s : State) (q : Nat) : Nat :=
  match s.partOfSeq q with
  | some v => (s.part v).map.length
  | none => 0

/-- The checks of LAUNCH, in the order of R306; the header is read once every earlier access has performed (R279). -/
def State.launchCheck (s : State) (a : DOp) : Verdict :=
  let q := s.curSeq
  let img := s.readD a 0
  if (s.seqCtx q).freeSlot.isNone then s.faultPc cHANDLE_EXHAUSTED
  else if img.toNat % 32 ≠ 0 then s.faultAt cALIGN img
  else s.quietCheck.andThen
    (match s.seqRead q img.toNat 32 with
      | .error (c, x) => s.faultAt c (BitVec.ofNat 64 x)
      | .ok bs =>
        match imageHdr bs with
        | none => s.faultAt cLAUNCH_SHAPE img
        | some _ => checkThat (shapeOk (s.readD a 2) (s.readD a 3) (s.pcl q)) (s.faultAt cLAUNCH_SHAPE (s.readD a 2)))

/-- Launches of a context that have a slot, with their numbers. -/
def Seq.launches (q : Seq) : List (Nat × LSlot) :=
  ((List.range 16).map fun k => (k, q.slot k)).filter fun e => e.2.st != .free

/-- The launches of a partition: those of the context that serves it (R298; assumptions 73 and 90). -/
def State.launchesOf (s : State) (v : Nat) : List (Nat × LSlot) :=
  if s.isServed v then (s.seqCtx (s.part v).seqNo).launches else []

/-- Whether the save configuration of a partition is valid for a cluster (R335, R387). -/
def Part.saveOk (p : Part) (c : Nat) : Bool :=
  let slots := (p.svcfg.extractLsb' 8 8).toNat
  let b := c * 2 ^ 31 + 65536 * (p.svcfg.extractLsb' 16 15).toNat
  decide (0x424000 ≤ p.svlen.toNat) && p.svlen.toNat % 65536 == 0 && !p.svcfg.getLsbD 0 && slots != 0 &&
    decide (b + slots * 4 * p.svlen.toNat ≤ (c + 1) * 2 ^ 31)

/-- The save slot of a launch that enters QUEUED: the lowest index free in every cluster of its set (R335). -/
def State.saveSlot (s : State) (v : Nat) (sh ctl : Word) : Option Nat :=
  let p := s.part v
  let cs := p.setClusters sh
  if !ctlCutok ctl || !cs.all p.saveOk then none
  else
    let used := ((s.seqCtx p.seqNo).launches.filter fun e => (p.setClusters e.2.shape).any cs.contains).filterMap
      fun e => e.2.save
    (List.range (p.svcfg.extractLsb' 8 8).toNat).find? fun k => !used.contains k

/-- LAUNCH at commit: the slot QUEUED, its handle returned (R306). -/
def State.launch (s : State) (d : BitVec 5) (a : DOp) : State :=
  let q := s.curSeq
  match (s.seqCtx q).freeSlot, s.seqRead q (s.readD a 0).toNat 32 with
  | some k, .ok bs =>
    match imageHdr bs with
    | none => s
    | some h =>
      let f := s.freshId
      let l : LSlot :=
        { LSlot.reset with
          st := .queued
          gen := ((s.seqCtx q).slot k).gen
          order := f.1
          imageId := h.image
          entry := h.entry
          hb1 := h.hb1
          hb2 := h.hb2
          prm := s.readD a 1
          shape := s.readD a 2
          ctl := s.readD a 3
          save := match s.partOfSeq q with
            | some v => s.saveSlot v (s.readD a 2) (s.readD a 3)
            | none => none }
      (f.2.modSeq q fun x => x.setSlot k l).dstS 2 false (.reg d) (BitVec.ofNat 64 (k + 256 * l.gen.toNat))
  | _, _ => s

/-- LAUNCH (R305, R306). -/
def execLaunch (d : BitVec 5) (a : DOp) (s : State) : Result :=
  issueSlot (.launch d a) (fun s => s.launchCheck a) (fun s => s.launch d a) s

/-! ### WAITL and LSTAT (R314, R315) -/

/-- The code of a launch state (R314). -/
def LState.code : LState → Nat
  | .free => 0
  | .queued => 0
  | .running => 1
  | .saved => 2
  | .complete => 4
  | .killed => 5

/-- The launch status word (R314). -/
def LSlot.status (l : LSlot) : Word :=
  BitVec.ofNat 64 (l.nerr.toNat * 2 ^ 48 + l.erank.toNat * 2 ^ 32 +
    (if l.st = .killed then l.cause.toNat else 0) * 2 ^ 16 + l.err.toNat * 2 ^ 8 + l.st.code)

/-- The slot that a launch handle names, unless the handle is stale (R315). -/
def State.launchOf (s : State) (h : Word) : Option LSlot :=
  let k := slotNo h
  if k > 15 then none
  else
    let l := (s.seqCtx s.curSeq).slot k
    if l.st = .free ∨ l.gen ≠ h.extractLsb' 8 8 then none else some l

/-- Whether a launch has retired. -/
def LSlot.over (l : LSlot) : Bool := l.st == .complete || l.st == .killed

/-- WAITL (R315). -/
def execWaitl (d : BitVec 5) (a : SOp) (s : State) : Result :=
  issueSlot (.waitl d a)
    (fun s => match s.launchOf (s.readS a) with
      | none => s.faultAt cSTALE_HANDLE (s.readS a)
      | some l => if l.over then .go else .wait none)
    (fun s => match s.launchOf (s.readS a) with
      | none => s
      | some l => (s.dstS 1 false (.reg d) l.status).modSeq s.curSeq fun q => q.setSlot (slotNo (s.readS a)) l.freed) s

/-- LSTAT (R315). -/
def execLstat (d : BitVec 5) (a : SOp) (s : State) : Result :=
  issueSlot (.lstat d a)
    (fun s => checkThat (s.launchOf (s.readS a)).isSome (s.faultAt cSTALE_HANDLE (s.readS a)))
    (fun s => match s.launchOf (s.readS a) with
      | none => s
      | some l => s.dstS 2 false (.reg d) l.status) s

/-! ### The launch queue (R307, R311) -/

/-- Whether a launch stands in the queue: QUEUED, or SAVED in its old place. -/
def LSlot.queued (l : LSlot) : Bool := l.st == .queued || l.st == .saved

/-- Whether a launch stands ahead of another (R307). -/
def LSlot.ahead (l m : LSlot) : Bool :=
  decide (ctlPrio m.ctl < ctlPrio l.ctl) || ctlPrio m.ctl == ctlPrio l.ctl && decide (l.order < m.order)

/-- Whether the tile sets of two launches of a partition overlap. -/
def Part.setsMeet (p : Part) (l m : LSlot) : Bool := (p.setTiles l.shape).any (p.setTiles m.shape).contains

/-- Whether the launch unit may bind or restore a launch of the partition: every tile of its set free, no launch ahead of it
overlaps, the partition neither halted nor offline (R307, R310, R327, R385). -/
def State.mayBind (s : State) (v k : Nat) : Bool :=
  let p := s.part v
  let l := s.lslot v k
  s.isServed v && !p.halt && !p.offline && (p.setTiles l.shape).all (fun t => (s.tile t).run == .free) &&
    (s.seqCtx p.seqNo).launches.all fun e => e.1 == k || !e.2.queued || !e.2.ahead l || !p.setsMeet e.2 l

/-! ### Binding (R172, R308, R309) -/

/-- A dictionary bank at binding (R172). -/
def DictBank.bind (b : DictBank) (image : BitVec 32) (samePart : Bool) : DictBank :=
  if b.tag.getLsbD 63 && b.tag.extractLsb' 0 32 == image && samePart then b else DictBank.reset

/-- The trap registers of a level at binding: the handler base set, the others as they stand (R308). -/
def TrapRegs.bind (r : TrapRegs) (hb : Word) : TrapRegs := { r with hbase := hb }

/-- A tile bound to rank r of a launch (R308). -/
def Tile.bindTo (x : Tile) (v k r : Nat) (l : LSlot) (cycle : Nat) : Tile :=
  let th := Thread.reset
  let same := x.part.toNat == v
  let nx := shNx l.shape
  let ny := shNy l.shape
  let nz := shNz l.shape
  { Tile.reset with
    th := { th with
      b0 := { th.b0 with pc := l.entry }
      tr1 := x.th.tr1.bind l.hb1
      tr2 := x.th.tr2.bind l.hb2
      bundles := x.th.bundles
      readyAt := cycle }
    run := .running
    part := BitVec.ofNat 6 v
    slot := BitVec.ofNat 4 k
    rank := BitVec.ofNat 16 r
    tx := BitVec.ofNat 8 (r % nx)
    ty := BitVec.ofNat 8 (r / nx % ny)
    tz := BitVec.ofNat 8 (r / nx / ny % nz)
    ts := BitVec.ofNat 8 (r / nx / ny / nz)
    nrank := BitVec.ofNat 17 (shNrank l.shape)
    param := l.prm
    imageId := l.imageId
    spad := x.spad
    bank0 := x.bank0.bind l.imageId same
    bank1 := x.bank1.bind l.imageId same
    dcache := x.dcache
    ddat := x.ddat }

/-- The places of a tile whose contents binding replaces (R392). -/
def boundPlace (t : Nat) : Place → Bool
  | .tfile u _ => u.toNat == t
  | .acc u _ => u.toNat == t
  | _ => false

/-- Every collective entry of a tile FREE (R356). -/
def State.freeEntries (s : State) (t : Nat) : State :=
  s.modCluster (t / 4) fun c => { c with cts := c.cts.filter fun e => e.1 / 128 != t % 4 }

/-- BIND (R307, R308, R310): the tiles fetch the image's code as HBM holds it now (R280). -/
def execBind (v : BitVec 6) (slot : BitVec 4) (s : State) : Result :=
  .next (
    let k := slot.toNat
    let l := s.lslot v.toNat k
    if l.st ≠ .queued ∨ !s.mayBind v.toNat k then s
    else
      let s := ((s.part v.toNat).setTiles l.shape).zipIdx.foldl (fun s e =>
        ((s.modTile e.1 fun x => x.bindTo v.toNat k e.2 l s.cycle).freeEntries e.1).clean (boundPlace e.1)) s
      s.modLslot v.toNat k fun l => { l with st := .running, code := s.hbm })

/-! ### Retirement (R107, R232, R301, R312) -/

/-- A level's copy with nothing under way. -/
def Bank.quieted (b : Bank) : Bank := { b with pend := [], loads := [] }

/-- A tile that is no longer bound to a launch. A DLOAD whose stall is cut off has left its bank and tag as they were
(assumption 82). -/
def Tile.release (x : Tile) : Tile :=
  { x with
    run := .free
    handles := []
    dirs := []
    notify := []
    late := []
    fill := none
    lease := none
    req := none
    grant := none
    cutPending := false
    reported := false
    th := { x.th with posts := [], b0 := x.th.b0.quieted, b1 := x.th.b1.quieted, b2 := x.th.b2.quieted } }

/-- A tile freed; its window and collective entries stay at its port until its launch retires (R239, R356). -/
def State.releaseTile (s : State) (t : Nat) : State := s.modTile t Tile.release

/-- Whether a tile was the last time bound to the launch of a slot. -/
def State.wasOf (s : State) (v k t : Nat) : Bool := (s.tile t).part.toNat == v && (s.tile t).slot.toNat == k

/-- The window and collective entries of a launch gone from a port (R239, R268, R356). -/
def State.freePort (s : State) (v k c : Nat) : State :=
  s.modCluster c fun x => { x with
    wins := x.wins.filter fun e => e.1 / 1024 != k
    cts := x.cts.filter fun e =>
      !(s.wasOf v k (ctTile c e.1) || e.2.proxy == some (BitVec.ofNat 6 v, BitVec.ofNat 4 k)) }

/-- A launch that retires or is saved: its window and collective entries are free, and its post notices gone (R239, R268,
R336, R356). -/
def State.freeLaunch (s : State) (v k : Nat) : State :=
  let s := ((s.part v).setClusters (s.lslot v k).shape).foldl (fun s c => s.freePort v k c) s
  { s with notes := s.notes.filter fun n => !(n.slot.toNat == k && (s.tile n.owner.toNat).part.toNat == v) }

/-- A launch in a retired state; its slot is freed at once when its context has stopped (R301, R312). -/
def LSlot.retire (l : LSlot) (st : LState) : LSlot := if l.left then l.freed else { l with st := st, cut := none }

/-- Operations of a tile in flight. -/
def State.opsOf (s : State) (t : Nat) : List (Nat × Op) := (s.cluster (t / 4)).ops.filter fun e => e.2.tile.toNat == t

/-- Whether nothing of a tile is under way any more: results, accesses, operations, requests, notices, notify records,
array (R107, R232, R249). -/
def State.drained (s : State) (t : Nat) : Bool :=
  let x := s.tile t
  x.th.quiet && x.th.b0.pend.isEmpty && x.th.b0.loads.isEmpty && x.fill.isNone && (s.opsOf t).isEmpty &&
    (x.handles.all fun h => !h.2.inFlight) && (s.cluster (t / 4)).arr.holder != some (BitVec.ofNat 2 t) &&
    (s.flows.all fun f => f.1 / 2048 != t || f.2.items.isEmpty) && (s.reqs.all fun m => m.origin.toNat != t) &&
    x.notify.isEmpty

/-- TILE_FREE (R107, R232, R312): a tile that has executed END is freed once everything of it has drained; with its last
rank the launch is COMPLETE. A launch whose context has been killed stays until the halt stops its tiles (R326, R327). -/
def execTileFree (t : BitVec 11) (s : State) : Result :=
  .next (
    let t := t.toNat
    let x := s.tile t
    let v := x.part.toNat
    let k := x.slot.toNat
    if x.run ≠ .ended ∨ !s.drained t ∨ (s.lslot v k).cause ≠ 0 then s
    else
      let s := s.releaseTile t
      if (s.ranks v k).isEmpty ∧ (s.lslot v k).st = .running then
        (s.freeLaunch v k).modLslot v k fun l => l.retire .complete
      else s)

/-! ### Sequencer programs (R303, R304) -/

/-- Bytes of a sequencer context's address space, granule by granule, or the cause. -/
def State.seqCopy (s : State) (q a : Nat) : Nat → Nat → Except (BitVec 8) (List Byte)
  | 0, _ => .ok []
  | fuel + 1, n =>
    if n = 0 then .ok []
    else
      let k := min n 64
      match s.seqRead q a k with
      | .error (c, _) => .error c
      | .ok bs =>
        match s.seqCopy q (a + k) fuel (n - k) with
        | .error c => .error c
        | .ok r => .ok (bs ++ r)

/-- The checks of a start record, and its program bytes, or the cause it is refused with: the range of the whole program first,
then translation and damage granule by granule (R303; assumption 74). -/
def State.startProgram (s : State) (q : Nat) (r : StartRec) : Except (BitVec 8) (List Byte) :=
  let len := (r.entryLen.extractLsb' 0 32).toNat
  let entry := (r.entryLen.extractLsb' 32 32).toNat
  if r.prog.toNat % 64 ≠ 0 ∨ entry % 4 ≠ 0 ∨ 0x20000 ≤ entry ∨ len = 0 ∨ 0x20000 < len then .error cLAUNCH_SHAPE
  else match s.seqTarget q r.prog.toNat len with
    | .error _ => .error cVIEW_RANGE
    | .ok _ => s.seqCopy q r.prog.toNat ((len + 63) / 64) len

/-- A context's thread at the start of a program; ISSUE counts on (R110, R302, R303; assumption 74). -/
def Thread.startAt (t : Thread) (entry : Nat) (arg : Word) (cycle : Nat) : Thread :=
  { t.dropLoops with
    b0 := { Bank.reset with pc := BitVec.ofNat 64 entry, n := t.b0.n }
    s := vset (Vector.replicate 28 0) 1 arg
    fpctl := 0x100
    readyAt := cycle }

/-- START_RECORD (R303, R377): an idle context takes the oldest record. -/
def execStartRecord (v : BitVec 6) (s : State) : Result :=
  .next (
    let p := s.part v.toNat
    let q := p.seqNo
    let x := s.seqCtx q
    match p.inbox with
    | [] => s
    | r :: rest =>
      if !p.en || x.running || x.done.isSome || s.partOfSeq q != some v.toNat then s
      else
        let s := (s.modPart v.toNat fun p => { p with inbox := rest }).raise v.toNat 2
        match s.startProgram q r with
        | .error c => s.doneRecord q ⟨r.tag, 0, c.setWidth 64 ||| 0x100⟩
        | .ok bs =>
          s.modSeq q fun x =>
            { x with
              cmd := writeBytes [] 0 bs
              running := true
              tag := r.tag
              ending := none
              th := x.th.startAt (r.entryLen.extractLsb' 32 32).toNat r.arg s.cycle })

/-- A launch slot that the end of a program frees (R304). -/
def LSlot.clear (l : LSlot) : LSlot := if l.st = .free then l else l.freed

/-- SEQUENCER_END (R303, R304): END is over once every launch slot is FREE, COMPLETE or KILLED. A done record that found
the mailbox full is written when MBPOP has made room (R377). -/
def execSequencerEnd (q : BitVec 6) (s : State) : Result :=
  .next (
    let k := q.toNat
    let x := s.seqCtx k
    match x.ending with
    | none => s
    | some pc =>
      if !(x.launches.all fun e => e.2.over) then s
      else
        (s.modSeq k fun x => { x with
          running := false
          ending := none
          slots := Vector.ofFn fun i => (x.slot i.val).clear }).doneRecord k ⟨x.tag, pc, 0⟩)

/-! ### Cuts (R311, R330 to R332) -/

/-- A cut of a running launch requested: pending in every tile, with an event record of its source (R330). -/
def State.requestCut (s : State) (v k : Nat) (src : BitVec 2) : State :=
  let s := s.modLslot v k fun l => { l with cut := some ⟨none, false⟩ }
  (s.ranks v k).foldl (fun s e =>
    (s.modTile e.1 fun x => { x with cutPending := true, cutSrc := src, reported := false }).event e.1 4 src.toNat) s

/-- Whether a tile of a waiting launch's set is still bound to a running launch: the waiting one cannot be bound for it (R307,
R311). -/
def State.keepsOut (s : State) (v waiting running : Nat) : Bool :=
  (s.ranks v running).any fun e => ((s.part v).setTiles (s.lslot v waiting).shape).contains e.1

/-- CUT_REQUEST (R311): a queued launch that a running one of lower priority with CUTOK and a save area keeps from
being bound; while OFFLINE is 1 as well (assumption 91). -/
def execCutRequest (v : BitVec 6) (waiting cut : BitVec 4) (s : State) : Result :=
  .next (
    let w := s.lslot v.toNat waiting.toNat
    let l := s.lslot v.toNat cut.toNat
    if w.st = .queued ∧ l.st = .running ∧ ctlPrio l.ctl < ctlPrio w.ctl ∧ ctlCutok l.ctl ∧ l.save.isSome ∧ l.cut = none ∧
        (s.part v.toNat).halt = false ∧ s.keepsOut v.toNat waiting.toNat cut.toNat then
      s.requestCut v.toNat cut.toNat 1
    else s)

/-- The parked tiles of a launch that have reported less than a count run on (R332). -/
def State.releaseBelow (s : State) (v k : Nat) (m : Word) : State :=
  (s.ranks v k).foldl (fun s e =>
    if e.2.run = .parked ∧ e.2.reported ∧ e.2.stepCnt < m then
      s.modTile e.1 fun x => { x with run := .running, reported := false }
    else s) s

/-- STEPCNT_REPORT (R331, R332): a parked tile whose results have all landed reports its count. -/
def execStepcntReport (t : BitVec 11) (s : State) : Result :=
  .next (
    let x := s.tile t.toNat
    let v := x.part.toNat
    let k := x.slot.toNat
    if x.run ≠ .parked ∨ x.reported ∨ !(x.th.bank.pend.isEmpty && x.th.bank.loads.isEmpty) then s
    else match (s.lslot v k).cut with
      | none => s
      | some c =>
        let m := match c.target with
          | some m => if m < x.stepCnt then x.stepCnt else m
          | none => x.stepCnt
        ((s.modTile t.toNat fun x => { x with reported := true }).modLslot v k fun l =>
          { l with cut := some { c with target := some m } }).releaseBelow v k m)

/-- Whether a cut is complete: every tile parked at M or freed, every access and operation performed (R332). -/
def State.cutDone (s : State) (v k : Nat) : Bool :=
  let rs := s.ranks v k
  !rs.isEmpty && match (s.lslot v k).cut with
    | some ⟨some m, false⟩ => rs.all fun e => e.2.run == .parked && e.2.reported && e.2.stepCnt == m && s.drained e.1
    | _ => false

/-- CUT_COMPLETE (R332): the launch goes to the context-save engine. -/
def execCutComplete (v : BitVec 6) (slot : BitVec 4) (s : State) : Result :=
  .next (if (s.lslot v.toNat slot.toNat).st = .running ∧ s.cutDone v.toNat slot.toNat then
      s.modLslot v.toNat slot.toNat fun l => { l with cut := l.cut.map fun c => { c with complete := true } }
    else s)

/-! ### The partition halt (R327 to R329) -/

/-- The stop record of a cluster's engine on behalf of a tile's launch (R328). -/
def State.engineRecord (s : State) (v k kind unit cause : Nat) (addr : Word) : State :=
  s.faultRecord v [stopHead kind cause 0 0 0 (s.physId unit), 0, addr, s.stopTail v k]

/-- The tiles bound to launches of a partition. -/
def State.partTiles (s : State) (v : Nat) : List (Nat × Tile) :=
  s.tiles.filter fun e => e.2.run != .free && e.2.part.toNat == v

/-- Stop records of the tiles that the halt stops; a killed tile has written its own. -/
def State.haltTiles (s : State) (v : Nat) : State :=
  (s.partTiles v).foldl (fun s e => if e.2.run = .stopped then s else s.tileRecord e.1 0 0 0) s

/-- A record of an engine that the halt stops, unless its kill has already written one (R326, R327). -/
def State.haltRecord (s : State) (v k kind c unit : Nat) : State :=
  if (s.cluster c).wrote.contains (killKey kind unit k) then s else s.engineRecord v k kind (4 * c + unit) 0 0

/-- The array of a cluster at the halt: a run ends, with a stop record. -/
def State.haltArray (s : State) (v c : Nat) : State :=
  match (s.cluster c).arr.holder with
  | none => s
  | some h =>
    (s.haltRecord v (s.tile (4 * c + h.toNat)).slot.toNat 2 c 0).modArr c fun _ => { MatArray.reset with last := h }

/-- The copy channels of a cluster at the halt. -/
def State.haltChannels (s : State) (v c : Nat) : State :=
  ([0, 1, 2, 3] : List Nat).foldl (fun s n =>
    match vget (s.cluster c).chans n with
    | none => s
    | some id =>
      match s.op? c id with
      | none => s
      | some o => s.haltRecord v (s.tile o.tile.toNat).slot.toNat 3 c n) s

/-- The launches that hold window or collective entries at a port. -/
def State.portLaunches (s : State) (c : Nat) : List Nat :=
  let k := s.cluster c
  ((k.wins.map Prod.fst).map (· / 1024) ++ (k.cts.map Prod.fst).map fun e => (s.tile (ctTile c e)).slot.toNat).dedup

/-- The port of a cluster at the halt: one record for each launch that holds entries there. -/
def State.haltPort (s : State) (v c : Nat) : State :=
  (s.portLaunches c).foldl (fun s k => s.haltRecord v k 4 c 0) s

/-- The base of a tile's save slot (R335). -/
def Part.saveBase (p : Part) (t k : Nat) : Nat := (p.saveRegion (t / 4)).1 + (4 * k + t % 4) * p.svlen.toNat

/-- Whether the image of a tile is whole. -/
def State.imageWhole (s : State) (v k t : Nat) : Bool := (s.lslot v k).ranks.contains (s.tile t).rank.toNat

/-- The save engine of a cluster at the halt: the header of the tile that it saves stays invalid, and its record tells how far
it has come (R339). A tile whose image is whole is passed. -/
def State.haltSaver (s : State) (v k i : Nat) (ts : List Nat) : State :=
  match (ts.find? fun t => !s.imageWhole v k t).or ts.getLast? with
  | none => s
  | some t =>
    let b := (s.part v).saveBase t i
    (if s.imageWhole v k t then s else s.hbmWrite b (leBytes 8 0)).engineRecord v k 5 (t / 4 * 4) 0
      (BitVec.ofNat 64 (b + fget 0 (s.lslot v k).saving t))

/-- A launch being saved when the halt comes: the save engine of each of its clusters stops (R339). -/
def State.haltSave (s : State) (v k : Nat) : State :=
  match (s.lslot v k).cut, (s.lslot v k).save with
  | some ⟨_, true⟩, some i =>
    let ts := (s.ranks v k).map Prod.fst
    (ts.map (· / 4)).dedup.foldl (fun s c => s.haltSaver v k i (ts.filter fun t => t / 4 == c)) s
  | _, _ => s

/-- A cluster's engines and port emptied. -/
def Cluster.emptied (k : Cluster) : Cluster :=
  { k with queue := [], chans := Vector.replicate 4 none, ops := [], wins := [], cts := [], wrote := [] }

/-- Whether a tile belongs to a partition, by its cluster. -/
def Part.hasTile (p : Part) (t : Nat) : Bool := p.map.any fun c => c.toNat == t / 4

/-- Whether a tile id of a collective packet is a tile of a partition of this module. -/
def State.ownsPeer (s : State) (v : Nat) (u : BitVec 15) : Bool :=
  u.toNat / 2048 == s.modl.pos.toNat && (s.part v).hasTile (u.toNat % 2048)

/-- The posted writes of a context discarded at the atomic units; an atomic among them answers with the word as it stands
(R327; assumption 68). -/
def State.discardPosts (s : State) (q : Nat) : State :=
  let a := Agent.seq (BitVec.ofNat 6 q)
  let t := s.threadOf a
  let s := s.modThreadOf a fun t => { t with posts := [] }
  (t.posts.filterMap fun p => match p.op with
    | .store _ => none
    | .atomic _ _ _ _ => t.findLoad p.id).foldl (fun s l => s.readLoad a l) s

/-- Everything of a partition that was on its way is discarded, its packets to other modules among it, those that a station
holds and those that have no acknowledgement: none is sent off the module any more (R327, R353, R354). -/
def State.discard (s : State) (v : Nat) : State :=
  let p := s.part v
  let s : State := { s with
    flows := s.flows.filter fun f => !p.hasTile (f.1 / 2048)
    reqs := s.reqs.filter fun m => !p.hasTile m.origin.toNat
    notes := s.notes.filter fun n => !p.hasTile n.owner.toNat
    ctMsgs := s.ctMsgs.filter fun m => !s.ownsPeer v m.src && !s.ownsPeer v m.dst
    modl := s.modl.dropPackets fun m => s.ownsPeer v m.src }
  p.map.foldl (fun s c => s.modCluster c.toNat Cluster.emptied) (s.discardPosts p.seqNo)

/-- The running launches of a partition end KILLED, their tiles freed (R312, R327). -/
def State.killLaunches (s : State) (v : Nat) : State :=
  let s := (s.partTiles v).foldl (fun s e => s.releaseTile e.1) s
  (List.range 16).foldl (fun s k =>
    if (s.lslot v k).st = .running then s.modLslot v k fun l => l.retire .killed else s) s

/-- Every engine of a partition stops (R327): stop records first, then everything is discarded. -/
def State.haltPartition (s : State) (v : Nat) : State :=
  let cs := (s.part v).map.map BitVec.toNat
  let s := s.haltTiles v
  let s := cs.foldl (fun s c => ((s.haltArray v c).haltChannels v c).haltPort v c) s
  let s := (List.range 16).foldl (fun s k =>
    if (s.lslot v k).st = .running then s.haltSave v k else s) s
  ((s.discard v).killLaunches v).raise v 1

/-- PARTITION_HALT (R327): the engines stop after the halt line has risen. -/
def execPartitionHalt (v : BitVec 6) (s : State) : Result :=
  .next (if (s.part v.toNat).halt ∧ !(s.part v.toNat).haltDone then
      (s.haltPartition v.toNat).modPart v.toNat fun p => { p with haltDone := true }
    else s)

/-- HALT_LINE_FALL (R327): the line falls once every stop record has been written. -/
def execHaltLineFall (v : BitVec 6) (s : State) : Result :=
  .next (if (s.part v.toNat).haltDone then s.modPart v.toNat fun p => { p with halt := false, haltDone := false } else s)

end Sys2Proof.Machine
end

