-- ==== Sys2Proof/Machine/Fabric.lean ====
section
/-! DEFINITION. Links, lanes and the rack ring as one module sees them: widths, silence, loss and join notices, rejoining (R346 to R354, R395). -/

namespace Sys2Proof.Machine

/-! ### Health (R376, R378) -/

/-- The enabled partitions. -/
def State.enabled (s : State) : List Nat := (s.parts.filter fun e => e.2.en).map Prod.fst

/-- The health vector of every enabled partition (R378; assumption 86). -/
def State.healthAll (s : State) : State := s.enabled.foldl (fun s v => s.raise v 3) s

/-- HSTAT.LDEG (R376): a link that trained at bring-up runs below full width, or is down. -/
def Mod.ldeg (m : Mod) : Bool :=
  (List.range 4).any fun n =>
    (m.faces n).isSome && (m.dir n true).trained && (m.dir n false).trained && ((m.dir n true).code != 3 || (m.dir n false).code != 3)

/-- A change of the links; the health vectors where LDEG changes (R378). -/
def State.modLinks (s : State) (f : List LinkDir → List LinkDir) : State :=
  let t := s.modMod fun m => { m with links := f m.links }
  if t.modl.ldeg = s.modl.ldeg then t else t.healthAll

/-! ### Lanes (R350, R351, R395) -/

/-- The place of a direction in the list of links. -/
def dirNo (link : Nat) (tx : Bool) : Nat := 2 * link + if tx then 0 else 1

/-- A list with one element changed. -/
def modNth {α : Type} (l : List α) (k : Nat) (f : α → α) : List α := l.zipIdx.map fun x => if x.2 = k then f x.1 else x.1

/-- LANE_FAILURE (R350, R395): the direction loses a lane and runs at what is left; Lovage turns spare lanes toward it,
of the four that the link has, and they serve once it has been retrained. -/
def execLaneFailure (link : BitVec 2) (tx : Bool) (spares : BitVec 3) (s : State) : Result :=
  .next (
    let n := link.toNat
    let other := s.modl.dir n !tx
    let free := 4 - max other.spares other.turning
    s.modLinks fun l => modNth l (dirNo n tx) fun d =>
      { d with good := d.good - 1, turning := max d.spares (min spares.toNat free) })

/-- CRC_FAIL (R351): the link sends the packet again; only its time changes. -/
def execCrcFail (link : BitVec 2) (tx : Bool) (s : State) : Result := .next s

/-! ### Silence, loss and joining (R353, R354) -/

/-- A change of RINGST.LOST: the route changes, so that what has been sent stands before what follows in its flow (R353,
R354), and the health vector of every virtual function whose partition has a nonzero DOMAIN is raised. -/
def State.setLost (s : State) (v : BitVec 16) : State :=
  if v = s.modl.lost then s
  else
    let s := s.modMod fun m => { m with lost := v, oldRoute := m.outRack.length }
    (s.parts.filter fun e => e.2.domain != 0).foldl (fun s e => s.raise e.1 3) s

/-- The bit of a module position. -/
def posBit (p : BitVec 4) : BitVec 16 := 1#16 <<< p.toNat

/-- Whether a link of this module faces a position. -/
def Mod.neighbour (m : Mod) (p : BitVec 4) : Bool := (List.range 4).any fun n => m.faces n == some p.toNat

/-- SILENCE_DETECT (R353): a neighbour from which no beat has come for 2 ms is isolated, its unacknowledged packets are
answered PEER_LOST, LOST is set, a loss notice goes the other way. -/
def execSilenceDetect (pos : BitVec 4) (s : State) : Result :=
  .next (if s.modl.neighbour pos ∧ s.modl.isolated &&& posBit pos = 0 then
      ((s.modMod fun m => { m with isolated := m.isolated ||| posBit pos, notices := m.notices ++ [pos] }).setLost
        (s.modl.lost ||| posBit pos)).answerLost pos.toNat
    else s)

/-- LOSS_NOTICE (R353): the first notice of a position sets its bit, and the module's own unacknowledged packets toward it are
answered PEER_LOST; a later one is ignored. A notice that names the module itself tells it that it has fallen silent. -/
def execLossNotice (pos : BitVec 4) (s : State) : Result :=
  .next (if s.modl.lost &&& posBit pos ≠ 0 then s
    else
      ((s.modMod fun m => { m with sinceSilent := if pos = m.pos then false else m.sinceSilent }).setLost
        (s.modl.lost ||| posBit pos)).answerLost pos.toNat)

/-- The partitions that the rejoining of this module halts: those with a nonzero DOMAIN, unless the module has been
reset since it fell silent (R354). -/
def State.rejoinHalts (s : State) : List Nat :=
  if s.modl.sinceSilent then [] else (s.parts.filter fun e => e.2.domain != 0).map Prod.fst

/-- REJOIN_COMMAND (R354): a neighbour may release its port once the link carries beats; the returning module halts its
partitions that share a domain, then sends its join notice. -/
def execRejoinCommand (pos : BitVec 4) (s : State) : Result :=
  .next (
    let x := s.modMod fun m => { m with rejoining := m.rejoining ||| posBit pos }
    if pos = s.modl.pos then
      let x := s.rejoinHalts.foldl (fun s v =>
        (s.haltPartition v).modPart v fun p => { p with halt := true, haltDone := true }) x
      (x.modMod fun m => { m with
        joins := m.joins ++ [pos]
        sinceSilent := false
        rejoining := m.rejoining &&& ~~~posBit pos }).setLost (x.modl.lost &&& ~~~posBit pos)
    else x)

/-- JOIN_NOTICE (R354): the position's bit of RINGST.LOST is cleared. -/
def execJoinNotice (pos : BitVec 4) (s : State) : Result := .next (s.setLost (s.modl.lost &&& ~~~posBit pos))

/-- LINK_RETRAIN_COMPLETE (R354, R395): a direction runs with its new spares, or an isolated port is released after a
rejoin command. -/
def execLinkRetrainComplete (r : Retrain) (s : State) : Result :=
  .next (match r with
    | .lanes link tx => s.modLinks fun l => modNth l (dirNo link.toNat tx) fun d => { d with spares := d.turning }
    | .port pos =>
      if s.modl.rejoining &&& posBit pos = 0 then s
      else s.modMod fun m =>
        { m with isolated := m.isolated &&& ~~~posBit pos, rejoining := m.rejoining &&& ~~~posBit pos })

end Sys2Proof.Machine
end

