-- ==== Sys2Proof/Machine/Partition.lean ====
section
/-! DEFINITION. Partitions: the registers of the physical and the virtual functions, enabling, adding and removing clusters (R2, R374 to R388). -/

namespace Sys2Proof.Machine

/-! ### What a block holds as the PF reads it (R382) -/

/-- An entry of PCMAP. -/
def Part.pcmapEntry (p : Part) (l : Nat) : Nat :=
  match p.map[l]? with
  | some c => 2 ^ 15 + c.toNat
  | none => 0

/-- A register of a partition's PF block as the PF reads it; PCMD is write only. -/
def Part.pfRead (p : Part) (off : Nat) : Word :=
  let b (x : Bool) (n : Nat) : Nat := if x then n else 0
  match off with
  | 0x000 => BitVec.ofNat 64 (b p.en 1 + b p.offline 2 + b p.lock 4)
  | 0x008 => p.ptbase
  | 0x010 => p.seqsel
  | 0x018 => p.fqcfg
  | 0x020 => p.svcfg
  | 0x028 => p.svlen
  | 0x030 => p.bwcap
  | 0x038 => p.domain.setWidth 64
  | 0x108 => BitVec.ofNat 64 (b p.busy (2 ^ 63) + p.result.toNat)
  | _ =>
    if 0x080 ≤ off ∧ off < 0x100 then
      BitVec.ofNat 64 (packNat 16 ((List.range 4).map fun i => p.pcmapEntry ((off - 0x080) / 2 + i)))
    else 0

/-- The 512 bytes of a partition's PF block. -/
def Part.pfBytes (p : Part) : List Byte := (List.range 64).flatMap fun k => leBytes 8 (p.pfRead (8 * k)).toNat

/-! ### Virtual functions (R376, R383) -/

/-- Whether VFv exists: the host link is up, VF Enable set, NumVFs greater than v (R383, R389). -/
def State.vfExists (s : State) (v : Nat) : Bool := s.modl.up && s.modl.vfEnable && decide (v < s.modl.numVfs.toNat)

/-- Whether VFv exists and serves an enabled partition. -/
def State.vfUsable (s : State) (v : Nat) : Bool := s.vfExists v && (s.part v).en

/-- A change that the host makes through the physical function, which is there once the host link is up (R389, R396). -/
def State.viaPf (s : State) (f : State → State) : State := if s.modl.up then f s else s

/-- HSTAT (R376). -/
def State.hstat (s : State) (v : Nat) : Word :=
  BitVec.ofNat 64 ((s.part v).cecnt.toNat * 2 ^ 32 + (if (s.part v).rpend then 4 else 0) +
    (if s.modl.throttled then 2 else 0) + if s.modl.ldeg then 1 else 0)

/-- MBSTAT (R376). -/
def Part.mbstat (p : Part) : Word :=
  BitVec.ofNat 64 ((if p.cutRej then 2 ^ 16 else 0) + (if p.mbOvf then 2 ^ 15 else 0) + p.outbox.length * 256 +
    p.inbox.length)

/-- A register of VF BAR0 as the host reads it (R376, R383). -/
def State.vfRead (s : State) (v off : Nat) : Word :=
  let p := s.part v
  if !s.vfUsable v then 0
  else match off with
    | 0x020 => p.mbstat
    | 0x040 => (p.outbox.head?.map DoneRec.tag).getD 0
    | 0x048 => (p.outbox.head?.map DoneRec.pc).getD 0
    | 0x050 => (p.outbox.head?.map DoneRec.cause).getD 0
    | 0x080 => BitVec.ofNat 64 p.fqBase
    | 0x088 => p.fqProd.setWidth 64
    | 0x090 => p.fqCons.setWidth 64
    | 0x098 => p.fqDrop.setWidth 64
    | 0x0A0 => p.isr.setWidth 64
    | 0x0B0 => if p.xlinv then 1 else 0
    | 0x0B8 => s.hstat v
    | 0x120 => p.attBuf ||| if p.attBusy then 1 else 0
    | _ => 0

/-! ### Registers of the block (R8, R382, R386, R388) -/

/-- A change of a register that the lock makes read only (R8). -/
def Part.rwl (p : Part) (f : Part → Part) : Part := if p.lock then p else f p

/-- A write to a register of the PF block that has no row of its own (R382); a PCMD of another command is ignored (assumption
78). -/
def Part.pfWrite (p : Part) (off : Nat) (x : Word) : Part :=
  match off with
  | 0x008 => p.rwl fun p => { p with ptbase := x &&& 0xFFFFFFF000 }
  | 0x010 => p.rwl fun p => { p with seqsel := x &&& 0x77 }
  | 0x018 => p.rwl fun p => { p with fqcfg := x &&& 0xFFFFFFF00F }
  | 0x020 => p.rwl fun p => { p with svcfg := x &&& 0x7FFFFF01 }
  | 0x028 => p.rwl fun p => { p with svlen := x }
  | _ => p

/-- BWCAP_WRITE (R386): the metering changes timing only. -/
def execBwcapWrite (v : BitVec 6) (x : Word) (s : State) : Result :=
  .next (s.viaPf fun s => s.modPart v.toNat fun p => { p with bwcap := x &&& 0xFFFF })

/-- DOMAIN_WRITE (R382, R388): refused where the operator's signed configuration does not name the domain. -/
def execDomainWrite (v : BitVec 6) (x : Word) (named : Bool) (s : State) : Result :=
  .next (s.viaPf fun s =>
    if named then s.modPart v.toNat fun p => p.rwl fun p => { p with domain := x.setWidth 16 } else s)

/-! ### EN, OFFLINE, LOCK (R382, R383, R385) -/

/-- Whether a range of HBM lies wholly in a partition's slices. -/
def Part.ownsRange (p : Part) (a n : Nat) : Bool :=
  n == 0 || ((List.range ((a + n - 1) / 2 ^ 31 + 1 - a / 2 ^ 31)).all fun k => p.owns (a + k * 2 ^ 31))

/-- The base of a partition's tables. -/
def Part.tableBase (p : Part) : Nat := (p.ptbase.extractLsb' 12 28).toNat * 4096

/-- Every translation buffer of a partition empty (R205, R381). -/
def State.dropTlbs (s : State) (v : Nat) : State :=
  (s.part v).map.foldl (fun s c => s.modCluster c.toNat Cluster.invalidated) s

/-- PCTL_EN_SET (R205, R385): ignored where the partition is not complete. -/
def execPctlEnSet (v : BitVec 6) (s : State) : Result :=
  .next (s.viaPf fun s =>
    let p := s.part v.toNat
    if p.en ∨ p.map.length < 8 ∨ !p.ownsRange p.tableBase 0x80000 ∨ !p.ownsRange p.fqBase (32 * p.fqSize) then s
    else (s.dropTlbs v.toNat).modPart v.toNat fun p => { p with en := true, fqDrop := 0 })

/-- Whether a launch of a partition is queued, running or saved. -/
def LSlot.live (l : LSlot) : Bool := l.st == .queued || l.st == .running || l.st == .saved

/-- Whether some launch of a partition is queued, running or saved (assumption 90). -/
def State.liveLaunch (s : State) (v : Nat) : Bool := (s.launchesOf v).any fun e => e.2.live

/-- The places of a cluster that Lovage zeroes: all but its tile files (R384, R392). -/
def zeroedPlace (c : Nat) : Place → Bool
  | .hbm w => 8 * w / 2 ^ 31 == c
  | .scratch t _ => t.toNat / 4 == c
  | .acc t _ => t.toNat / 4 == c
  | .tfile _ _ => false
  | .dict t _ => t.toNat / 4 == c

/-- A dictionary bank that Lovage has set to zero (R384). -/
def DictBank.zero : DictBank := ⟨[], 0, some 0⟩

/-- Lovage zeroes a cluster that enters or leaves the free pool: scratchpads, accumulator stores, dictionaries and the
slice (R384). -/
def State.zeroCluster (s : State) (c : Nat) : State :=
  let s := (List.range 4).foldl (fun s k => s.modTile (4 * c + k) fun x => { x with
    spad := []
    views := []
    acc := []
    bank0 := DictBank.zero
    bank1 := DictBank.zero
    dcache := [] }) s
  { s with hbm := zeroBytes s.hbm (c * 2 ^ 31) (2 ^ 31) }.clean (zeroedPlace c)

/-- A cluster back in the free pool, the partition's layout epoch one higher (R384; where EN is cleared, assumption 78). -/
def State.leaveCluster (s : State) (v : BitVec 6) (c : BitVec 9) : State :=
  ((((s.dropTlbs v.toNat).zeroCluster c.toNat).modCluster c.toNat fun k => { k with owner := none }).modPart v.toNat fun p =>
    { p with map := p.map.filter (· != c), layout := p.layout + 1 }).settleRpend v

/-- PCTL_EN_CLEAR (R382, R385): ignored while a launch is live; every cluster returns to the free pool, LOCK is
cleared, and the layout epoch is one higher for each of them. A REMOVE that waits is dropped, and the registers of the
virtual function keep their values (assumption 78). A
program that the partition's context runs goes on (assumption 85). -/
def execPctlEnClear (v : BitVec 6) (s : State) : Result :=
  .next (s.viaPf fun s =>
    let p := s.part v.toNat
    if !p.en ∨ s.liveLaunch v.toNat then s
    else
      (p.map.foldl (fun s c => s.leaveCluster v c) s).modPart v.toNat fun p =>
        { p with en := false, lock := false, busy := false })

/-- PCTL_OFFLINE (R385): while it is 1, the launch unit binds and restores nothing. -/
def execPctlOffline (v : BitVec 6) (on : Bool) (s : State) : Result :=
  .next (s.viaPf fun s => s.modPart v.toNat fun p => { p with offline := on })

/-- PCTL_LOCK (R382). -/
def execPctlLock (v : BitVec 6) (s : State) : Result :=
  .next (s.viaPf fun s => s.modPart v.toNat fun p => { p with lock := true })

/-! ### ADD and REMOVE (R384) -/

/-- The result of a command. -/
def State.pcmdResult (s : State) (v : Nat) (r : BitVec 8) : State :=
  s.modPart v fun p => { p with busy := false, result := r }

/-- PCMD_ADD (R384). A command written while BUSY reads 1 is ignored (assumption 78). -/
def execPcmdAdd (v : BitVec 6) (c : BitVec 9) (s : State) : Result :=
  .next (s.viaPf fun s =>
    let p := s.part v.toNat
    if p.busy then s
    else if p.map.length ≥ 64 then s.pcmdResult v.toNat 2
    else if (s.cluster c.toNat).owner.isSome then s.pcmdResult v.toNat 1
    else
      (((((s.zeroCluster c.toNat).modCluster c.toNat fun k => { k with owner := some v }).modPart v.toNat fun p =>
        { p with map := p.map ++ [c], layout := p.layout + 1 }).dropTlbs v.toNat).settleRpend v).pcmdResult v.toNat 0)

/-- PCMD_REMOVE (R384): refused at the eight clusters of an enabled partition; else it waits for the drain. A
command written while BUSY reads 1, or at PCL 0, is ignored (assumption 78). -/
def execPcmdRemove (v : BitVec 6) (s : State) : Result :=
  .next (s.viaPf fun s =>
    let p := s.part v.toNat
    if p.busy ∨ p.map.isEmpty then s
    else if p.en ∧ p.map.length = 8 then s.pcmdResult v.toNat 3
    else s.modPart v.toNat fun p => { p with busy := true, since := s.cycle })

/-- Whether a cluster of a partition is drained (R384; assumption 90). -/
def State.clusterDrained (s : State) (v c : Nat) : Bool :=
  let p := s.part v
  let k := s.cluster c
  ((s.launchesOf v).all fun e => !e.2.live || !(p.setClusters e.2.shape).contains c) && k.queue.isEmpty &&
    k.ops.isEmpty && k.wins.isEmpty && k.cts.all fun e => e.2.st == .free

/-- REMOVE_DRAIN (R2, R384): the last cluster has drained and returns to the free pool, unless the partition has been enabled
with eight clusters since. -/
def execRemoveDrain (v : BitVec 6) (s : State) : Result :=
  .next (
    let p := s.part v.toNat
    match p.map.getLast? with
    | none => s
    | some c =>
      if !p.busy ∨ !s.clusterDrained v.toNat c.toNat then s
      else if p.en ∧ p.map.length = 8 then s.pcmdResult v.toNat 3
      else (s.leaveCluster v c).pcmdResult v.toNat 0)

/-- REMOVE_TIMEOUT (R384): one second without a drain. -/
def execRemoveTimeout (v : BitVec 6) (s : State) : Result :=
  .next (
    let p := s.part v.toNat
    if p.busy ∧ p.since + 1050000000 ≤ s.cycle ∧ !p.map.getLast?.any (fun c => s.clusterDrained v.toNat c.toNat) then
      s.pcmdResult v.toNat 4
    else s)

end Sys2Proof.Machine
end

