-- ==== Sys2Proof/Machine/HostLink.lean ====
section
/-! DEFINITION. What the host does through a virtual function: mailbox, fault queue, interrupts, cuts, invalidation, attestation, BAR2; and the page walk (R203 to R205, R303, R374 to R381, R390). -/

namespace Sys2Proof.Machine

/-- A change that the host makes through VFv, which must serve an enabled partition (R383). -/
def State.viaVf (s : State) (v : Nat) (f : State → State) : State := if s.vfUsable v then f s else s

/-! ### The mailbox (R303, R376, R377) -/

/-- A start record enqueued, or dropped with OVF when eight wait. -/
def Part.enqueue (p : Part) (x : Word) : Part :=
  if p.inbox.length ≥ 8 then { p with mbOvf := true }
  else { p with inbox := p.inbox ++ [⟨vget p.mbin 0, vget p.mbin 1, vget p.mbin 2, x⟩] }

/-- A write to MBIN3. -/
def State.writeMbin3 (s : State) (v : Nat) (x : Word) : State := s.modPart v fun p => p.enqueue x

/-- MBIN3_WRITE (R375, R377). -/
def execMbin3Write (v : BitVec 6) (x : Word) (s : State) : Result :=
  .next (s.viaVf v.toNat fun s => s.writeMbin3 v.toNat x)

/-- A write to MBPOP: the head done record leaves, and one that waited for a place is written. -/
def State.writeMbpop (s : State) (v : Nat) : State :=
  let s := s.modPart v fun p => { p with outbox := p.outbox.drop 1 }
  let q := (s.part v).seqNo
  match (s.seqCtx q).done with
  | some d => if s.partOfSeq q = some v then s.doneRecord q d else s
  | none => s

/-- MBPOP (R376, R377). -/
def execMbpop (v : BitVec 6) (x : Word) (s : State) : Result := .next (s.viaVf v.toNat fun s => s.writeMbpop v.toNat)

/-! ### Fault queue and interrupts (R378, R379) -/

/-- A write to FQCONS; ignored where the distance to FQPROD would be negative or exceed the size. -/
def Part.writeCons (p : Part) (x : Word) : Part :=
  let c : BitVec 32 := x.setWidth 32
  if (p.fqProd - c).toNat ≤ p.fqSize then { p with fqCons := c } else p

/-- FQCONS_WRITE (R379). -/
def execFqconsWrite (v : BitVec 6) (x : Word) (s : State) : Result :=
  .next (s.viaVf v.toNat fun s => s.modPart v.toNat fun p => p.writeCons x)

/-- A write to ISR: ones clear. -/
def Part.writeIsr (p : Part) (x : Word) : Part := { p with isr := p.isr &&& ~~~(x.setWidth 4) }

/-- ISR_WRITE (R8, R376). -/
def execIsrWrite (v : BitVec 6) (x : Word) (s : State) : Result :=
  .next (s.viaVf v.toNat fun s => s.modPart v.toNat fun p => p.writeIsr x)

/-! ### LCUT (R380) -/

/-- A write to LCUT: a cut of a running launch with a save area, or CUTREJ. -/
def State.writeLcut (s : State) (v : Nat) (x : Word) : State :=
  let k := slotNo x
  let l := s.lslot v k
  if x.extractLsb' 16 48 ≠ 1 ∨ k > 15 ∨ !s.isServed v ∨ l.st ≠ .running ∨ l.gen ≠ x.extractLsb' 8 8 ∨ l.save.isNone then
    s.modPart v fun p => { p with cutRej := true }
  else if l.cut.isSome then s
  else s.requestCut v k 2

/-- LCUT (R380). -/
def execLcut (v : BitVec 6) (x : Word) (s : State) : Result := .next (s.viaVf v.toNat fun s => s.writeLcut v.toNat x)

/-! ### Translations (R203 to R205, R381) -/

/-- A write to XLINV: bit 0 starts an invalidation. -/
def Part.writeXlinv (p : Part) (x : Word) : Part := if x.getLsbD 0 then { p with xlinv := true } else p

/-- XLINV (R381). -/
def execXlinv (v : BitVec 6) (x : Word) (s : State) : Result :=
  .next (s.viaVf v.toNat fun s => s.modPart v.toNat fun p => p.writeXlinv x)

/-- XLINV_DONE (R205, R381): every buffer of the partition is empty. -/
def execXlinvDone (v : BitVec 6) (s : State) : Result :=
  .next (if (s.part v.toNat).xlinv then (s.dropTlbs v.toNat).modPart v.toNat fun p => { p with xlinv := false } else s)

/-- TRANSLATION_WALK (R203 to R205, R343): the cluster of an enabled partition keeps what the walk finds, as a translation that
an access may use until the next invalidation; its buffer takes a mapping alone. -/
def execTranslationWalk (c : BitVec 9) (w : BitVec 31) (s : State) : Result :=
  .next (
    match (s.cluster c.toNat).owner with
    | none => s
    | some v =>
      if !(s.part v.toNat).en then s
      else match s.walked (s.part v.toNat) c.toNat w.toNat with
        | some o => s.modCluster c.toNat fun k => k.keepWalk (w.toNat / 2 ^ 16) o
        | none => s)

/-! ### Attestation (R390) -/

/-- The buffer that an ATTCTL word names. -/
def attBuffer (x : Word) : Nat := (x.extractLsb' 12 28).toNat * 4096

/-- Whether the report buffer at an address lies in the partition's slices (R390). -/
def Part.attOwns (p : Part) (a : Nat) : Bool := p.ownsRange a 4096

/-- A write to ATTCTL: the buffer, and a start of a report, which takes the place of one under way and needs its buffer in the
partition's slices (R376, R390; assumption 69). -/
def Part.writeAttctl (p : Part) (x : Word) : Part :=
  let p := { p with attBuf := x &&& 0xFFFFFFF000 }
  if x.getLsbD 0 then { p with attTo := attBuffer x, attBusy := p.attOwns (attBuffer x) } else p

/-- ATTCTL_START (R376, R390). -/
def execAttctlStart (v : BitVec 6) (x : Word) (s : State) : Result :=
  .next (s.viaVf v.toNat fun s => s.modPart v.toNat fun p => p.writeAttctl x)

/-- Bytes 0x000 to 0x0B7 of a report: the nonce, the PF block and the epoch as they stand when it is written (R390;
assumption 92). -/
def State.attBody (s : State) (v : Nat) : List Byte :=
  let p := s.part v
  leBytes 8 1 ++ (p.nonce.toList.flatMap fun w => leBytes 8 w.toNat) ++
    leBytes 64 (Config.shake256 (Config.firmware s.modl.pos.toNat)).toNat ++
    leBytes 64 (Config.shake256 (p.pfBytes ++ leBytes 8 p.layout)).toNat ++ leBytes 8 p.layout ++
    leBytes 8 (s.modl.pos.toNat * 256 + v)

/-- The length of the signature of a report: of at most 1,536 bytes (R390; assumption 8). -/
def signLength (body : List Byte) : Nat := min (Config.signatureLength body) 1536

/-- Bytes padded with zeros, or cut, to a length. -/
def padTo (n : Nat) (bs : List Byte) : List Byte := (bs ++ List.replicate n 0).take n

/-- The report: the length of its signature, and a signature of that length, padded with zeros to 1,536 bytes. -/
def State.attReport (s : State) (v : Nat) : List Byte :=
  let body := s.attBody v
  let n := signLength body
  let signed := body ++ leBytes 8 n
  signed ++ padTo 1536 (padTo n (Config.sign signed))

/-- ATTESTATION_REPORT (R390): the report is written to the buffer it was started for, where that still lies in the partition's
slices, a save region among them (assumption 93), and bit 0 of ATTCTL reads 0. -/
def execAttestationReport (v : BitVec 6) (s : State) : Result :=
  .next (
    let p := s.part v.toNat
    if p.attBusy then
      (if p.attOwns p.attTo then s.hbmWrite p.attTo (s.attReport v.toNat) else s).modPart v.toNat fun p =>
        { p with attBusy := false }
    else s)

/-! ### BAR2 (R375) -/

/-- The HBM physical addresses of an access to BAR2, piece by piece within granules; none where one lies at or above the
partition's cluster count. -/
def Part.bar2 (p : Part) (off n : Nat) : Option (List (Nat × Nat)) :=
  (granCuts off n).foldr (fun x r => match p.map[x.1 / 2 ^ 31]?, r with
    | some c, some l => some ((c.toNat * 2 ^ 31 + x.1 % 2 ^ 31, x.2) :: l)
    | _, _ => none) (some [])

/-- A completion that the host sees. -/
def State.complete (s : State) (r : Option (List Byte)) : State := s.modMod fun m => { m with reads := r :: m.reads }

/-- HOST_BAR2_WRITE (R375, R383): performed at the atomic unit, in a save region too (assumption 93), or an Unsupported
Request with nothing written. -/
def execHostBar2Write (v : BitVec 6) (off : BitVec 37) (bytes : List Byte) (s : State) : Result :=
  .next (match (if s.vfUsable v.toNat then (s.part v.toNat).bar2 off.toNat bytes.length else none) with
    | none => s.complete none
    | some ps => (ps.foldl (fun (x : State × List Byte) p => (x.1.hbmWrite p.1 (x.2.take p.2), x.2.drop p.2)) (s, bytes)).1)

/-- HOST_BAR2_READ (R375, R383). -/
def execHostBar2Read (v : BitVec 6) (off : BitVec 37) (len : Nat) (s : State) : Result :=
  .next (match (if s.vfUsable v.toNat then (s.part v.toNat).bar2 off.toNat len else none) with
    | none => s.complete none
    | some ps => s.complete (some (ps.flatMap fun p => readBytes s.hbm p.1 p.2)))

/-! ### Every other host-visible register (R376, R382, R383) -/

/-- A write to a register of VF BAR0 (R376). -/
def State.vfWrite (s : State) (v off : Nat) (x : Word) : State :=
  let upd (f : Part → Part) : State := s.modPart v f
  match off with
  | 0x000 => upd fun p => { p with mbin := vset p.mbin 0 x }
  | 0x008 => upd fun p => { p with mbin := vset p.mbin 1 x }
  | 0x010 => upd fun p => { p with mbin := vset p.mbin 2 x }
  | 0x018 => s.writeMbin3 v x
  | 0x020 => upd fun p => { p with cutRej := p.cutRej && !x.getLsbD 16, mbOvf := p.mbOvf && !x.getLsbD 15 }
  | 0x058 => s.writeMbpop v
  | 0x090 => upd fun p => p.writeCons x
  | 0x0A0 => upd fun p => p.writeIsr x
  | 0x0A8 => s.writeLcut v x
  | 0x0B0 => upd fun p => p.writeXlinv x
  | 0x100 => upd fun p => { p with nonce := vset p.nonce 0 x }
  | 0x108 => upd fun p => { p with nonce := vset p.nonce 1 x }
  | 0x110 => upd fun p => { p with nonce := vset p.nonce 2 x }
  | 0x118 => upd fun p => { p with nonce := vset p.nonce 3 x }
  | 0x120 => upd fun p => p.writeAttctl x
  | _ => s

/-- REGISTER_WRITE (R8, R376, R382, R383). -/
def execRegisterWrite (r : HostReg) (x : Word) (s : State) : Result :=
  .next (match r with
    | .vf v off => s.viaVf v.toNat fun s => s.vfWrite v.toNat off.toNat x
    | .pf v off => s.viaPf fun s => s.modPart v.toNat fun p => p.pfWrite off.toNat x
    | .numVfs => s.viaPf fun s => s.modMod fun m => { m with numVfs := BitVec.ofNat 64 (min 64 x.toNat) }
    | .vfEnable => s.viaPf fun s => s.modMod fun m => { m with vfEnable := x.getLsbD 0 })

end Sys2Proof.Machine
end

