-- ==== Sys2Proof/Machine/Health.lean ====
section
/-! DEFINITION. Bring-up, errors, scrubbing, repair, throttling and the thermal stop (R389, R392 to R397); unassigned opcodes and fetch faults as slots of the table (R52, R75, R193). -/

namespace Sys2Proof.Machine

/-! ### Bring-up (R352, R389, R396) -/

/-- A link direction as trained: at a width its good lanes serve. -/
def trainedDir (n : BitVec 7) : LinkDir := ⟨min n.toNat 64, 0, 0, decide (16 ≤ n.toNat)⟩

/-- The module as the straps and the cluster test leave it, before firmware runs (R3, R8, R352, R354, R396). -/
def strapped (b : BringUp) : Mod :=
  { Mod.reset with
    pos := b.pos
    member := b.member
    spareUsed := b.spareUsed.zipIdx.map fun e => (e.2, min 4 e.1)
    sinceSilent := b.returning }

/-- POWER_ON (R110, R389, R396): every register at its reset value; after a failed check the host link stays down, which the
management link reports; else the module is up, with its links trained and every partition disabled. -/
def execPowerOn (b : BringUp) (s : State) : Result :=
  .next { State.reset with
    turns := s.turns
    turnNo := s.turnNo
    choice := s.choice
    nextId := s.nextId
    modl := if b.verified then { strapped b with up := true, links := b.lanes.map trainedDir }
      else { strapped b with bootFailed := true } }

/-! ### Errors (R376, R378, R392) -/

/-- The cluster of a place. -/
def placeCluster : Place → Nat
  | .hbm w => 8 * w / 2 ^ 31
  | .scratch t _ => t.toNat / 4
  | .acc t _ => t.toNat / 4
  | .tfile t _ => t.toNat / 4
  | .dict t _ => t.toNat / 4

/-- A corrected error counted by a partition: the health vector when the count passes a multiple of 1,024. -/
def State.countCorrected (s : State) (c : Nat) : State :=
  match (s.cluster c).owner with
  | none => s
  | some v =>
    let p := s.part v.toNat
    if p.cecnt = 0xFFFFFFFF then s
    else
      let s := s.modPart v.toNat fun p => { p with cecnt := p.cecnt + 1 }
      if (p.cecnt.toNat + 1) % 1024 = 0 then s.raise v.toNat 3 else s

/-- An uncorrectable error: its row is scheduled for repair, or it counts for its cluster (R394; assumption 45). -/
def State.uncorrectable (s : State) : Place → State
  | .hbm w => s.schedule (.row (rowOfWordNo w))
  | p => s.clusterError (placeCluster p) 0

/-- A word suffers an error: corrected, with its row counted where it lies in HBM, or uncorrectable (R392, R394). -/
def State.suffer (s : State) (p : Place) (fatal : Bool) : State :=
  if fatal then
    if s.modl.bad.contains p then s else (s.modMod fun m => { m with bad := p :: m.bad }).uncorrectable p
  else
    let s := s.countCorrected (placeCluster p)
    match p with
    | .hbm w => s.rowError (rowOfWordNo w)
    | _ => s

/-- SCRUB (R393, R394): an uncorrectable word kills nothing; its row is scheduled for repair. -/
def execScrub (p : Place) (s : State) : Result :=
  .next (match p with
    | .hbm w => if s.modl.bad.contains p then s.schedule (.row (rowOfWordNo w)) else s
    | _ => s)

/-! ### Repair (R394) -/

/-- Whether Lovage may repair: the owning partition is OFFLINE and has no RUNNING launch; a cluster of the free pool has none
(R394; assumption 87). -/
def State.mayRepair (s : State) (c : Nat) : Bool :=
  match (s.cluster c).owner with
  | none => true
  | some v =>
    (s.part v.toNat).offline && (s.launchesOf v.toNat).all fun e => e.2.st != .running

/-- Whether a die has a spare cluster left, or a row's bank a spare row (assumption 9). -/
def State.spareLeft (s : State) : RepairOf → Bool
  | .row r => Config.spareRowLeft r
  | .cluster c => decide (fget 0 s.modl.spareUsed (c.toNat / 64) < 4)

/-- A repair performed: a row keeps its data; a spare cluster takes the number and the slice of the one it replaces, which
software does not see (R3). -/
def State.performRepair (s : State) (r : RepairOf) : State :=
  match r with
  | .row k => s.modMod fun m => { m with rowErr := fdel m.rowErr k }
  | .cluster c =>
    let n := c.toNat
    s.modMod fun m => { m with
      spareUsed := fput m.spareUsed (n / 64) (fget 0 m.spareUsed (n / 64) + 1)
      sramErr := fdel (fdel m.sramErr (2 * n)) (2 * n + 1) }

/-- REPAIR (R394): a scheduled repair, or a report to the PF where no spare is left. Whether the report too waits until the
partition is OFFLINE without a RUNNING launch R394 does not say; in the model it does (assumption 87). -/
def execRepair (r : RepairOf) (s : State) : Result :=
  .next (
    let c := repairCluster r
    if !(s.modl.repairs.contains r) ∨ !s.mayRepair c then s
    else if !s.spareLeft r then
      s.modMod fun m => { m with reports := if m.reports.contains r then m.reports else r :: m.reports }
    else
      ((s.performRepair r).modMod fun m => { m with repairs := m.repairs.filter (· != r) }).settleOwner c)

/-! ### Throttling and the stop (R397) -/

/-- THROT changes: the health vectors (R378). -/
def State.setThrottle (s : State) (on : Bool) : State :=
  if s.modl.throttled = on then s else (s.modMod fun m => { m with throttled := on }).healthAll

/-- THROTTLE (R397): stall cycles are inserted; issue-cycle schedules do not change. -/
def execThrottle (s : State) : Result := .next (s.setThrottle true)

/-- THROTTLE_END (R397). -/
def execThrottleEnd (s : State) : Result := .next (s.setThrottle false)

/-- THERMAL_STOP (R397): Lovage stops the module. -/
def execThermalStop (s : State) : Result := .next (s.modMod fun m => { m with stopped := true })

/-! ### Slots of the table that stand for a refused fetch -/

/-- UNASSIGNED_OPCODE (R52, R75): a slot word that no map assigns raises INVALID_ENCODING, and its bundle does not
commit. -/
def execUnassignedOpcode (w : BitVec 32) (s : State) : Result :=
  match decodeSlot w with
  | .ok _ => .next s
  | .error _ => issueSlot .nop (fun s => s.faultPc cINVALID_ENCODING) (fun s => s) s

/-- FETCH_FAULT (R72, R74, R193): a bundle of the agent whose fetch fails raises its fault at step 1, with the bit of the slot
that could not be read. -/
def execFetchFault (s : State) : Result :=
  let pc := s.thread.bank.pc
  .next (match s.fetchWords pc 8 with
    | .ok _ => s
    | .error (c, a) => (s.modIss fun k => { k with pc := pc, nextPc := pc, cost := 0 }).takeTrap pc ⟨c, a, fetchBit pc a, false, true, false⟩)

end Sys2Proof.Machine
end

