-- ==== Sys2Proof/Machine/Save.lean ====
section
/-! DEFINITION. The context-save engine: tile images, saving and restoring a launch (R268, R309, R335 to R340). -/

namespace Sys2Proof.Machine

/-! ### Memories as sparse images -/

/-- The cells of a range of a memory, moved so that the range starts at an address. -/
def moveCells (m : Memory) (lo n to_ : Nat) : Memory :=
  (m.filter fun c => decide (lo ≤ c.1 ∧ c.1 < lo + n)).map fun c => (c.1 - lo + to_, c.2)

/-- Words laid from an offset upward. -/
def putWords (m : Memory) (off : Nat) (ws : List Word) : Memory := writeBytes m off (ws.flatMap fun w => leBytes 8 w.toNat)

/-- Rows of a file laid from an offset upward, row k at off + 512 k. -/
def putRows (m : Memory) (off : Nat) (rows : FMap Row) : Memory :=
  rows.foldl (fun m e => writeBytes m (off + 512 * e.1) (rowBytes e.2)) m

/-- The rows from an offset upward that a memory lists. -/
def rowsFrom (m : Memory) (off n : Nat) : FMap Row :=
  ((List.range n).filter fun k => m.any fun c => decide (off + 512 * k ≤ c.1 ∧ c.1 < off + 512 * k + 512)).map fun k =>
    (k, rowOf (readBytes m (off + 512 * k) 512))

/-- A range of HBM replaced by an image's cells; its damaged words are whole again (R392). -/
def State.putImage (s : State) (base lo n : Nat) (m : Memory) : State :=
  let cells := moveCells m lo n (base + lo)
  { s with
    hbm := s.hbm.filter (fun c => c.1 < base + lo) ++ (cells ++ s.hbm.filter fun c => base + lo + n ≤ c.1)
    modl := { s.modl with bad := s.modl.bad.filter (uncovered (base + lo) n) } }

/-! ### The image of a tile (R336 to R338) -/

/-- A loop entry as four words (R337). -/
def LoopEntry.words (l : LoopEntry) : List Word :=
  [l.start, l.endPc, BitVec.ofNat 64 (l.saved.toNat * 2 ^ 40 + l.stages.toNat * 2 ^ 33 + (if l.pipelined then 2 ^ 32 else 0) +
    l.rem.toNat), 0]

/-- A loop entry of four words. -/
def loopEntry (m : Memory) (off : Nat) : LoopEntry :=
  let w (k : Nat) : Word := BitVec.ofNat 64 (readLe m (off + 8 * k) 8)
  ⟨w 0, w 1, (w 2).extractLsb' 0 32, (w 2).getLsbD 32, (w 2).extractLsb' 33 3, (w 2).extractLsb' 40 8⟩

/-- The registers of a trap level as saved (R337). -/
def TrapRegs.words (r : TrapRegs) : List Word := [r.epc, r.cause, r.addr, r.stat]

/-- The scalar section (R337). -/
def Tile.scalarSection (x : Tile) (m : Memory) : Memory :=
  let t := x.th
  let pack (f : Bank → Nat) : Nat := f t.b0 + 256 * f t.b1 + 65536 * f t.b2
  let m := putWords m 0x100 (t.s.toList ++ t.b0.hi.toList)
  let m := putWords m 0x200 (t.b1.hi.toList ++ t.b2.hi.toList)
  let m := putWords m 0x240 x.so.toList
  let m := putWords m 0x280
    [t.b0.pc, BitVec.ofNat 64 (pack fun b => b.sb.toNat),
      BitVec.ofNat 64 (pack (fun b => (b.p ||| 1).toNat) + t.ps.toNat * 2 ^ 24), x.curs, t.fpctl, x.astat.setWidth 64,
      x.evstat, x.stepNo.setWidth 64, x.stepCnt, t.issue, t.tr1.hbase, t.tr2.hbase]
  let m := putWords m 0x2E0 (t.tr1.words ++ t.tr2.words)
  let m := putWords m 0x320 (x.ly.toList ++ (t.li.toList ++ [BitVec.ofNat 64 t.loops.length, x.dictst t.b0.n, x.bank0.tag, x.bank1.tag]))
  putWords m 0x3B0 (t.loops.reverse.flatMap LoopEntry.words)

/-- A handle slot as saved (R336). -/
def HSlot.word (h : HSlot) : Nat :=
  h.gen.toNat + (match h.og with
    | some g => g.toNat * 256 + 2 ^ 16
    | none => 0) + if h.st = .alloc then 2 ^ 17 else 0

/-- A window entry as saved (R336). -/
def WEntry.words (e : WEntry) (wid : Nat) : List Word :=
  [BitVec.ofNat 64 (wid + e.gen.toNat * 256 + (if e.rd then 2 ^ 16 else 0) + (if e.w then 2 ^ 17 else 0) +
    (if e.a then 2 ^ 18 else 0) + (if e.evt then 2 ^ 19 else 0) + if e.epoch = .fence then 2 ^ 20 else 0),
    BitVec.ofNat 64 e.base, BitVec.ofNat 64 e.len, 0]

/-- COUNT of a bank, 0 when V is 0 (R338). -/
def DictBank.count (b : DictBank) : Nat := if b.tag.getLsbD 63 then (b.tag.extractLsb' 51 12).toNat else 0

/-- The bytes of a bank's entries (R173, R336). -/
def DictBank.bytes (b : DictBank) : List Byte :=
  (List.range b.count).flatMap fun e => leBytes 16 ((b.entry e).getD (0x3FF#128 <<< 118)).toNat

/-- The window entries of a tile, by WID. -/
def State.windowsOf (s : State) (t : Nat) : List (Nat × WEntry) :=
  let k := (s.tile t).slot.toNat
  (s.entryIds k t).filterMap fun w => (s.wentry k t w).map fun e => (w, e)

/-- The offset of the stream rows of an image, of its dictionary entries, and its length (R336). -/
def imageEnds (nwin rows entries : Nat) : Nat × Nat × Nat :=
  let a := 0x424000 + 32 * nwin
  let b := a + 512 * rows
  (a, b, b + 16 * entries)

/-- The ends of a tile's image. -/
def State.imageEndsOf (s : State) (t : Nat) : Nat × Nat × Nat :=
  let x := s.tile t
  imageEnds (s.windowsOf t).length (x.q2.length + x.q3.length) (x.bank0.count + x.bank1.count)

/-- The sections of a tile's image from the scalar section on (R336). -/
def State.imageBody (s : State) (t : Nat) : Memory :=
  let x := s.tile t
  let ends := s.imageEndsOf t
  let m := x.scalarSection []
  let m := putWords (putWords m 0x1000 x.q0) 0x1200 x.q1
  let m := x.handles.foldl (fun m e => writeLe m (0x1400 + 4 * e.1) 4 (HSlot.word e.2)) m
  let m := writeBytes m 0x1800 (x.vo.toList.flatMap rowBytes)
  let m := putRows (putRows m 0x4000 x.t) 0x24000 x.acc
  let m := m ++ moveCells x.spad 0 0x300000 0x124000
  let m := putWords m 0x424000 ((s.windowsOf t).flatMap fun e => e.2.words e.1)
  let m := writeBytes m ends.1 ((x.q2 ++ x.q3).flatMap rowBytes)
  writeBytes m ends.2.1 (x.bank0.bytes ++ x.bank1.bytes)

/-- The words of a tile's image header (R338). -/
def State.imageHeader (s : State) (t : Nat) (l : LSlot) (handle : Word) : List Word :=
  let x := s.tile t
  [BitVec.ofNat 64 (0x5A385356 * 2 ^ 32 + l.imageId.toNat), BitVec.ofNat 64 (x.rank.toNat * 2 ^ 16 + handle.toNat % 2 ^ 16),
    x.stepCnt, BitVec.ofNat 64 (s.imageEndsOf t).2.2,
    BitVec.ofNat 64 ((s.windowsOf t).length * 2 ^ 32 + x.q2.length * 2 ^ 24 + x.q3.length * 2 ^ 16),
    BitVec.ofNat 64 (x.bank0.count * 2 ^ 16 + x.bank1.count)]

/-! ### Saving (R336, R339) -/

/-- The image offset of a damaged word of a tile that its image holds. -/
def State.damageAt (s : State) (t : Nat) (p : Place) : Option Nat :=
  let x := s.tile t
  let own (u : BitVec 11) (off : Nat) : Option Nat := if u.toNat = t then some off else none
  match p with
  | .tfile u w => own u (0x4000 + 8 * w)
  | .acc u w => own u (0x24000 + 8 * w)
  | .scratch u w => own u (0x124000 + 8 * w)
  | .dict u w =>
    let e := w / 2 % 2048
    let d := (s.imageEndsOf t).2.1
    if w / 4096 = 0 then (if e < x.bank0.count then own u (d + 8 * (w % 4096)) else none)
    else if e < x.bank1.count then own u (d + 16 * x.bank0.count + 8 * (w % 4096)) else none
  | .hbm _ => none

/-- The smallest of some numbers. -/
def leastOf : List Nat → Option Nat
  | [] => none
  | n :: r => some (r.foldl min n)

/-- The sections of a tile's image in offset order, each from its offset to its end (R336). -/
def State.sections (s : State) (t : Nat) : List (Nat × Nat) :=
  let e := s.imageEndsOf t
  [(0x100, 0x1000), (0x1000, 0x1400), (0x1400, 0x1800), (0x1800, 0x2800), (0x2800, 0x4000), (0x4000, 0x24000),
    (0x24000, 0x124000), (0x124000, 0x424000), (0x424000, e.1), (e.1, e.2.1), (e.2.1, e.2.2)]

/-- The offset of the first section that would pass SVLEN (R339). -/
def State.overflowAt (s : State) (t svlen : Nat) : Option Nat :=
  ((s.sections t).find? fun x => decide (svlen < x.2)).map Prod.fst

/-- How the rest of a tile's save fails, from an offset on, if it does: the cause, the offset up to which sections are
written, the address reached. -/
def State.saveFault (s : State) (t svlen from_ : Nat) : Option (BitVec 8 × Nat × Nat) :=
  let bad := leastOf ((s.modl.bad.filterMap (s.damageAt t)).filter fun d => decide (from_ ≤ d))
  match bad, s.overflowAt t svlen with
  | some d, some o => if d < o then some (cECC, d, d) else some (cSAVE_AREA, o, svlen)
  | some d, none => some (cECC, d, d)
  | none, some o => some (cSAVE_AREA, o, svlen)
  | none, none => none

/-- How far the sections of a tile's image have been written. -/
def LSlot.saved (l : LSlot) (t : Nat) : Nat := fget 0x100 l.saving t

/-- The sections of a tile's image written up to an offset, word 0 zero (R336). -/
def State.saveTo (s : State) (v k t base off : Nat) : State :=
  let from_ := (s.lslot v k).saved t
  ((s.putImage base 0 8 []).putImage base from_ (off - from_) (s.imageBody t)).modLslot v k fun l =>
    { l with saving := fput l.saving t (max from_ off) }

/-- The rest of a tile's image written: the sections, then the header (R336). -/
def State.saveTile (s : State) (v k t base : Nat) : State :=
  let hdr := putWords [] 0 (s.imageHeader t (s.lslot v k) (s.launchHandle v k))
  ((s.saveTo v k t base (s.imageEndsOf t).2.2).putImage base 0 0x100 hdr).modLslot v k fun l =>
    { l with ranks := l.ranks ++ [(s.tile t).rank.toNat] }

/-- A tile's save that fails: word 0 stays zero (R339). -/
def State.saveFail (s : State) (v k t base : Nat) (f : BitVec 8 × Nat × Nat) : State :=
  (s.saveTo v k t base f.2.1).engineRecord v k 5 (t / 4 * 4) f.1.toNat (BitVec.ofNat 64 (base + f.2.2))

/-- How the rest of a tile's save fails, if it does. -/
def State.tileFault (s : State) (v k t : Nat) : Option (BitVec 8 × Nat × Nat) :=
  s.saveFault t (s.part v).svlen.toNat ((s.lslot v k).saved t)

/-- The tiles of a launch saved one after another, those whose image is whole passed; the cause of the first failure. -/
def State.saveTiles (s : State) (v k i : Nat) : List Nat → State × Option (BitVec 8)
  | [] => (s, none)
  | t :: r =>
    let base := (s.part v).saveBase t i
    if s.imageWhole v k t then s.saveTiles v k i r
    else match s.tileFault v k t with
      | some f => (s.saveFail v k t base f, some f.1)
      | none => (s.saveTile v k t base).saveTiles v k i r

/-- The save engine of a tile's cluster goes on to an offset, in granules, before the halt line rises: the tiles of a cluster
one after another, the header once every section is written (R336, R339). A save that is to fail stops short. -/
def State.saveUpTo (s : State) (v k t off : Nat) : State :=
  let l := s.lslot v k
  match l.cut, l.save with
  | some ⟨_, true⟩, some i =>
    let ready := l.st == .running && !(s.part v).halt && ((s.ranks v k).any fun e => e.1 == t) &&
      ((s.ranks v k).all fun e => e.1 / 4 != t / 4 || decide (t ≤ e.1) || s.imageWhole v k e.1) && !s.imageWhole v k t
    let stop := match s.tileFault v k t with
      | some f => f.2.1
      | none => (s.imageEndsOf t).2.2
    let base := (s.part v).saveBase t i
    if !ready then s
    else if off < stop then s.saveTo v k t base (off / 64 * 64)
    else if (s.tileFault v k t).isSome then s.saveTo v k t base (stop / 64 * 64)
    else s.saveTile v k t base
  | _, _ => s

/-- CONTEXT_SAVE (R310, R336, R339): the launch is SAVED, or KILLED when the save fails; its tiles are free. A save that the
halt line has met ends with the halt. -/
def execContextSave (v : BitVec 6) (slot : BitVec 4) (s : State) : Result :=
  .next (
    let v := v.toNat
    let k := slot.toNat
    let l := s.lslot v k
    match l.st, l.cut, l.save with
    | .running, some ⟨_, true⟩, some i =>
      let ts := (s.ranks v k).map Prod.fst
      let rs := (s.ranks v k).map fun e => e.2.rank.toNat
      if (s.part v).halt then s
      else
        let r := s.saveTiles v k i ts
        let s := (ts.foldl (fun s t => s.releaseTile t) r.1).freeLaunch v k
        match r.2 with
        | none => s.modLslot v k fun l => { l with st := .saved, ranks := rs, cut := none, saving := [] }
        | some c => s.modLslot v k fun l => (l.killedBy c).retire .killed
    | _, _, _ => s)

/-! ### Restoring (R340) -/

/-- A word of an image. -/
def imageWord (m : Memory) (off : Nat) : Word := BitVec.ofNat 64 (readLe m off 8)

/-- Words of an image from an offset upward. -/
def imageWords (m : Memory) (off n : Nat) : List Word := (List.range n).map fun k => imageWord m (off + 8 * k)

/-- A vector of words of an image. -/
def imageVec (m : Memory) (off n : Nat) : Vector Word n := Vector.ofFn fun k => imageWord m (off + 8 * k.val)

/-- A level's copy out of an image: level n of 0, 1, 2. -/
def imageBank (m : Memory) (n : Nat) (pc : Word) : Bank :=
  { Bank.reset with
    pc := pc
    sb := (imageWord m 0x288).extractLsb' (8 * n) 5
    p := (imageWord m 0x290).extractLsb' (8 * n) 8 ||| 1
    hi := imageVec m (if n = 0 then 0x1E0 else 0x1E0 + 0x20 * n) 4 }

/-- A trap level's registers out of an image; what reads zero in them stays zero (R319). -/
def imageTrap (m : Memory) (n : Nat) : TrapRegs :=
  let regs := (List.range 4).foldl (fun (r : TrapRegs) k => r.write k (imageWord m (0x2E0 + 32 * n + 8 * k))) TrapRegs.reset
  regs.write 4 (imageWord m (0x2D0 + 8 * n))

/-- A bank tag out of an image: the whole tag is 0 where V is (R186). -/
def imageTag (m : Memory) (off : Nat) : Word :=
  let w := imageWord m off
  if w.getLsbD 63 then w else 0

/-- The loop stack of an image, top first, of at most six entries (R98, R337). -/
def imageLoops (m : Memory) : List LoopEntry :=
  ((List.range (min 6 ((imageWord m 0x390).extractLsb' 0 3).toNat)).map fun i => loopEntry m (0x3B0 + 32 * i)).reverse

/-- A handle slot out of an image, which holds no ERR: it reads 0 (R336, R340; assumption 76). -/
def imageHandle (m : Memory) (k : Nat) : HSlot :=
  let w : BitVec 32 := BitVec.ofNat 32 (readLe m (0x1400 + 4 * k) 4)
  { st := if w.getLsbD 17 then .alloc else .free, gen := w.extractLsb' 0 8,
    og := if w.getLsbD 16 then some (w.extractLsb' 8 8) else none, loc := true, rem := true, err := 0, evt := false }

/-- A window entry out of an image: its id and what the port and the directory hold of it. -/
def imageWin (m : Memory) (rank : BitVec 16) (k : Nat) : Nat × WEntry :=
  let w := imageWord m (0x424000 + 32 * k)
  ((w.extractLsb' 0 8).toNat,
    { rank := rank, gen := w.extractLsb' 8 8, base := (imageWord m (0x424008 + 32 * k)).toNat,
      len := (imageWord m (0x424010 + 32 * k)).toNat, rd := w.getLsbD 16, w := w.getLsbD 17, a := w.getLsbD 18,
      evt := w.getLsbD 19, epoch := if w.extractLsb' 20 3 = 1#3 then .fence else .closed, queue := [] })

/-- A dictionary bank out of an image. -/
def imageDict (m : Memory) (off n : Nat) (tag : Word) : DictBank :=
  ⟨(List.range n).map fun e => (e, BitVec.ofNat 128 (readLe m (off + 16 * e) 16)), tag, none⟩

/-- A tile restored from its image (R340): bound as its launch says, every section written back, cut_pending clear, every
latch zero. A bit that reads zero in its register stays zero, whatever the image holds there (R27, R98, R111, R186, R319;
assumption 94). -/
def Tile.restoreFrom (x : Tile) (m : Memory) (v k r : Nat) (l : LSlot) (cycle : Nat) : Tile :=
  let y := x.bindTo v k r l cycle
  let ev := imageWord m 0x2B0
  let nwin := ((imageWord m 0x20).extractLsb' 32 16).toNat
  let n2 := ((imageWord m 0x20).extractLsb' 24 8).toNat
  let n3 := ((imageWord m 0x20).extractLsb' 16 8).toNat
  let c0 := ((imageWord m 0x28).extractLsb' 16 12).toNat
  let c1 := ((imageWord m 0x28).extractLsb' 0 12).toNat
  let ends := imageEnds nwin (n2 + n3) (c0 + c1)
  let rows (a n : Nat) : List Row := (List.range n).map fun i => rowOf (readBytes m (a + 512 * i) 512)
  { y with
    th := { y.th with
      b0 := imageBank m 0 (imageWord m 0x280)
      b1 := imageBank m 1 0
      b2 := imageBank m 2 0
      s := imageVec m 0x100 28
      ps := (imageWord m 0x290).extractLsb' 24 8
      loops := imageLoops m
      li := Vector.ofFn fun k => if k.val < (imageLoops m).length then imageWord m (0x360 + 8 * k.val) else 0
      fpctl := imageWord m 0x2A0 &&& 0xC11F
      tr1 := imageTrap m 0
      tr2 := imageTrap m 1
      issue := imageWord m 0x2C8 }
    stepNo := (imageWord m 0x2B8).setWidth 14
    stepCnt := imageWord m 0x2C0
    t := rowsFrom m 0x4000 256
    so := imageVec m 0x240 8
    cur := Vector.ofFn fun g => (imageWord m 0x298).extractLsb' (5 * g.val) 5
    vo := Vector.ofFn fun g => rowOf (readBytes m (0x1800 + 512 * g.val) 512)
    acc := rowsFrom m 0x24000 2048
    q0 := imageWords m 0x1000 ((ev.extractLsb' 0 7).toNat)
    q1 := imageWords m 0x1200 ((ev.extractLsb' 8 8).toNat)
    ovf := ev.getLsbD 7
    lost := ev.extractLsb' 24 16
    q2 := rows ends.1 n2
    q3 := rows (ends.1 + 512 * n2) n3
    ly := imageVec m 0x320 8
    handles := (List.range 256).map fun k => (k, imageHandle m k)
    dirs := (List.range nwin).foldl (fun d i =>
      let e := imageWin m y.rank i
      fput d e.1 { WDir.reset with isOpen := true, gen := e.2.gen, fence := e.2.epoch == .fence }) []
    spad := moveCells m 0x124000 0x300000 0
    views := []
    bank0 := imageDict m ends.2.1 c0 (imageTag m 0x3A0)
    bank1 := imageDict m (ends.2.1 + 16 * c0) c1 (imageTag m 0x3A8)
    dsel := (imageWord m 0x398).getLsbD 0
    astat := (imageWord m 0x2A8).extractLsb' 0 5 }

/-- The window entries of an image at its tile's port (R268, R340), also where they are more than the port has free entries for
(assumption 72). -/
def State.restoreWins (s : State) (t : Nat) (m : Memory) : State :=
  let x := s.tile t
  (List.range ((imageWord m 0x20).extractLsb' 32 16).toNat).foldl (fun s i =>
    s.setEntry x.slot.toNat t (imageWin m x.rank i).1 (imageWin m x.rank i).2) s

/-- Whether the header of an image agrees with a launch, a rank and SVLEN (R340). -/
def imageAgrees (m : Memory) (l : LSlot) (r svlen : Nat) (handle : Word) : Bool :=
  let w5 := imageWord m 0x28
  let w4 := imageWord m 0x20
  let len := (imageWord m 0x18).toNat
  imageWord m 0 == BitVec.ofNat 64 (0x5A385356 * 2 ^ 32 + l.imageId.toNat) &&
    (imageWord m 8).extractLsb' 0 32 == BitVec.ofNat 32 (r * 2 ^ 16 + handle.toNat % 2 ^ 16) &&
    decide (len ≤ svlen) &&
    len == (imageEnds (w4.extractLsb' 32 16).toNat ((w4.extractLsb' 24 8).toNat + (w4.extractLsb' 16 8).toNat)
      ((w5.extractLsb' 16 12).toNat + (w5.extractLsb' 0 12).toNat)).2.2

/-- The first damaged address of a range of HBM. -/
def State.damageIn (s : State) (a n : Nat) : Option Nat :=
  leastOf (s.modl.bad.filterMap fun p => match p with
    | .hbm w => if a < 8 * w + 8 ∧ 8 * w < a + n then some (8 * w) else none
    | _ => none)

/-- How a tile's restore fails, if it does: the cause and the address reached. -/
def State.restoreFault (s : State) (v k r base : Nat) (m : Memory) : Option (BitVec 8 × Nat) :=
  match s.damageIn base 0x100 with
  | some a => some (cECC, a)
  | none =>
    if !imageAgrees m (s.lslot v k) r (s.part v).svlen.toNat (s.launchHandle v k) then some (cSAVE_AREA, base)
    else (s.damageIn base (imageWord m 0x18).toNat).map fun a => (cECC, a)

/-- The places of a tile that a restore writes whole (R392). -/
def tilePlace (t : Nat) : Place → Bool
  | .tfile u _ => u.toNat == t
  | .acc u _ => u.toNat == t
  | .scratch u _ => u.toNat == t
  | .dict u _ => u.toNat == t
  | .hbm _ => false

/-- The ranks of a SAVED launch restored one after another, each on its tile; the cause of the first failure. -/
def State.restoreTiles (s : State) (v k i : Nat) : List (Nat × Nat) → State × Option (BitVec 8)
  | [] => (s, none)
  | (t, r) :: rest =>
    let p := s.part v
    let base := p.saveBase t i
    let m := moveCells s.hbm base p.svlen.toNat 0
    match s.restoreFault v k r base m with
    | some f => (s.engineRecord v k 5 (t / 4 * 4) f.1.toNat (BitVec.ofNat 64 f.2), some f.1)
    | none =>
      let l := s.lslot v k
      let s := ((s.modTile t fun x => x.restoreFrom m v k r l s.cycle).freeEntries t).clean (tilePlace t)
      (s.restoreWins t m).restoreTiles v k i rest

/-- RESTORE (R310, R340): a SAVED launch resumes on its tiles, or ends KILLED. -/
def execRestore (v : BitVec 6) (slot : BitVec 4) (s : State) : Result :=
  .next (
    let v := v.toNat
    let k := slot.toNat
    let l := s.lslot v k
    match l.st, l.save with
    | .saved, some i =>
      if !s.mayBind v k then s
      else
        let ts := ((s.part v).setTiles l.shape).zipIdx.filter fun e => l.ranks.contains e.2
        let r := s.restoreTiles v k i ts
        match r.2 with
        | none => r.1.modLslot v k fun l => { l with st := .running, ranks := [] }
        | some c =>
          ((ts.foldl (fun s e => s.releaseTile e.1) r.1).freeLaunch v k).modLslot v k fun l => (l.killedBy c).retire .killed
    | _, _ => s)

end Sys2Proof.Machine
end

