-- ==== Sys2Proof/Machine/Wide.lean ====
section
/-! DEFINITION. The dictionary slot: the wide instruction it stands for, run in its place (R50, R77, R172). -/

namespace Sys2Proof.Machine

/-- What a wide instruction does; any other instruction is no expansion of a dictionary slot (R80). -/
def execWide (i : Instr) (s : State) : Result :=
  match i with
  | .li n d imm => execLi n d imm s
  | .addiW n d a imm => execAddiW n d a imm s
  | .andiW n d a imm => execAndiW n d a imm s
  | .oriW n d a imm => execOriW n d a imm s
  | .xoriW n d a imm => execXoriW n d a imm s
  | .muliW n d a imm => execMuliW n d a imm s
  | .sltiW n d a imm => execSltiW n d a imm s
  | .seqiW n d a imm => execSeqiW n d a imm s
  | .fcvtW m n d a fd fa => execFcvtW m n d a fd fa s
  | .fcmpW n p a b fa c => execFcmpW n p a b fa c s
  | .vaddW m n d a b f sat => execVaddW m n d a b f sat s
  | .vsubW m n d a b f sat => execVsubW m n d a b f sat s
  | .vmulW m n d a b f sat => execVmulW m n d a b f sat s
  | .vfmaW m n d a b f => execVfmaW m n d a b f s
  | .vmaxW m n d a b f => execVmaxW m n d a b f s
  | .vminW m n d a b f => execVminW m n d a b f s
  | .vcvt m n d a fd fa part => execVcvt m n d a fd fa part s
  | .vrsumW m n d a f => execVrsumW m n d a f s
  | .vrmaxW n d a f => execVrmaxW n d a f s
  | .cselkW n d a f k => execCselkW n d a f k s
  | .mmaW d a b f => execMmaW d a b f s
  | .mmcW d a b f => execMmcW d a b f s
  | .cfoldW bank ebase => execCfoldW bank ebase s
  | .cdrainW m d acc => execCdrainW m d acc s
  | .ldx n d a sz sx imm => execLdx n d a sz sx imm s
  | .stx d a sz imm => execStx d a sz imm s
  | .cpyW d a ly conv => execCpyW d a ly conv s
  | .cpyrW d a f => execCpyrW d a f s
  | .waccW d a f op m => execWaccW d a f op m s
  | .wgacW d a f op m => execWgacW d a f op m s
  | .brW imm => execBrW imm s
  | .jalW n d imm => execJalW n d imm s
  | .brpW g p imm => execBrpW g p imm s
  | .loopW a off => execLoopW a off s
  | .looppW g a off => execLooppW g a off s
  | .sldW q restart scm a b => execSldW q restart scm a b s
  | .lysetW d imm => execLysetW d imm s
  | _ => .next s

/-- The fault of a dictionary slot that steps 4 and 5 of R72 refuse. -/
def State.refuseSlot (s : State) (c : BitVec 8) : FaultInfo :=
  ⟨c, s.iss.pc, 1#8 <<< s.iss.pos, false, false, false⟩

/-- DICTIONARY_SLOT: the template it selects with its holes filled is the instruction; an entry that is undefined, in
error or not for this agent and level raises its fault (R77, R172, R180 to R182). -/
def execDictionarySlot (e : BitVec 11) (h i j : BitVec 6) (s : State) : Result :=
  match s.iss.phase with
  | .alone =>
    let b := s.aloneBundle
    match b.expand b.iss.pos e h i j with
    | .ok k => execWide k s
    | .error x => .next (b.takeTrap b.iss.pc (b.refuseSlot x.2))
  | .check =>
    match s.expand s.iss.pos e h i j with
    | .ok k => execWide k s
    | .error x => .next (s.modIss fun k => { k with verdict := .trap (s.refuseSlot x.2) })
  | .commit =>
    match s.expand s.iss.pos e h i j with
    | .ok k => execWide k s
    | .error _ => .next s

end Sys2Proof.Machine
end

