-- ==== Sys2Proof/Machine/Dispatch.lean ====
section
/-! DEFINITION. One arm per instruction: each calls its meaning. -/

namespace Sys2Proof.Machine

/-- What an instruction does. -/
def exec (i : Instr) (s : State) : Host.Outcome State Fault Refusal :=
  match i with
  | .add n d a b => Sys2Proof.Machine.execAdd n d a b s
  | .sub n d a b => Sys2Proof.Machine.execSub n d a b s
  | .addi n d a x => Sys2Proof.Machine.execAddi n d a x s
  | .lui n d x => Sys2Proof.Machine.execLui n d x s
  | .mul n d a b => Sys2Proof.Machine.execMul n d a b s
  | .mulh n d a b => Sys2Proof.Machine.execMulh n d a b s
  | .div n d a b => Sys2Proof.Machine.execDiv n d a b s
  | .divu n d a b => Sys2Proof.Machine.execDivu n d a b s
  | .rem n d a b => Sys2Proof.Machine.execRem n d a b s
  | .and n d a b => Sys2Proof.Machine.execAnd n d a b s
  | .or n d a b => Sys2Proof.Machine.execOr n d a b s
  | .xor n d a b => Sys2Proof.Machine.execXor n d a b s
  | .shl n d a b => Sys2Proof.Machine.execShl n d a b s
  | .shr n d a b => Sys2Proof.Machine.execShr n d a b s
  | .sra n d a b => Sys2Proof.Machine.execSra n d a b s
  | .min n d a b => Sys2Proof.Machine.execMin n d a b s
  | .max n d a b => Sys2Proof.Machine.execMax n d a b s
  | .slt n d a b => Sys2Proof.Machine.execSlt n d a b s
  | .sltu n d a b => Sys2Proof.Machine.execSltu n d a b s
  | .seq n d a b => Sys2Proof.Machine.execSeq n d a b s
  | .clz n d a => Sys2Proof.Machine.execClz n d a s
  | .popc n d a => Sys2Proof.Machine.execPopc n d a s
  | .movsb a => Sys2Proof.Machine.execMovsb a s
  | .movc c a => Sys2Proof.Machine.execMovc c a s
  | .movo n d a => Sys2Proof.Machine.execMovo n d a s
  | .sel p n d a b => Sys2Proof.Machine.execSel p n d a b s
  | .fadd m n d a b => Sys2Proof.Machine.execFadd m n d a b s
  | .fsub m n d a b => Sys2Proof.Machine.execFsub m n d a b s
  | .fmul m n d a b => Sys2Proof.Machine.execFmul m n d a b s
  | .ffma m n d a b => Sys2Proof.Machine.execFfma m n d a b s
  | .fcvt m n d a t f => Sys2Proof.Machine.execFcvt m n d a t f s
  | .fmin n d a b => Sys2Proof.Machine.execFmin n d a b s
  | .fmax n d a b => Sys2Proof.Machine.execFmax n d a b s
  | .fcmpEq n p a b => Sys2Proof.Machine.execFcmpEq n p a b s
  | .fcmpLt n p a b => Sys2Proof.Machine.execFcmpLt n p a b s
  | .fcmpLe n p a b => Sys2Proof.Machine.execFcmpLe n p a b s
  | .fcmpUn n p a b => Sys2Proof.Machine.execFcmpUn n p a b s
  | .pset n p a => Sys2Proof.Machine.execPset n p a s
  | .pand n p a b => Sys2Proof.Machine.execPand n p a b s
  | .por n p a b => Sys2Proof.Machine.execPor n p a b s
  | .pnot n p a => Sys2Proof.Machine.execPnot n p a s
  | .vadd n d a b => Sys2Proof.Machine.execVadd n d a b s
  | .vsub n d a b => Sys2Proof.Machine.execVsub n d a b s
  | .vmul n d a b => Sys2Proof.Machine.execVmul n d a b s
  | .vfma n d a b => Sys2Proof.Machine.execVfma n d a b s
  | .vmax n d a b => Sys2Proof.Machine.execVmax n d a b s
  | .vmin n d a b => Sys2Proof.Machine.execVmin n d a b s
  | .vabs n d a => Sys2Proof.Machine.execVabs n d a s
  | .vneg n d a => Sys2Proof.Machine.execVneg n d a s
  | .vexp2 n d a => Sys2Proof.Machine.execVexp2 n d a s
  | .vlog2 n d a => Sys2Proof.Machine.execVlog2 n d a s
  | .vrcp n d a => Sys2Proof.Machine.execVrcp n d a s
  | .vrsq n d a => Sys2Proof.Machine.execVrsq n d a s
  | .vcmpEq n d a b => Sys2Proof.Machine.execVcmpEq n d a b s
  | .vcmpLt n d a b => Sys2Proof.Machine.execVcmpLt n d a b s
  | .vcmpLe n d a b => Sys2Proof.Machine.execVcmpLe n d a b s
  | .vsel n d a b => Sys2Proof.Machine.execVsel n d a b s
  | .vand n d a b => Sys2Proof.Machine.execVand n d a b s
  | .vor n d a b => Sys2Proof.Machine.execVor n d a b s
  | .vxor n d a b => Sys2Proof.Machine.execVxor n d a b s
  | .vshl n d a b => Sys2Proof.Machine.execVshl n d a b s
  | .vshr n d a b => Sys2Proof.Machine.execVshr n d a b s
  | .vrsum n d a => Sys2Proof.Machine.execVrsum n d a s
  | .vrmax n d a => Sys2Proof.Machine.execVrmax n d a s
  | .vbcast n d a => Sys2Proof.Machine.execVbcast n d a s
  | .vperm n d a b => Sys2Proof.Machine.execVperm n d a b s
  | .vmovo n d a => Sys2Proof.Machine.execVmovo n d a s
  | .vld n d a x => Sys2Proof.Machine.execVld n d a x s
  | .vst d a x => Sys2Proof.Machine.execVst d a x s
  | .vlds n d a b => Sys2Proof.Machine.execVlds n d a b s
  | .vsts d a b => Sys2Proof.Machine.execVsts d a b s
  | .vmova n d a b => Sys2Proof.Machine.execVmova n d a b s
  | .vmovt d a b => Sys2Proof.Machine.execVmovt d a b s
  | .cselk n d a b => Sys2Proof.Machine.execCselk n d a b s
  | .mlease => Sys2Proof.Machine.execMlease s
  | .mrel => Sys2Proof.Machine.execMrel s
  | .mmaBf16 d a b => Sys2Proof.Machine.execMmaBf16 d a b s
  | .mmaFp16 d a b => Sys2Proof.Machine.execMmaFp16 d a b s
  | .mmaE4m3 d a b => Sys2Proof.Machine.execMmaE4m3 d a b s
  | .mmaE5m2 d a b => Sys2Proof.Machine.execMmaE5m2 d a b s
  | .mmcE2m1Cb0 d a b => Sys2Proof.Machine.execMmcE2m1Cb0 d a b s
  | .mmcE2m1Cb1 d a b => Sys2Proof.Machine.execMmcE2m1Cb1 d a b s
  | .mmcE3m0Cb0 d a b => Sys2Proof.Machine.execMmcE3m0Cb0 d a b s
  | .mmcE3m0Cb1 d a b => Sys2Proof.Machine.execMmcE3m0Cb1 d a b s
  | .mmcInt4Cb0 d a b => Sys2Proof.Machine.execMmcInt4Cb0 d a b s
  | .mmcInt4Cb1 d a b => Sys2Proof.Machine.execMmcInt4Cb1 d a b s
  | .cfoldCb0 a => Sys2Proof.Machine.execCfoldCb0 a s
  | .cfoldCb1 a => Sys2Proof.Machine.execCfoldCb1 a s
  | .cmergeCb0 => Sys2Proof.Machine.execCmergeCb0 s
  | .cmergeCb1 => Sys2Proof.Machine.execCmergeCb1 s
  | .cclr => Sys2Proof.Machine.execCclr s
  | .aclr d => Sys2Proof.Machine.execAclr d s
  | .cdrain m d => Sys2Proof.Machine.execCdrain m d s
  | .cdrainAdd m d => Sys2Proof.Machine.execCdrainAdd m d s
  | .csave w a => Sys2Proof.Machine.execCsave w a s
  | .cload w a => Sys2Proof.Machine.execCload w a s
  | .ldB n d a x => Sys2Proof.Machine.execLdB n d a x s
  | .ldBu n d a x => Sys2Proof.Machine.execLdBu n d a x s
  | .ldH n d a x => Sys2Proof.Machine.execLdH n d a x s
  | .ldHu n d a x => Sys2Proof.Machine.execLdHu n d a x s
  | .ldW n d a x => Sys2Proof.Machine.execLdW n d a x s
  | .ldWu n d a x => Sys2Proof.Machine.execLdWu n d a x s
  | .ldD n d a x => Sys2Proof.Machine.execLdD n d a x s
  | .stB d a x => Sys2Proof.Machine.execStB d a x s
  | .stH d a x => Sys2Proof.Machine.execStH d a x s
  | .stW d a x => Sys2Proof.Machine.execStW d a x s
  | .stD d a x => Sys2Proof.Machine.execStD d a x s
  | .aaddW n d a b => Sys2Proof.Machine.execAaddW n d a b s
  | .aaddD n d a b => Sys2Proof.Machine.execAaddD n d a b s
  | .aminW n d a b => Sys2Proof.Machine.execAminW n d a b s
  | .aminD n d a b => Sys2Proof.Machine.execAminD n d a b s
  | .amaxW n d a b => Sys2Proof.Machine.execAmaxW n d a b s
  | .amaxD n d a b => Sys2Proof.Machine.execAmaxD n d a b s
  | .axchgW n d a b => Sys2Proof.Machine.execAxchgW n d a b s
  | .axchgD n d a b => Sys2Proof.Machine.execAxchgD n d a b s
  | .acasW n d a b => Sys2Proof.Machine.execAcasW n d a b s
  | .acasD n d a b => Sys2Proof.Machine.execAcasD n d a b s
  | .afaddW n d a b => Sys2Proof.Machine.execAfaddW n d a b s
  | .fence c k => Sys2Proof.Machine.execFence c k s
  | .vjoin => Sys2Proof.Machine.execVjoin s
  | .cpy d a => Sys2Proof.Machine.execCpy d a s
  | .cpyr d a => Sys2Proof.Machine.execCpyr d a s
  | .halloc n d => Sys2Proof.Machine.execHalloc n d s
  | .hwaitL n d a => Sys2Proof.Machine.execHwaitL n d a s
  | .hwaitR n d a => Sys2Proof.Machine.execHwaitR n d a s
  | .htest n d a => Sys2Proof.Machine.execHtest n d a s
  | .hfree a => Sys2Proof.Machine.execHfree a s
  | .wopen d a => Sys2Proof.Machine.execWopen d a s
  | .wdrop a => Sys2Proof.Machine.execWdrop a s
  | .wget d a => Sys2Proof.Machine.execWget d a s
  | .wstr d a => Sys2Proof.Machine.execWstr d a s
  | .wstrn d a => Sys2Proof.Machine.execWstrn d a s
  | .wacc d a => Sys2Proof.Machine.execWacc d a s
  | .wgac d a => Sys2Proof.Machine.execWgac d a s
  | .wcas d a => Sys2Proof.Machine.execWcas d a s
  | .wfen a => Sys2Proof.Machine.execWfen a s
  | .wpost a b => Sys2Proof.Machine.execWpost a b s
  | .wstart a b => Sys2Proof.Machine.execWstart a b s
  | .wcomp a => Sys2Proof.Machine.execWcomp a s
  | .wwait a => Sys2Proof.Machine.execWwait a s
  | .wlockSh a b => Sys2Proof.Machine.execWlockSh a b s
  | .wlockEx a b => Sys2Proof.Machine.execWlockEx a b s
  | .wunlk a b => Sys2Proof.Machine.execWunlk a b s
  | .wflsh a b => Sys2Proof.Machine.execWflsh a b s
  | .dload k a b => Sys2Proof.Machine.execDload k a b s
  | .ctset a => Sys2Proof.Machine.execCtset a s
  | .ctready a => Sys2Proof.Machine.execCtready a s
  | .ctwait a => Sys2Proof.Machine.execCtwait a s
  | .ctabort a => Sys2Proof.Machine.execCtabort a s
  | .nop => Sys2Proof.Machine.execNop s
  | .br x => Sys2Proof.Machine.execBr x s
  | .brp g p x => Sys2Proof.Machine.execBrp g p x s
  | .jal n d x => Sys2Proof.Machine.execJal n d x s
  | .jr a => Sys2Proof.Machine.execJr a s
  | .loop a off => Sys2Proof.Machine.execLoop a off s
  | .loopp g a off => Sys2Proof.Machine.execLoopp g a off s
  | .lbrk p => Sys2Proof.Machine.execLbrk p s
  | .step x => Sys2Proof.Machine.execStep x s
  | .end_ => Sys2Proof.Machine.execEnd s
  | .trap t => Sys2Proof.Machine.execTrap t s
  | .tret => Sys2Proof.Machine.execTret s
  | .sysr n d x => Sys2Proof.Machine.execSysr n d x s
  | .sysw d x => Sys2Proof.Machine.execSysw d x s
  | .evpop n d => Sys2Proof.Machine.execEvpop n d s
  | .sleep => Sys2Proof.Machine.execSleep s
  | .dsel k => Sys2Proof.Machine.execDsel k s
  | .ffence => Sys2Proof.Machine.execFfence s
  | .launch d a => Sys2Proof.Machine.execLaunch d a s
  | .waitl d a => Sys2Proof.Machine.execWaitl d a s
  | .lstat d a => Sys2Proof.Machine.execLstat d a s
  | .sldA a b => Sys2Proof.Machine.execSldA a b s
  | .sldB a b => Sys2Proof.Machine.execSldB a b s
  | .lyset d a => Sys2Proof.Machine.execLyset d a s
  | .hdr pop stg => Sys2Proof.Machine.execHdr pop stg s
  | .dictionarySlot e h x j => Sys2Proof.Machine.execDictionarySlot e h x j s
  | .li n d imm => Sys2Proof.Machine.execLi n d imm s
  | .addiW n d a imm => Sys2Proof.Machine.execAddiW n d a imm s
  | .andiW n d a imm => Sys2Proof.Machine.execAndiW n d a imm s
  | .oriW n d a imm => Sys2Proof.Machine.execOriW n d a imm s
  | .xoriW n d a imm => Sys2Proof.Machine.execXoriW n d a imm s
  | .muliW n d a imm => Sys2Proof.Machine.execMuliW n d a imm s
  | .sltiW n d a imm => Sys2Proof.Machine.execSltiW n d a imm s
  | .seqiW n d a imm => Sys2Proof.Machine.execSeqiW n d a imm s
  | .fcvtW m n d a fd fa => Sys2Proof.Machine.execFcvtW m n d a fd fa s
  | .fcmpW n p a b fa c => Sys2Proof.Machine.execFcmpW n p a b fa c s
  | .vaddW m n d a b f sat => Sys2Proof.Machine.execVaddW m n d a b f sat s
  | .vsubW m n d a b f sat => Sys2Proof.Machine.execVsubW m n d a b f sat s
  | .vmulW m n d a b f sat => Sys2Proof.Machine.execVmulW m n d a b f sat s
  | .vfmaW m n d a b f => Sys2Proof.Machine.execVfmaW m n d a b f s
  | .vmaxW m n d a b f => Sys2Proof.Machine.execVmaxW m n d a b f s
  | .vminW m n d a b f => Sys2Proof.Machine.execVminW m n d a b f s
  | .vcvt m n d a fd fa part => Sys2Proof.Machine.execVcvt m n d a fd fa part s
  | .vrsumW m n d a f => Sys2Proof.Machine.execVrsumW m n d a f s
  | .vrmaxW n d a f => Sys2Proof.Machine.execVrmaxW n d a f s
  | .cselkW n d a f k => Sys2Proof.Machine.execCselkW n d a f k s
  | .mmaW d a b f => Sys2Proof.Machine.execMmaW d a b f s
  | .mmcW d a b f => Sys2Proof.Machine.execMmcW d a b f s
  | .cfoldW bank ebase => Sys2Proof.Machine.execCfoldW bank ebase s
  | .cdrainW m d acc => Sys2Proof.Machine.execCdrainW m d acc s
  | .ldx n d a sz sx imm => Sys2Proof.Machine.execLdx n d a sz sx imm s
  | .stx d a sz imm => Sys2Proof.Machine.execStx d a sz imm s
  | .cpyW d a ly conv => Sys2Proof.Machine.execCpyW d a ly conv s
  | .cpyrW d a f => Sys2Proof.Machine.execCpyrW d a f s
  | .waccW d a f op m => Sys2Proof.Machine.execWaccW d a f op m s
  | .wgacW d a f op m => Sys2Proof.Machine.execWgacW d a f op m s
  | .brW imm => Sys2Proof.Machine.execBrW imm s
  | .jalW n d imm => Sys2Proof.Machine.execJalW n d imm s
  | .brpW g p imm => Sys2Proof.Machine.execBrpW g p imm s
  | .loopW a off => Sys2Proof.Machine.execLoopW a off s
  | .looppW g a off => Sys2Proof.Machine.execLooppW g a off s
  | .sldW q restart scm a b => Sys2Proof.Machine.execSldW q restart scm a b s
  | .lysetW d imm => Sys2Proof.Machine.execLysetW d imm s
  | .resultLanding a => Sys2Proof.Machine.execResultLanding a s
  | .nominalAnswerArrival a k fwd => Sys2Proof.Machine.execNominalAnswerArrival a k fwd s
  | .translationWalk c w => Sys2Proof.Machine.execTranslationWalk c w s
  | .countEventTrap t => Sys2Proof.Machine.execCountEventTrap t s
  | .partitionHalt v => Sys2Proof.Machine.execPartitionHalt v s
  | .haltLineFall v => Sys2Proof.Machine.execHaltLineFall v s
  | .performPoint c => Sys2Proof.Machine.execPerformPoint c s
  | .leaseGrant c => Sys2Proof.Machine.execLeaseGrant c s
  | .runEnd c => Sys2Proof.Machine.execRunEnd c s
  | .arrayParityError c => Sys2Proof.Machine.execArrayParityError c s
  | .dloadFill t => Sys2Proof.Machine.execDloadFill t s
  | .copyStart c ch => Sys2Proof.Machine.execCopyStart c ch s
  | .localCompletion c op => Sys2Proof.Machine.execLocalCompletion c op s
  | .remoteCompletion c op => Sys2Proof.Machine.execRemoteCompletion c op s
  | .copyXlateFault c op => Sys2Proof.Machine.execCopyXlateFault c op s
  | .streamRow c op => Sys2Proof.Machine.execStreamRow c op s
  | .atomicUnitApply a k => Sys2Proof.Machine.execAtomicUnitApply a k s
  | .wopenCollective v slot => Sys2Proof.Machine.execWopenCollective v slot s
  | .wdropCollective v slot wid => Sys2Proof.Machine.execWdropCollective v slot wid s
  | .fenceSwitch v slot wid => Sys2Proof.Machine.execFenceSwitch v slot wid s
  | .windowPacketArrival o t => Sys2Proof.Machine.execWindowPacketArrival o t s
  | .packetRepresent o t => Sys2Proof.Machine.execPacketRepresent o t s
  | .windowOpCompletion c op => Sys2Proof.Machine.execWindowOpCompletion c op s
  | .notifyRecord t => Sys2Proof.Machine.execNotifyRecord t s
  | .requestQueueAccept k => Sys2Proof.Machine.execRequestQueueAccept k s
  | .lockRelease o t => Sys2Proof.Machine.execLockRelease o t s
  | .postNotice k => Sys2Proof.Machine.execPostNotice k s
  | .completionNotice o t => Sys2Proof.Machine.execCompletionNotice o t s
  | .tileFree t => Sys2Proof.Machine.execTileFree t s
  | .bind v slot => Sys2Proof.Machine.execBind v slot s
  | .cutRequest v waiting cut => Sys2Proof.Machine.execCutRequest v waiting cut s
  | .stepcntReport t => Sys2Proof.Machine.execStepcntReport t s
  | .cutComplete v slot => Sys2Proof.Machine.execCutComplete v slot s
  | .contextSave v slot => Sys2Proof.Machine.execContextSave v slot s
  | .restore v slot => Sys2Proof.Machine.execRestore v slot s
  | .startRecord v => Sys2Proof.Machine.execStartRecord v s
  | .sequencerEnd q => Sys2Proof.Machine.execSequencerEnd q s
  | .ctPacketArrival src => Sys2Proof.Machine.execCtPacketArrival src s
  | .rootFinalResult c e => Sys2Proof.Machine.execRootFinalResult c e s
  | .commitPoint c e => Sys2Proof.Machine.execCommitPoint c e s
  | .abortNotice src => Sys2Proof.Machine.execAbortNotice src s
  | .ctTimeout c e => Sys2Proof.Machine.execCtTimeout c e s
  | .peerLostResponse c e gen => Sys2Proof.Machine.execPeerLostResponse c e gen s
  | .genRefusedResponse c e gen => Sys2Proof.Machine.execGenRefusedResponse c e gen s
  | .silenceDetect pos => Sys2Proof.Machine.execSilenceDetect pos s
  | .lossNotice pos => Sys2Proof.Machine.execLossNotice pos s
  | .rejoinCommand pos => Sys2Proof.Machine.execRejoinCommand pos s
  | .joinNotice pos => Sys2Proof.Machine.execJoinNotice pos s
  | .laneFailure link tx spares => Sys2Proof.Machine.execLaneFailure link tx spares s
  | .crcFail link tx => Sys2Proof.Machine.execCrcFail link tx s
  | .mbin3Write v x => Sys2Proof.Machine.execMbin3Write v x s
  | .mbpop v x => Sys2Proof.Machine.execMbpop v x s
  | .fqconsWrite v x => Sys2Proof.Machine.execFqconsWrite v x s
  | .isrWrite v x => Sys2Proof.Machine.execIsrWrite v x s
  | .lcut v x => Sys2Proof.Machine.execLcut v x s
  | .xlinv v x => Sys2Proof.Machine.execXlinv v x s
  | .xlinvDone v => Sys2Proof.Machine.execXlinvDone v s
  | .attctlStart v x => Sys2Proof.Machine.execAttctlStart v x s
  | .attestationReport v => Sys2Proof.Machine.execAttestationReport v s
  | .hostBar2Write v off bytes => Sys2Proof.Machine.execHostBar2Write v off bytes s
  | .hostBar2Read v off len => Sys2Proof.Machine.execHostBar2Read v off len s
  | .pctlEnSet v => Sys2Proof.Machine.execPctlEnSet v s
  | .pctlEnClear v => Sys2Proof.Machine.execPctlEnClear v s
  | .pctlOffline v on => Sys2Proof.Machine.execPctlOffline v on s
  | .pctlLock v => Sys2Proof.Machine.execPctlLock v s
  | .pcmdAdd v c => Sys2Proof.Machine.execPcmdAdd v c s
  | .pcmdRemove v => Sys2Proof.Machine.execPcmdRemove v s
  | .removeDrain v => Sys2Proof.Machine.execRemoveDrain v s
  | .removeTimeout v => Sys2Proof.Machine.execRemoveTimeout v s
  | .bwcapWrite v x => Sys2Proof.Machine.execBwcapWrite v x s
  | .domainWrite v x named => Sys2Proof.Machine.execDomainWrite v x named s
  | .ddidxWrite t x => Sys2Proof.Machine.execDdidxWrite t x s
  | .registerWrite r x => Sys2Proof.Machine.execRegisterWrite r x s
  | .powerOn b => Sys2Proof.Machine.execPowerOn b s
  | .scrub p => Sys2Proof.Machine.execScrub p s
  | .repair r => Sys2Proof.Machine.execRepair r s
  | .throttle => Sys2Proof.Machine.execThrottle s
  | .thermalStop => Sys2Proof.Machine.execThermalStop s
  | .unassignedOpcode w => Sys2Proof.Machine.execUnassignedOpcode w s
  | .fetchFault => Sys2Proof.Machine.execFetchFault s
  | .uncorrectableError c op => Sys2Proof.Machine.execUncorrectableError c op s
  | .linkRetrainComplete r => Sys2Proof.Machine.execLinkRetrainComplete r s
  | .throttleEnd => Sys2Proof.Machine.execThrottleEnd s

end Sys2Proof.Machine
end

