-- ==== Sys2Proof/Machine/Agent.lean ====
section
/-! DEFINITION. The turn of a tile or a sequencer context, and the turns of engines: what one step of the module does (R47, R65, R70, R72, R168, R325, R331, R398). -/

namespace Sys2Proof.Machine

/-- The verdict of a slot at issue. -/
def State.slotVerdict (s : State) (pos : Nat) (i : Instr) : Verdict :=
  match exec i (s.modIss fun k => { k with phase := .check, pos := pos, verdict := .go }) with
  | .next t => t.iss.verdict
  | _ => .go

/-- The state after a slot's effect. -/
def State.commitSlot (s : State) (pos : Nat) (i : Instr) : State :=
  match exec i (s.modIss fun k => { k with phase := .commit, pos := pos }) with
  | .next t => t
  | _ => s

/-- The agent stalls for a cycle (R70). -/
def State.stall (s : State) : State := s.modThread fun t => { t with readyAt := s.cycle + 1 }

/-- The first fault among verdicts, in slot order. -/
def firstTrap : List Verdict → Option FaultInfo
  | [] => none
  | .trap f :: _ => some f
  | _ :: r => firstTrap r

/-- Whether a slot waits. -/
def Verdict.waits : Verdict → Bool
  | .wait _ => true
  | _ => false

/-- The request of a slot that waits registered. -/
def State.registerOf (s : State) : Verdict → State
  | .wait q => s.register q
  | _ => s

/-- Slots whose effect comes before those of the other slots of their bundle. -/
def Instr.leads : Instr → Bool
  | .sysr _ _ _ | .vjoin | .ffence | .launch _ _ => true
  | _ => false

/-- Slots that load a dictionary bank. -/
def Instr.loadsBank : Instr → Bool
  | .dload _ _ _ => true
  | _ => false

/-- Slots that load from memory. -/
def Instr.loads : Instr → Bool
  | .ldB _ _ _ _ | .ldBu _ _ _ _ | .ldH _ _ _ _ | .ldHu _ _ _ _ | .ldW _ _ _ _ | .ldWu _ _ _ _ | .ldD _ _ _ _ |
    .ldx _ _ _ _ _ _ => true
  | _ => false

/-- When a slot's effect comes among those of its bundle: first a SYSR, which reads the registers as they stand at issue, a
VJOIN, which stands before the reads of its bundle, an FFENCE, which stands before a DLOAD, and a LAUNCH, whose header is
as its checks found it; then a DLOAD, whose window is that of the bank active at its issue; then the loads, which stand
before every write of the bundle; then every other slot (R109, R134, R174, R177, R199, R306). -/
def slotTurn (i : Instr) : Nat := if Instr.leads i then 0 else if Instr.loadsBank i then 1 else if Instr.loads i then 2 else 3

/-- Every slot of a bundle commits (assumption 11). -/
def State.commitAll (s : State) (is : List Instr) : State :=
  let at_ (n : Nat) : List (Instr × Nat) := is.zipIdx.filter fun x => slotTurn x.1 == n
  (at_ 0 ++ (at_ 1 ++ (at_ 2 ++ at_ 3))).foldl (fun s x => s.commitSlot x.2 x.1) s

/-- The state in which the slots of a bundle are checked: a VJOIN stands before the reads of its own bundle (R199). -/
def State.forChecks (s : State) (is : List Instr) : State := if is.contains .vjoin then s.joinViews else s

/-- The verdicts of the slots of a bundle, in slot order. -/
def State.verdicts (s : State) (is : List Instr) : List Verdict :=
  is.zipIdx.map fun x => (s.forChecks is).slotVerdict x.2 x.1

/-- The state after a turn in which a bundle whose slots act stalls, if it does: for an empty stream, for a slot that waits, or
for a bank conflict (R64, R70, R197). While a slot of the bundle waits, whatever its position, the bundle stalls with the
requests of its slots made, and no fault of part 3 of R398 is found yet: it is found once nothing waits (R143, R398;
assumption 66). -/
def State.stallActive (s : State) (is : List Instr) : Option State :=
  match s.queueCheck is with
  | .trap _ => none
  | .wait _ => some s.stall
  | .go =>
    let vs := s.verdicts is
    if vs.any Verdict.waits then some (vs.foldl State.registerOf s).stall
    else if (firstTrap vs).isNone && s.onTile && decide (s.cur.served < (s.forChecks is).bankStall is) then
      some (s.modCur fun x => { x with served := x.served + 1 }).stall
    else none

/-- Step 7 of R72, and the commit of a bundle whose slots act. -/
def State.issueActive (s : State) (is : List Instr) : State :=
  match s.queueCheck is with
  | .trap f => s.takeTrap s.iss.pc f
  | _ =>
    match s.stallActive is with
    | some u => u
    | none =>
      match firstTrap (s.verdicts is) with
      | some f => s.takeTrap s.iss.pc f
      | none => ((s.modCur fun x => { x with served := 0 }).commitAll is).finishBundle

/-- Whether a TRET bundle still waits for results and delayed writes of its level (R325). -/
def State.tretDrains (s : State) (is : List Instr) : Bool :=
  let b := s.thread.bank
  is.contains .tret && s.thread.lvl != .tl0 && !(b.pend.isEmpty && b.loads.isEmpty)

/-- A bundle that has passed steps 1 to 6 of R72 (R65, R325, R398). -/
def State.issueBundle (s : State) (is : List Instr) : State :=
  match s.levelCheck is with
  | .trap f => s.takeTrap s.iss.pc f
  | _ =>
    if s.tretDrains is then s.emptyBundle s.iss.agent
    else if s.active is then s.issueActive is
    else s.finishBundle

/-- The state after a turn in which a bundle that has passed steps 1 to 6 of R72 stalls, if it does. -/
def State.stallBundle (s : State) (is : List Instr) : Option State :=
  match s.levelCheck is with
  | .trap _ => none
  | _ => if !s.tretDrains is && s.active is then s.stallActive is else none

/-- The next bundle of the agent: fetched, checked, issued (R72). -/
def State.issueNext (s : State) : State :=
  let pc := s.thread.bank.pc
  match s.bundleAt pc with
  | .error f => (s.modIss fun k => { k with pc := pc, nextPc := pc }).takeTrap pc f
  | .ok (is, next) => (s.modIss fun k => { k with pc := pc, nextPc := next }).issueBundle is

/-- The state after a turn in which the agent's next bundle stalls, if it does. -/
def State.stallNext (s : State) : Option State :=
  let pc := s.thread.bank.pc
  match s.bundleAt pc with
  | .error _ => none
  | .ok (is, next) => (s.modIss fun k => { k with pc := pc, nextPc := next }).stallBundle is

/-- The agent's turn begins at the boundary before its next bundle, the stall of a DLOAD over (R70, R174). -/
def State.begin_ (s : State) (a : Agent) : State :=
  (match a with
    | .tile t => s.fillDone t.toNat
    | .seq _ => s).atBoundary a

/-- A running tile at the boundary before its next bundle: a pending count-mode event is taken, else its turn goes on (R168). -/
def State.pastEvents (s : State) (go : State → State) : State :=
  if s.cur.run ≠ .running then s
  else match s.cur.lateTrap with
    | some (f, x) => (s.modCur fun _ => x).takeTrap s.thread.bank.pc f
    | none => go s

/-- The next bundle of a tile. Where the tile's stalls hold its array, a bundle that stalls leaves the perform points of its
cycle to come, and one that does not has them performed immediately before it (R70, R140, R273). -/
def State.issueWithArray (s : State) (a : Agent) : State :=
  if s.arrayHeld a then s.stallNext.getD ((s.landPoints a).pastEvents State.issueNext) else s.issueNext

/-- The turn of a tile. A late answer stalls it before anything lands (R67, R69, R70). -/
def State.tileTurn (s : State) (t : Nat) : State :=
  let a := Agent.tile (BitVec.ofNat 11 t)
  match (s.tile t).run with
  | .running =>
    let s := s.begin_ a
    if s.cur.run ≠ .running then s
    else if s.thread.late then s.stall
    else (s.land a).pastEvents fun s => s.issueWithArray a
  | .parked | .ended => (s.begin_ a).drainCycle t
  | .free | .stopped => s

/-- The turn of a sequencer context. -/
def State.seqTurn (s : State) (q : Nat) : State :=
  let a := Agent.seq (BitVec.ofNat 6 q)
  if (s.seqCtx q).running && (s.seqCtx q).ending.isNone then
    let s := s.begin_ a
    if s.thread.late then s.stall else (s.land a).issueNext
  else s

/-- Rows of the table that stand for engines, the host, Lovage and the rack: neither slots nor templates, nor what
stands in the stream of bundles for a fetch that is refused (R47, R72). -/
def Instr.isEvent : Instr → Bool
  | .unassignedOpcode _ | .fetchFault => false
  | i => i.slot.isNone && i.wide.isNone

/-- One move of an engine inside the table's steps. -/
def State.micro (s : State) : Turn → State
  | .copyRead c op g => ((s.copyRead c.toNat op g).winRead c.toNat op g).ctReadGran c.toNat op g
  | .copyWrite c op g => (s.copyWrite c.toNat op g).ctOpWrite c.toNat op g
  | .packetSend c op => s.packetSend c.toNat op
  | .answerWrite c op k => s.answerWrite c.toNat op k
  | .dictRead t g => s.fillRead t.toNat g
  | .tlbDrop c page => s.modCluster c.toNat fun k => k.dropEntry page
  | .error p fatal => s.suffer p fatal
  | .lineDrop t line => s.modTile t.toNat fun x => { x with dcache := x.dcache.filter (· != line) }
  | .packetElement o t => s.packetElement o.toNat t.toNat
  | .stageWrite c e g => s.ctStageGran c.toNat e.toNat g
  | .ctFinish c e => s.ctFinish c.toNat e.toNat
  | .endedRank c e p => s.ctEndedRank c.toNat e.toNat p
  | .rackAck k => s.rackAck k
  | .saveUpTo v slot t off => s.saveUpTo v.toNat slot.toNat t.toNat off
  | .wait n => { s with cycle := s.cycle + n }
  | .agent _ | .event _ => s

/-- What a turn does. -/
def State.turn (s : State) : Turn → Host.Outcome State Fault Refusal
  | .agent (.tile t) => .next (s.tileTurn t.toNat)
  | .agent (.seq q) => .next (s.seqTurn q.toNat)
  | .event i => if Instr.isEvent i then exec i s else .next s
  | m => .next (s.micro m)

/-- The next turn: the head of the state's own list, then what the schedule gives. -/
def State.nextTurn (s : State) : Turn × State :=
  match s.turns with
  | t :: r => (t, { s with turns := r, turnNo := s.turnNo + 1 })
  | [] => (Config.schedule s.turnNo, { s with turnNo := s.turnNo + 1 })

/-- Whether a turn still acts after Lovage has stopped the module: a power-on alone (R396, R397). -/
def Turn.wakes (t : Turn) : Bool :=
  match t with
  | .event (.powerOn _) => true
  | _ => false

end Sys2Proof.Machine
end

