-- ==== Sys2Proof/Machine/Place.lean ====
section
/-! DEFINITION. Placing an instruction where the next step fetches it: the bundle or command-memory words that hold it and the turn that issues it. -/

namespace Sys2Proof.Machine

/-- The NOP word (R108). -/
def nopWord : Nat := 0x18000000

/-- The stop bit. -/
def stopBit : Nat := 0x80000000

/-- A slot word in a bundle of four slots: first, or last where it carries the stop bit (R47). -/
def bundleOf (w : Nat) : List Nat :=
  if w / 2 ^ 31 % 2 = 1 then [nopWord, nopWord, nopWord, w % 2 ^ 32] else [w, nopWord, nopWord, nopWord + stopBit]

/-- The bytes of slot words. -/
def wordsBytes (ws : List Nat) : List Byte := ws.flatMap (leBytes 4)

/-- A tile of cluster 0 that issues the bundle of a slot word next: the words at offset 0 of the slice, an entry of the
translation buffer that maps them with every right, the tile running at their address. -/
def State.placeTile (s : State) (w : Nat) : State :=
  let s := { s with hbm := writeBytes s.hbm 0 (wordsBytes (bundleOf w)), turns := [.agent (.tile 0)] }
  let s := s.modCluster 0 fun k => { k with tlb := fput k.tlb 0 0xF }
  s.modTile 0 fun x => { x with run := .running, th := x.th.modBank fun b => { b with pc := 0x100000000 } }

/-- A sequencer context that issues the bundle of a slot word next. -/
def State.placeSeq (s : State) (w : Nat) : State :=
  { s.modSeq 0 (fun q =>
      { q with
        cmd := writeBytes q.cmd 0 (wordsBytes (bundleOf w))
        running := true
        ending := none
        th := q.th.modBank fun b => { b with pc := 0 } }) with
    turns := [.agent (.seq 0)] }

/-- The slot word at its place: LAUNCH, WAITL and LSTAT on a sequencer context, every other slot on a tile (R75). -/
def State.placeSlot (s : State) (w : Nat) : State :=
  match decodeSlot (BitVec.ofNat 32 w) with
  | .ok i => if i.refusedOnTile then s.placeSeq w else s.placeTile w
  | .error _ => s.placeTile w

/-- A template at entry 0 of the active bank, and a dictionary slot without holes that selects it (R50, R172). -/
def State.placeTemplate (s : State) (w : Nat) : State :=
  (s.placeTile 0x20000000).modTile 0 fun x =>
    let b : DictBank := { x.bank x.dsel with entries := fput (x.bank x.dsel).entries 0 (BitVec.ofNat 128 w) }
    if x.dsel then { x with bank1 := b } else { x with bank0 := b }

end Sys2Proof.Machine
end

