-- ==== Sys2Proof/Machine/Step.lean ====
section
/-! DEFINITION. One step of the module, and placing an instruction for it. -/

namespace Sys2Proof.Machine

/-- One step: the next turn; of a module that Lovage has stopped only a power-on (R396, R397). -/
def step (s : State) : Host.Outcome State Fault Refusal :=
  if s.modl.stopped && !Turn.wakes s.nextTurn.1 then .fault .moduleStopped
  else s.nextTurn.2.turn s.nextTurn.1

/-- The state with an instruction whose bits are w stored where the next step fetches its next instruction
(assumption 5). -/
def State.withFetchWord (s : State) (nbits w : Nat) : State :=
  if nbits ≤ 32 then s.placeSlot w else s.placeTemplate w

end Sys2Proof.Machine
end

