-- ==== Sys2Proof/Safety.lean ====
section
/-! DEFINITION. What claims call a sound state and a safe step. -/

namespace Sys2Proof

/-- Every byte memory that accesses write is in canonical form: HBM, every scratchpad, every command memory. (The code that a
launch keeps from its binding is a copy of HBM that nothing writes.) -/
def Safety.memories (s : Machine.State) : Bool :=
  Memory.wf s.hbm && (s.tiles.all fun t => Memory.wf t.2.spad) && s.seqs.all fun q => Memory.wf q.2.cmd

/-- A step that goes on: neither a fault nor a refusal. -/
def Safety.goesOn (s : Machine.State) : Prop := ∃ t, Machine.step s = .next t

end Sys2Proof
end

