-- ==== Sys2Proof/Certificates/Slice0/Obligations.lean ====
section
/-! DEFINITION. The statements about the model. -/

namespace Sys2Proof.Claims

open Sys2Proof.Machine

/-- A slot alone in its bundle that nothing but its own check can still stop: step 5 of R72 (not refused by this
agent), the level and the queues (parts 1 and 2 of R398), damaged rows it reads (R392). -/
def Ready (i : Instr) (s : State) : Prop := s.iss.phase = .alone ∧ s.aloneBundle.soleCheck i = .go

/-- The slot's check at issue, inside a bundle: no damaged row (R392), then this finding. -/
def Finds (i : Instr) (c : State → Prop) (v : State → Verdict) : Prop :=
  ∀ s, s.iss.phase = .check → s.rowCheck i = .go → c s → exec i s = .next (s.modIss fun k => { k with verdict := v s })

/-- Where c holds the slot goes, and its effect is f: its check inside a bundle finds nothing, at commit it acts on the
state in which its cursors and queues are marked (R62, R63), and alone in its bundle it does both and the bundle ends
(R62, R63, R94, R100). -/
def Does (i : Instr) (c : State → Prop) (f : State → State) : Prop :=
  Finds i c (fun _ => .go) ∧
  (∀ s, s.iss.phase = .commit → c s → exec i s = .next (f (s.marks i))) ∧
  ∀ s, Ready i s → c s.aloneBundle → exec i s = .next (f (s.aloneBundle.marks i)).finishBundle

/-- No check of its own. -/
def free (_ : State) : Prop := True

/-- Where c holds a dictionary slot whose entry expands to k has the effect f, at commit and alone in its bundle (R77). -/
def DoesAs (e : BitVec 11) (h i j : BitVec 6) (k : Instr) (c : State → Prop) (f : State → State) : Prop :=
  (∀ s, s.iss.phase = .commit → s.expand s.iss.pos e h i j = .ok k → c s →
    exec (.dictionarySlot e h i j) s = .next (f (s.marks k))) ∧
  ∀ s, s.aloneBundle.expand s.iss.pos e h i j = .ok k → Ready k s → c s.aloneBundle →
    exec (.dictionarySlot e h i j) s = .next (f (s.aloneBundle.marks k)).finishBundle

/-- The slot writes v to a scalar destination after a latency (R10, R66). -/
def WritesScalar (i : Instr) (lat : Nat) (n : Bool) (d : SDst) (v : State → Word) : Prop :=
  Does i free fun u => u.dstS lat n d (v u)

/-- No invalid operation with IVM = 0 (R30). -/
def valid (f : State → Flags) (u : State) : Prop := u.ivm = true ∨ f u &&& fIV = 0

/-- The slot writes a row and raises no flag. -/
def MovesRow (i : Instr) (lat : Nat) (n : Bool) (d : VOp) (r : State → Row) : Prop :=
  Does i free fun u => u.dstV lat n d (r u)

/-- Where c holds the slot is stopped by a fault of its own: its check finds it, and alone in its bundle it takes that
fault and the bundle does not commit (R72, step 7). -/
def Faults (i : Instr) (c : State → Prop) (cause : BitVec 8) (addr : State → Word) (wr : Bool) : Prop :=
  Finds i c (fun s => .trap ⟨cause, addr s, 1#8 <<< s.iss.pos, wr, false, false⟩) ∧
  ∀ s, Ready i s → c s.aloneBundle →
    exec i s = .next (s.aloneBundle.takeTrap s.aloneBundle.iss.pc
      ⟨cause, addr s.aloneBundle, 1#8 <<< s.iss.pos, wr, false, false⟩)

/-- A slot with float flags: it has its effect, unless an invalid operation meets IVM = 0, which raises FP_INVALID with the
bundle's PC (R30). -/
def Floats (i : Instr) (fl : State → Flags) (f : State → State) : Prop :=
  Does i (valid fl) f ∧ Faults i (fun u => u.ivm = false ∧ fl u &&& fIV ≠ 0) 0x11 (fun u => u.iss.pc) false

/-- The slot writes a float result and its flags to a scalar destination. -/
def WritesFloat (i : Instr) (lat : Nat) (n : Bool) (d : SDst) (r : State → Nat × Flags) : Prop :=
  Floats i (fun u => (r u).2) fun u => u.dstFS lat n d (r u)

/-- The slot writes a row and its flags. -/
def WritesRow (i : Instr) (lat : Nat) (n : Bool) (d : VOp) (r : State → Row × Flags) : Prop :=
  Floats i (fun u => (r u).2) fun u => u.dstFV lat n d (r u)

/-- Where c holds the slot waits, with a request to register or none. -/
def Waits (i : Instr) (c : State → Prop) (r : State → Option WaitReq) : Prop :=
  Finds i c (fun s => .wait (r s)) ∧
  ∀ s, Ready i s → c s.aloneBundle → exec i s = .next (s.aloneBundle.register (r s.aloneBundle))

/-- The rows of a column select of the register that a names, on their way to the rows from d on (R137). -/
def selects (n : Bool) (d : VOp) (f : Fmt) (k : Nat) (a : VOp) (u : State) : State :=
  let out := cselkOut f k (u.cselkSource a)
  let s1 := u.push (u.now + 40) (.latch u.iss.pos (out.headD 0))
  let s2 := if n then s1 else
    ((u.cselkRows d (maskRows f) k).zip out).foldl (fun w x => w.push (w.now + 41) (.trow x.1 x.2)) s1
  s2.pushFlags 40 (cselkFlags f (u.cselkSource a))

/-- A column select whose destination is an operand-file register: its first row (assumption 16). -/
def selectsFile (n : Bool) (v : BitVec 3) (f : Fmt) (k : Nat) (a : VOp) (u : State) : State :=
  let r := (cselkOut f k (u.cselkSource a)).headD 0
  (u.result 40 n r (.vo v r)).pushFlags 40 (cselkFlags f (u.cselkSource a))

/-- A load of the bytes at an address (R208). -/
def Loads (i : Instr) (n : Bool) (d : SDst) (size : Nat) (signed : Bool) (addr : State → Word) : Prop :=
  Does i (fun u => u.accessCheck (addr u) size rRD false = .go) fun u => u.load n d (addr u) size signed

/-- A store of the low bytes of a value at an address (R208). -/
def Stores (i : Instr) (size : Nat) (addr v : State → Word) : Prop :=
  Does i (fun u => u.accessCheck (addr u) size rW true = .go) fun u => u.store (addr u) size (v u)

/-- An atomic at src(A) with operand src(B) and expected value s[D] (R210). -/
def Modifies (i : Instr) (n : Bool) (d : BitVec 5) (op : AOp) (size : Nat) (a b : SOp) : Prop :=
  Does i (fun u => u.accessCheck (u.readS a) size (rRD + rW) true = .go) fun u =>
    u.atomic n (.reg d) op size (u.readS a) (u.readS b) (u.thread.getS d)

/-- The static fields of a native MMC: K = 32 in one scale block, no fold, no drain (R159). -/
def nativeCount (f : Fmt) (bank : Bool) : MmcF :=
  { fa := f, rm := .rne, bank := bank, k := 32, scm := .b32, fold := false, ebase := 0, drn := false, acc := false, m := 0,
    n := 0 }

/-- An MMC that passes its checks enters the stream queue. -/
def Counts (i : Instr) (d : BitVec 4) (f : MmcF) (a b : VOp) : Prop :=
  Does i (fun u => u.mmcCheck f a b = .go) fun u => u.mmc d f a b

/-- A cell command of the holder, with its occupancy and the offset of its write point. -/
def Cells (i : Instr) (occ off : Nat) (cmd : State → ACmd) : Prop :=
  Does i (fun u => u.arr.holder = some (BitVec.ofNat 2 u.curId) ∧ u.arr.spent = false ∧ u.arr.cellStart + off ≤ 32768)
    fun u => u.addCell occ (cmd u) [(off, .write)]

/-- A command that needs the lease raises LEASE_REQUIRED without it, before any other check of its own (R146, R291). -/
def NeedsLease (i : Instr) : Prop :=
  Faults i (fun u => u.arr.holder ≠ some (BitVec.ofNat 2 u.curId) ∨ u.arr.spent = true) 0x0B (fun u => u.iss.pc) false

/-- Where a copy with the handle h may start. -/
def mayStart (h : State → Word) (p : State → CopyP) (u : State) : Prop :=
  u.cur.handleMatch (h u) = .slot ∧ (u.cur.hslot (slotNo (h u))).st ≠ .busy ∧ (p u).fault = none ∧
    ((p u).empty = true ∨ (u.cluster u.curCluster).queue.length < 64)

/-- The system registers that a tile and a context both have, as SYSR reads them of a thread (R110, R302). -/
def ReadsThread (s : State) (t : Thread) : Prop :=
  s.sysRead 0x000 = t.fpctl ∧ s.sysRead 0x001 = BitVec.ofNat 64 t.lvl.num ∧ s.sysRead 0x002 = t.bank.sb.setWidth 64 ∧
    s.sysRead 0x005 = (t.bank.p ||| 1).setWidth 64 ∧ s.sysRead 0x008 = BitVec.ofNat 64 t.loops.length ∧
    (∀ k < 6, s.sysRead (BitVec.ofNat 14 (0x010 + k)) = vget t.li k) ∧ s.sysRead 0x030 = BitVec.ofNat 64 s.cycle ∧
    s.sysRead 0x031 = t.issue

/-- A copy starts with the handle h: BUSY, and in the copy queue unless it moves nothing (R214, R219, R225). -/
def Starts (i : Instr) (h : State → Word) (p : State → CopyP) (a : DOp) : Prop :=
  Does i (mayStart h p) fun u => u.startCopy (h u) (p u) ((u.readD a 3).getLsbD 5)

/-- A window transfer starts with the handle h (R241, R242). -/
def Transfers (i : Instr) (h : State → Word) (a : DOp) (p : State → WinP) : Prop :=
  Does i (fun u => u.winCheck (h u) a (p u) = .go) fun u => u.startWin (h u) (p u) ((u.readD a 3).getLsbD 32)

/-- The bundle goes on at a PC, after the two stall cycles of a taken branch (R96). -/
def goesTo (pc : Word) (u : State) : State := u.modIss fun k => { k with control := .jump pc, cost := k.cost + 2 }

/-- Element k of a strided row access has address x, and no element before it is at fault (R133). -/
def reaches (a b : SOp) (k : Nat) (x : Word) (u : State) : Prop :=
  (strideAddrs (u.readS a) (u.readS b))[k]? = some x ∧
    ∀ y ∈ (strideAddrs (u.readS a) (u.readS b)).take k, y.toNat % 4 = 0 ∧ outsideSpad y.toNat 4 = none

/-- Whether the waiting MLEASE of the issuing tile has the lease: granted, and still held (R143). -/
def hasLease (u : State) : Prop := u.cur.lease = some true ∧ u.arr.holder = some (BitVec.ofNat 2 u.curId)

/-- Where a loop slot pushes its entry: the count is not 0 and the stack not full. -/
def mayEnter (a : SOp) (u : State) : Prop := (u.readS a).setWidth 32 ≠ 0#32 ∧ u.thread.loops.length < 6

/-- The push of a loop slot (R98, R99). -/
def enters (a : SOp) (endPc : State → Word) (stages : Option (BitVec 3)) (u : State) : State :=
  u.modThread fun t =>
    { t with
      loops := ⟨u.iss.nextPc, endPc u, (u.readS a).setWidth 32 - 1, stages.isSome, stages.getD 0, t.ps⟩ :: t.loops
      li := vset t.li t.loops.length 0
      ps := if stages.isSome then 1 else t.ps }

/-- A loop slot: the push, the skip and the full stack (R98, R99). -/
def Enters (i : Instr) (a : SOp) (endPc : State → Word) (stages : Option (BitVec 3)) : Prop :=
  Does i (mayEnter a) (enters a endPc stages) ∧
  (∀ next, Does i (fun u => (u.readS a).setWidth 32 = 0#32 ∧ u.pcAfter (endPc u) = .ok next) (goesTo next)) ∧
  Faults i (fun u => (u.readS a).setWidth 32 ≠ 0#32 ∧ 6 ≤ u.thread.loops.length) 0x10 (fun u => u.iss.pc) false

/-- A tile that asks for a window. -/
def asksOpen : WaitReq → Bool
  | .wopen _ _ => true
  | _ => false

/-- A tile that asks for a fence of a window. -/
def asksFence (wid : BitVec 8) : WaitReq → Bool
  | .wfen x _ => x == wid
  | _ => false

/-- The slots of the units SI, SF and VR, native and wide (R82 to R93, R122 to R137). -/
def resultSlot (i : Instr) : Bool := i.unit == some 0 || i.unit == some 1 || i.unit == some 2

/-- The slots of unit VR that load rows (R132, R133). -/
def rowLoad : Instr → Bool
  | .vld _ _ _ _ | .vlds _ _ _ _ => true
  | _ => false

/-- The slots of unit VR that store rows (R132, R133). -/
def rowStore : Instr → Bool
  | .vst _ _ _ | .vsts _ _ _ => true
  | _ => false

/-- The size, the address and the value of a scalar store (R208). -/
def stores : Instr → Option (Nat × (State → Word) × (State → Word))
  | .stB d a i => some (1, fun u => u.readS a + i.signExtend 64 * 1, fun u => u.thread.getS d)
  | .stH d a i => some (2, fun u => u.readS a + i.signExtend 64 * 2, fun u => u.thread.getS d)
  | .stW d a i => some (4, fun u => u.readS a + i.signExtend 64 * 4, fun u => u.thread.getS d)
  | .stD d a i => some (8, fun u => u.readS a + i.signExtend 64 * 8, fun u => u.thread.getS d)
  | .stx b a sz imm => some (sizeBytes sz, fun u => u.readS a + imm.signExtend 64, fun u => u.readS b)
  | _ => none

/-- What a store of a tile leaves as it was: HBM, the other tiles, every context, and of its own tile every register. -/
def StoreLeaves (s w : State) (t : BitVec 11) : Prop :=
  let x := s.tile t.toNat
  let y := w.tile t.toNat
  w.hbm = s.hbm ∧ (∀ k, k ≠ t.toNat → w.tile k = s.tile k) ∧ w.seqs = s.seqs ∧ (∀ k, y.th.getS k = x.th.getS k) ∧
    y.so = x.so ∧ y.t = x.t ∧ y.acc = x.acc ∧ y.vo = x.vo ∧ y.th.fpctl = x.th.fpctl

end Sys2Proof.Claims

open Sys2Proof Sys2Proof.Machine Sys2Proof.Claims

/-- When nothing of R72 step 5 and of parts 1 and 2 of R398 stops a slot that stands alone: an instruction this agent
implements, a loop end not before its start, the level not refusing it, every queue it reads or advances holding enough,
and no damaged word in a row it reads. -/
def Obligations.SlotsAreReady : Prop :=
  ∀ (i : Instr) (s : State), s.iss.phase = .alone →
    (if s.onTile then i.refusedOnTile = false else i.refusedOnSeq = false) →
    (∀ e, Instr.loopEnd s.aloneBundle.iss.pc i = some e → s.aloneBundle.iss.nextPc ≤ e) →
    s.aloneBundle.levelRefuses i = false →
    (∀ q, i.queues.contains q = true → 0 < s.aloneBundle.cur.queueLen q) →
    (∀ q, (Instr.pops i).count q ≤ s.aloneBundle.cur.queueLen q) →
    (∀ k ∈ s.aloneBundle.rowsRead i, s.aloneBundle.trowBad s.aloneBundle.curId k = false) →
    Ready i s

/-- R82: the scalar integer slots of one mould, native and with a 64-bit immediate (R87), LUI (R83), SEL (R86) and MOVO.
R85, R62: MOVSB and MOVC write sb and a cursor for the bundle two issue cycles later and produce no result. -/
def Obligations.ScalarIntegerSlots : Prop :=
  (∀ (n : Bool) (d : BitVec 5) (dw : SDst) (a b : SOp) (i7 : BitVec 7) (i14 : BitVec 14) (imm : Word) (k p : BitVec 3),
    WritesScalar (.add n d a b) 1 n (.reg d) (fun u => u.readS a + u.readS b) ∧
    WritesScalar (.sub n d a b) 1 n (.reg d) (fun u => u.readS a - u.readS b) ∧
    WritesScalar (.addi n d a i7) 1 n (.reg d) (fun u => u.readS a + i7.signExtend 64) ∧
    WritesScalar (.lui n d i14) 1 n (.reg d) (fun u => u.thread.getS d <<< 14 ||| i14.setWidth 64) ∧
    WritesScalar (.mul n d a b) 3 n (.reg d) (fun u => u.readS a * u.readS b) ∧
    WritesScalar (.mulh n d a b) 3 n (.reg d) (fun u => mulHigh (u.readS a) (u.readS b)) ∧
    WritesScalar (.and n d a b) 1 n (.reg d) (fun u => u.readS a &&& u.readS b) ∧
    WritesScalar (.or n d a b) 1 n (.reg d) (fun u => u.readS a ||| u.readS b) ∧
    WritesScalar (.xor n d a b) 1 n (.reg d) (fun u => u.readS a ^^^ u.readS b) ∧
    WritesScalar (.shl n d a b) 1 n (.reg d) (fun u => u.readS a <<< ((u.readS b).toNat % 64)) ∧
    WritesScalar (.shr n d a b) 1 n (.reg d) (fun u => u.readS a >>> ((u.readS b).toNat % 64)) ∧
    WritesScalar (.sra n d a b) 1 n (.reg d) (fun u => (u.readS a).sshiftRight ((u.readS b).toNat % 64)) ∧
    WritesScalar (.min n d a b) 1 n (.reg d) (fun u => minSigned (u.readS a) (u.readS b)) ∧
    WritesScalar (.max n d a b) 1 n (.reg d) (fun u => maxSigned (u.readS a) (u.readS b)) ∧
    WritesScalar (.slt n d a b) 1 n (.reg d) (fun u => if (u.readS a).toInt < (u.readS b).toInt then 1 else 0) ∧
    WritesScalar (.sltu n d a b) 1 n (.reg d) (fun u => if (u.readS a).toNat < (u.readS b).toNat then 1 else 0) ∧
    WritesScalar (.seq n d a b) 1 n (.reg d) (fun u => if u.readS a = u.readS b then 1 else 0) ∧
    WritesScalar (.clz n d a) 1 n (.reg d) (fun u => BitVec.ofNat 64 (leadingZeros (u.readS a))) ∧
    WritesScalar (.popc n d a) 1 n (.reg d) (fun u => BitVec.ofNat 64 (popCount (u.readS a))) ∧
    WritesScalar (.movo n k a) 1 n (.file k) (fun u => u.readS a) ∧
    WritesScalar (.sel p n d a b) 1 n (.reg d) (fun u => if u.thread.getP p then u.readS a else u.readS b) ∧
    WritesScalar (.li n dw imm) 1 n dw (fun _ => imm) ∧
    WritesScalar (.addiW n dw a imm) 1 n dw (fun u => u.readS a + imm) ∧
    WritesScalar (.andiW n dw a imm) 1 n dw (fun u => u.readS a &&& imm) ∧
    WritesScalar (.oriW n dw a imm) 1 n dw (fun u => u.readS a ||| imm) ∧
    WritesScalar (.xoriW n dw a imm) 1 n dw (fun u => u.readS a ^^^ imm) ∧
    WritesScalar (.muliW n dw a imm) 3 n dw (fun u => u.readS a * imm) ∧
    WritesScalar (.sltiW n dw a imm) 1 n dw (fun u => if (u.readS a).toInt < imm.toInt then 1 else 0) ∧
    WritesScalar (.seqiW n dw a imm) 1 n dw (fun u => if u.readS a = imm then 1 else 0)) ∧
  (∀ (a : SOp) (c : BitVec 3),
    Does (.movsb a) free (fun u => u.push (u.now + 2) (.sb ((u.readS a).setWidth 5))) ∧
    Does (.movc c a) free (fun u => u.push (u.now + 2) (.cursor c ((u.readS a).setWidth 5))))

/-- The integer functions of R82 by their words: bits [127:64] of the signed product, signed minimum and maximum, the
number of leading zeros and of one bits. -/
def Obligations.IntegerFunctions : Prop :=
  ∀ x y : Word,
    mulHigh x y = ((x.signExtend 128 * y.signExtend 128).extractLsb' 64 64) ∧
    (minSigned x y).toInt = min x.toInt y.toInt ∧ (maxSigned x y).toInt = max x.toInt y.toInt ∧
    (x = 0 → leadingZeros x = 64) ∧
    (x ≠ 0 → leadingZeros x < 64 ∧ x.getLsbD (63 - leadingZeros x) = true ∧
      ∀ k, 63 - leadingZeros x < k → x.getLsbD k = false) ∧
    popCount x = ((List.range 64).filter fun k => x.getLsbD k).length

/-- R84: the divide group with a nonzero divisor: quotients truncated toward zero, the remainder with the sign of the
dividend, -2^63 / -1 = -2^63 with remainder 0; latency 12. A zero divisor raises DIVZERO whatever N is, ADDR is the
bundle's PC, the bundle does not commit and no FPCTL flag is set. -/
def Obligations.DivideGroup : Prop :=
  ∀ (n : Bool) (d : BitVec 5) (a b : SOp),
    Does (.div n d a b) (fun u => u.readS b ≠ 0) (fun u => u.dstS 12 n (.reg d) ((u.readS a).sdiv (u.readS b))) ∧
    Does (.divu n d a b) (fun u => u.readS b ≠ 0) (fun u => u.dstS 12 n (.reg d) (u.readS a / u.readS b)) ∧
    Does (.rem n d a b) (fun u => u.readS b ≠ 0) (fun u => u.dstS 12 n (.reg d) ((u.readS a).srem (u.readS b))) ∧
    Faults (.div n d a b) (fun u => u.readS b = 0) 0x05 (fun u => u.iss.pc) false ∧
    Faults (.divu n d a b) (fun u => u.readS b = 0) 0x05 (fun u => u.iss.pc) false ∧
    Faults (.rem n d a b) (fun u => u.readS b = 0) 0x05 (fun u => u.iss.pc) false ∧
    ∀ (s : State) (t : BitVec 11) (pc : Word) (f : FaultInfo), s.iss.agent = .tile t → f.cause = 0x05 →
      ((s.tile t.toNat).th.route 0x05).isSome = true → (s.takeTrap pc f).thread.fpctl = s.thread.fpctl

/-- R88 to R92: scalar float slots write their result with its flags, unless an invalid operation meets IVM = 0. R30: an
invalid operation of a scalar float slot with IVM = 0 raises FP_INVALID with ADDR the bundle's PC; the bundle does not
commit, and entry sets the sticky IV. -/
def Obligations.ScalarFloatSlots : Prop :=
  (∀ (m : Rm) (n : Bool) (d : BitVec 5) (dw : SDst) (p : BitVec 3) (a b : SOp) (t f : NFmt) (fd fa : Fmt) (c : Cond),
    WritesFloat (.fadd m n d a b) 4 n (.reg d) (fun u => fAdd .fp32 m (u.readF .fp32 a) (u.readF .fp32 b)) ∧
    WritesFloat (.fsub m n d a b) 4 n (.reg d) (fun u => fSub .fp32 m (u.readF .fp32 a) (u.readF .fp32 b)) ∧
    WritesFloat (.fmul m n d a b) 4 n (.reg d) (fun u => fMul .fp32 m (u.readF .fp32 a) (u.readF .fp32 b)) ∧
    WritesFloat (.ffma m n d a b) 4 n (.reg d)
      (fun u => fFma .fp32 m (u.readF .fp32 a) (u.readF .fp32 b) (u.readF .fp32 (.reg d))) ∧
    WritesFloat (.fcvt m n d a t f) 3 n (.reg d) (fun u => scalarCvt (fmtOf f) (fmtOf t) m (u.readF (fmtOf f) a)) ∧
    WritesFloat (.fcvtW m n dw a fd fa) 3 n dw (fun u => scalarCvt fa fd m (u.readF fa a)) ∧
    WritesFloat (.fmin n d a b) 1 n (.reg d) (fun u => fMinMax false .fp32 (u.readF .fp32 a) (u.readF .fp32 b)) ∧
    WritesFloat (.fmax n d a b) 1 n (.reg d) (fun u => fMinMax true .fp32 (u.readF .fp32 a) (u.readF .fp32 b)) ∧
    Floats (.fcmpEq n p a b) (fun u => (fCmp .eq .fp32 (u.readF .fp32 a) (u.readF .fp32 b)).2)
      (fun u => u.dstFP 2 n p (fCmp .eq .fp32 (u.readF .fp32 a) (u.readF .fp32 b))) ∧
    Floats (.fcmpLt n p a b) (fun u => (fCmp .lt .fp32 (u.readF .fp32 a) (u.readF .fp32 b)).2)
      (fun u => u.dstFP 2 n p (fCmp .lt .fp32 (u.readF .fp32 a) (u.readF .fp32 b))) ∧
    Floats (.fcmpLe n p a b) (fun u => (fCmp .le .fp32 (u.readF .fp32 a) (u.readF .fp32 b)).2)
      (fun u => u.dstFP 2 n p (fCmp .le .fp32 (u.readF .fp32 a) (u.readF .fp32 b))) ∧
    Floats (.fcmpUn n p a b) (fun u => (fCmp .un .fp32 (u.readF .fp32 a) (u.readF .fp32 b)).2)
      (fun u => u.dstFP 2 n p (fCmp .un .fp32 (u.readF .fp32 a) (u.readF .fp32 b))) ∧
    Floats (.fcmpW n p a b fa c) (fun u => (fCmp c fa (u.readF fa a) (u.readF fa b)).2)
      (fun u => u.dstFP 2 n p (fCmp c fa (u.readF fa a) (u.readF fa b)))) ∧
  (∀ s : State, (s.stickyInvalid 0x11).thread.fpctl = s.thread.fpctl ||| 0x10)

/-- R93: the predicate instructions write p[D] with latency 1, and a predicate field that names p0 reads 1. -/
def Obligations.PredicateSlots : Prop :=
  (∀ (n : Bool) (p x y : BitVec 3) (a : SOp),
    Does (.pset n p a) free (fun u => u.dstP 1 n p (decide (u.readS a ≠ 0))) ∧
    Does (.pand n p x y) free (fun u => u.dstP 1 n p (u.thread.getP x && u.thread.getP y)) ∧
    Does (.por n p x y) free (fun u => u.dstP 1 n p (u.thread.getP x || u.thread.getP y)) ∧
    Does (.pnot n p x) free (fun u => u.dstP 1 n p (!u.thread.getP x))) ∧
  ∀ t : Thread, t.getP 0 = true ∧ ∀ b, t.putP 0 b = t

/-- R122 to R124, R129, R130: the native vector slots over FP32 elements, and VMOVO to VPERM (R125, R126, R131), each
with its latency. -/
def Obligations.VectorRowSlots : Prop :=
  ∀ (n : Bool) (d : VDn) (k : BitVec 3) (a b : VOp) (x : SOp),
    WritesRow (.vadd n d a b) 2 n d.op (fun u => u.zipV .fp32 (fAdd .fp32 .rne) a b) ∧
    WritesRow (.vsub n d a b) 2 n d.op (fun u => u.zipV .fp32 (fSub .fp32 .rne) a b) ∧
    WritesRow (.vmul n d a b) 2 n d.op (fun u => u.zipV .fp32 (fMul .fp32 .rne) a b) ∧
    WritesRow (.vmax n d a b) 2 n d.op (fun u => u.zipV .fp32 (fMinMax true .fp32) a b) ∧
    WritesRow (.vmin n d a b) 2 n d.op (fun u => u.zipV .fp32 (fMinMax false .fp32) a b) ∧
    WritesRow (.vfma n d a b) 4 n d.op
      (fun u => zipFlags3 32 (fFma .fp32 .rne) (u.readV .fp32 a) (u.readV .fp32 b) (u.readV .fp32 d.op)) ∧
    WritesRow (.vabs n d a) 2 n d.op (fun u => u.mapV .fp32 (fSign false) a) ∧
    WritesRow (.vneg n d a) 2 n d.op (fun u => u.mapV .fp32 (fSign true) a) ∧
    WritesRow (.vexp2 n d a) 6 n d.op (fun u => u.mapV .fp32 fExp2 a) ∧
    WritesRow (.vlog2 n d a) 6 n d.op (fun u => u.mapV .fp32 fLog2 a) ∧
    WritesRow (.vrcp n d a) 6 n d.op (fun u => u.mapV .fp32 fRcp a) ∧
    WritesRow (.vrsq n d a) 6 n d.op (fun u => u.mapV .fp32 fRsq a) ∧
    WritesRow (.vcmpEq n d a b) 2 n d.op (fun u => u.zipV .fp32 (maskElem .eq) a b) ∧
    WritesRow (.vcmpLt n d a b) 2 n d.op (fun u => u.zipV .fp32 (maskElem .lt) a b) ∧
    WritesRow (.vcmpLe n d a b) 2 n d.op (fun u => u.zipV .fp32 (maskElem .le) a b) ∧
    WritesRow (.vrsum n d a) 8 n d.op (fun u => sumRow .fp32 .rne (u.readV .fp32 a)) ∧
    WritesRow (.vrmax n d a) 6 n d.op (fun u => reduceRow .fp32 (fMinMax true .fp32) (u.readV .fp32 a)) ∧
    MovesRow (.vsel n d a b) 2 n d.op (fun u => selRow (u.readV .int32 d.op) (u.readV .int32 a) (u.readV .int32 b)) ∧
    MovesRow (.vand n d a b) 2 n d.op (fun u => u.readV .int32 a &&& u.readV .int32 b) ∧
    MovesRow (.vor n d a b) 2 n d.op (fun u => u.readV .int32 a ||| u.readV .int32 b) ∧
    MovesRow (.vxor n d a b) 2 n d.op (fun u => u.readV .int32 a ^^^ u.readV .int32 b) ∧
    MovesRow (.vshl n d a b) 2 n d.op
      (fun u => zipRow 32 (fun x y => x * 2 ^ (y % 32)) (u.readV .int32 a) (u.readV .int32 b)) ∧
    MovesRow (.vshr n d a b) 2 n d.op
      (fun u => zipRow 32 (fun x y => x / 2 ^ (y % 32)) (u.readV .int32 a) (u.readV .int32 b)) ∧
    MovesRow (.vbcast n d x) 2 n d.op (fun u => fillRow 32 (u.readS x).toNat) ∧
    MovesRow (.vperm n d a b) 3 n d.op (fun u => mapRow 32 (fun i => elem 32 (u.readV .int32 a) (i % 128)) (u.readV .int32 b)) ∧
    MovesRow (.vmovo n k a) 2 n (.file k) (fun u => u.readV .int32 a)

/-- R122, R127 to R130: the wide vector forms, in their format, rounding mode and saturation. -/
def Obligations.WideVectorSlots : Prop :=
  ∀ (m : Rm) (n sat : Bool) (d : VDst) (a b : VOp) (f fd fa : Fmt) (part : BitVec 3),
    WritesRow (.vaddW m n d a b f sat) 2 n d.op (fun u => u.zipV f (addElem f m sat) a b) ∧
    WritesRow (.vsubW m n d a b f sat) 2 n d.op (fun u => u.zipV f (subElem f m sat) a b) ∧
    WritesRow (.vmulW m n d a b f sat) 2 n d.op (fun u => u.zipV f (mulElem f m sat) a b) ∧
    WritesRow (.vfmaW m n d a b f) 4 n d.op
      (fun u => zipFlags3 f.width (fFma f m) (u.readV f a) (u.readV f b) (u.readV f d.op)) ∧
    WritesRow (.vmaxW m n d a b f) 2 n d.op (fun u => u.zipV f (pickElem true f) a b) ∧
    WritesRow (.vminW m n d a b f) 2 n d.op (fun u => u.zipV f (pickElem false f) a b) ∧
    WritesRow (.vcvt m n d a fd fa part) 4 n d.op (fun u => vcvtRow fa fd m part.toNat (u.readV fa a)) ∧
    WritesRow (.vrsumW m n d a f) 8 n d.op (fun u => sumRow f m (u.readV f a)) ∧
    WritesRow (.vrmaxW n d a f) 6 n d.op (fun u => reduceRow f (fMinMax true f) (u.readV f a))

/-- R132, R133, R135: VLD, VST, VLDS and VSTS inside one scratchpad view at aligned addresses, and VMOVA and VMOVT. A
VLD or VST that is not 64-byte aligned raises ALIGN; one that does not lie wholly in one view raises VIEW_RANGE; both
report the row's address, also where the row starts in a view and passes its end: R132 states that address and R193 the
lowest one outside, and the model follows R132 (log entry 29). A VLDS or VSTS raises ALIGN or VIEW_RANGE, with its
address, for its first element that is not 4-byte aligned or does not lie in a view. -/
def Obligations.VectorMemorySlots : Prop :=
  ∀ (n : Bool) (d : VDn) (a b : SOp) (i : BitVec 7),
    Does (.vld n d a i) (fun u => u.vldCheck (u.rowAddr a i) false = .go)
      (fun u =>
        let v := spadView (u.rowAddr a i).toNat
        let r := u.readView u.curId v.1 v.2 512
        r.2.dstV 6 n d.op (rowOf r.1)) ∧
    Does (.vst d a i) (fun u => (u.rowAddr a i).toNat % 64 = 0 ∧ outsideSpad (u.rowAddr a i).toNat 512 = none)
      (fun u =>
        let v := spadView (u.rowAddr a i).toNat
        u.deferWrite v.1 v.2 (rowBytes (u.readV .int32 d.op))) ∧
    Does (.vlds n d a b) (fun u => u.vldsCheck false (strideAddrs (u.readS a) (u.readS b)) = .go)
      (fun u =>
        let r := u.gather (strideAddrs (u.readS a) (u.readS b)) []
        r.2.dstV 10 n d.op (packRow 32 r.1)) ∧
    Does (.vsts d a b) (fun u => u.vldsCheck true (strideAddrs (u.readS a) (u.readS b)) = .go)
      (fun u => (strideAddrs (u.readS a) (u.readS b)).zipIdx.foldl (fun w x =>
        w.deferWrite (spadView x.1.toNat).1 (spadView x.1.toNat).2 (leBytes 4 (elem 32 (u.readV .int32 d.op) x.2))) u) ∧
    Does (.vmova n d a b) (fun u => u.accBad u.curId (u.accIndex a b) 128 = false)
      (fun u => u.dstV 4 n d.op (u.cur.accRow (128 * ((u.readS a).toNat % 16) + (u.readS b).toNat % 128))) ∧
    Does (.vmovt d a b) free
      (fun u => u.push (u.now + 2)
        (.accRow (128 * ((u.readS a).toNat % 16) + (u.readS b).toNat % 128) (u.readV .int32 d.op))) ∧
    Faults (.vld n d a i) (fun u => (u.rowAddr a i).toNat % 64 ≠ 0) 0x06 (fun u => u.rowAddr a i) false ∧
    Faults (.vst d a i) (fun u => (u.rowAddr a i).toNat % 64 ≠ 0) 0x06 (fun u => u.rowAddr a i) true ∧
    Faults (.vld n d a i)
      (fun u => (u.rowAddr a i).toNat % 64 = 0 ∧ outsideSpad (u.rowAddr a i).toNat 512 ≠ none) 0x17
      (fun u => u.rowAddr a i) false ∧
    Faults (.vst d a i)
      (fun u => (u.rowAddr a i).toNat % 64 = 0 ∧ outsideSpad (u.rowAddr a i).toNat 512 ≠ none) 0x17
      (fun u => u.rowAddr a i) true ∧
    ∀ k x, Faults (.vlds n d a b) (fun u => reaches a b k x u ∧ x.toNat % 4 ≠ 0) 0x06 (fun _ => x) false ∧
      Faults (.vsts d a b) (fun u => reaches a b k x u ∧ x.toNat % 4 ≠ 0) 0x06 (fun _ => x) true ∧
      Faults (.vlds n d a b) (fun u => reaches a b k x u ∧ x.toNat % 4 = 0 ∧ outsideSpad x.toNat 4 ≠ none) 0x17
        (fun _ => x) false ∧
      Faults (.vsts d a b) (fun u => reaches a b k x u ∧ x.toNat % 4 = 0 ∧ outsideSpad x.toNat 4 ≠ none) 0x17
        (fun _ => x) true

/-- R136, R137: CSELK puts its first mask row in the latch after 40 issue cycles and, unless N is 1, its mask and index
rows into the rows from D on one cycle later; k of the native form is src(B), at most 32. An operand-file register takes
the first row (the model's choice, log entry 16). -/
def Obligations.ColumnSelect : Prop :=
  ∀ (n : Bool) (d : VDn) (g : BitVec 3) (o : BitVec 2) (inc : Bool) (a : VOp) (b : SOp) (k : BitVec 6) (f : Fmt)
    (v : BitVec 3),
    Floats (.cselk n d a b) (fun u => cselkFlags .fp32 (u.cselkSource a))
      (fun u => selects n d.op .fp32 (min (u.readS b).toNat 32) a u) ∧
    Floats (.cselkW n (.row g o inc) a f k) (fun u => cselkFlags f (u.cselkSource a))
      (selects n (.row g o inc) f k.toNat a) ∧
    Floats (.cselkW n (.file v) a f k) (fun u => cselkFlags f (u.cselkSource a))
      (selectsFile n v f k.toNat a)

/-- R208, R210: every scalar load, store and atomic whose access passes the checks of range, alignment and translation
acts on the bytes of its size at its address: src(A) + i7 x size, src(A) + IMM for LDX and STX, src(A) for an atomic.
The last clause gives the new value of an atomic on a word of 4 or 8 bytes, for the integer forms (R210). -/
def Obligations.ScalarMemorySlots : Prop :=
  (∀ (n sx : Bool) (d : BitVec 5) (dw : SDst) (a b : SOp) (i : BitVec 7) (imm : BitVec 32) (sz : Size),
    Loads (.ldB n d a i) n (.reg d) 1 true (fun u => u.readS a + i.signExtend 64 * 1) ∧
    Loads (.ldBu n d a i) n (.reg d) 1 false (fun u => u.readS a + i.signExtend 64 * 1) ∧
    Loads (.ldH n d a i) n (.reg d) 2 true (fun u => u.readS a + i.signExtend 64 * 2) ∧
    Loads (.ldHu n d a i) n (.reg d) 2 false (fun u => u.readS a + i.signExtend 64 * 2) ∧
    Loads (.ldW n d a i) n (.reg d) 4 true (fun u => u.readS a + i.signExtend 64 * 4) ∧
    Loads (.ldWu n d a i) n (.reg d) 4 false (fun u => u.readS a + i.signExtend 64 * 4) ∧
    Loads (.ldD n d a i) n (.reg d) 8 false (fun u => u.readS a + i.signExtend 64 * 8) ∧
    Loads (.ldx n dw a sz sx imm) n dw (sizeBytes sz) sx (fun u => u.readS a + imm.signExtend 64) ∧
    Stores (.stB d a i) 1 (fun u => u.readS a + i.signExtend 64 * 1) (fun u => u.thread.getS d) ∧
    Stores (.stH d a i) 2 (fun u => u.readS a + i.signExtend 64 * 2) (fun u => u.thread.getS d) ∧
    Stores (.stW d a i) 4 (fun u => u.readS a + i.signExtend 64 * 4) (fun u => u.thread.getS d) ∧
    Stores (.stD d a i) 8 (fun u => u.readS a + i.signExtend 64 * 8) (fun u => u.thread.getS d) ∧
    Stores (.stx b a sz imm) (sizeBytes sz) (fun u => u.readS a + imm.signExtend 64) (fun u => u.readS b) ∧
    Modifies (.aaddW n d a b) n d .add 4 a b ∧ Modifies (.aaddD n d a b) n d .add 8 a b ∧
    Modifies (.aminW n d a b) n d .min 4 a b ∧ Modifies (.aminD n d a b) n d .min 8 a b ∧
    Modifies (.amaxW n d a b) n d .max 4 a b ∧ Modifies (.amaxD n d a b) n d .max 8 a b ∧
    Modifies (.axchgW n d a b) n d .xchg 4 a b ∧ Modifies (.axchgD n d a b) n d .xchg 8 a b ∧
    Modifies (.acasW n d a b) n d .cas 4 a b ∧ Modifies (.acasD n d a b) n d .cas 8 a b ∧
    Modifies (.afaddW n d a b) n d .fadd 4 a b) ∧
  ∀ (x e old : BitVec 32) (y f prev : BitVec 64),
    AOp.apply .add 4 x.toNat e.toNat old.toNat = (old + x).toNat ∧
    AOp.apply .add 8 y.toNat f.toNat prev.toNat = (prev + y).toNat ∧
    AOp.apply .xchg 4 x.toNat e.toNat old.toNat = x.toNat ∧ AOp.apply .xchg 8 y.toNat f.toNat prev.toNat = y.toNat ∧
    AOp.apply .cas 4 x.toNat e.toNat old.toNat = (if old = e then x else old).toNat ∧
    AOp.apply .cas 8 y.toNat f.toNat prev.toNat = (if prev = f then y else prev).toNat ∧
    AOp.apply .min 4 x.toNat e.toNat old.toNat = (if x.toInt < old.toInt then x else old).toNat ∧
    AOp.apply .min 8 y.toNat f.toNat prev.toNat = (if y.toInt < prev.toInt then y else prev).toNat ∧
    AOp.apply .max 4 x.toNat e.toNat old.toNat = (if old.toInt < x.toInt then x else old).toNat ∧
    AOp.apply .max 8 y.toNat f.toNat prev.toNat = (if prev.toInt < y.toInt then y else prev).toNat

/-- R192, R193, R203, R204, R208, R213: an access of a tile that passes the checks lies wholly in one range of R192 and
at a multiple of its size. One that starts in no range raises VIEW_RANGE with its address, one that starts in a range
and passes its end raises VIEW_RANGE with the first address past that end, whether or not it is aligned; one inside a
range but not aligned raises ALIGN. An aligned access to the slice whose translation faults raises the cause of that
fault with its address, else it passes; one to the scratchpad passes unless it reads a damaged word (R134). -/
def Obligations.ScalarAccessChecks : Prop :=
  ∀ (s : State) (t : BitVec 11) (a : Word) (size need : Nat) (wr : Bool), s.iss.agent = .tile t → 0 < size →
    (s.accessCheck a size need wr = .go → outside a.toNat size = none ∧ a.toNat % size = 0) ∧
    (rangeOf a.toNat = none → s.accessCheck a size need wr = s.faultAcc wr 0x17 a) ∧
    (∀ r, rangeOf a.toNat = some r → r.2 + 1 < a.toNat + size →
      s.accessCheck a size need wr = s.faultAcc wr 0x17 (BitVec.ofNat 64 (r.2 + 1))) ∧
    (∀ r, rangeOf a.toNat = some r → a.toNat + size ≤ r.2 + 1 →
      (a.toNat % size ≠ 0 → s.accessCheck a size need wr = s.faultAcc wr 0x06 a) ∧
      (a.toNat % size = 0 → 0x100000000 ≤ a.toNat →
        (∀ c, s.translate (t.toNat / 4) (a.toNat - 0x100000000) need = .error c →
          s.accessCheck a size need wr = s.faultAcc wr c a) ∧
        (∀ q, s.translate (t.toNat / 4) (a.toNat - 0x100000000) need = .ok q → s.accessCheck a size need wr = .go)) ∧
      (a.toNat % size = 0 → a.toNat ≤ 0x6FFFFF →
        let off := if a.toNat < 0x400000 then a.toNat else swizzle (a.toNat - 0x400000)
        s.accessCheck a size need wr =
          if need ≠ rW ∧ s.spadBad t.toNat off size = true then s.faultAcc wr 0x12 a else .go)) ∧
    (outside a.toNat size = none ↔ ∃ r, rangeOf a.toNat = some r ∧ a.toNat + size ≤ r.2 + 1) ∧
    (∀ x, rangeOf a.toNat = some x ↔ x ∈ [(0x0, 0x2FFFFF), (0x400000, 0x6FFFFF), (0x100000000, 0x17FFFFFFF)] ∧
      x.1 ≤ a.toNat ∧ a.toNat ≤ x.2)

/-- R275, R198, R199: a FENCE with nothing left to wait for has no other effect, one with an earlier store or load of
its scope waits; VJOIN makes both views agree and costs 3 stall cycles. A load that took the bytes of a posted store
counts as performed with that store: the model's reading (log entry 20). -/
def Obligations.FenceAndJoin : Prop :=
  (∀ (c : Scope) (k : BitVec 4),
    Does (.fence c k) (fun u => u.fenceDone c k = true) (fun u => u) ∧
    Waits (.fence c k) (fun u => u.fenceDone c k = false) (fun _ => none) ∧
    (∀ u : State, u.fenceDone c k = true ↔
      ((k.getLsbD 2 = true ∨ k.getLsbD 3 = true) → ∀ p ∈ u.thread.posts, c.num < p.scope.num) ∧
      (k.getLsbD 1 = true → (∀ l ∈ u.thread.unperformed, c.num < (scopeOf u.iss.agent l.pa).num) ∧
        ∀ p ∈ u.thread.posts, p.took ≠ none → c.num < p.scope.num))) ∧
  Does .vjoin free
    (fun u => (u.modCur fun x => { x with views := [] }).modIss fun i => { i with cost := i.cost + 3 })

/-- R143, R145: MLEASE issues with the lease once it has been granted to the tile and waits, with its request
registered, until then; MREL of the holder releases it, of any other tile raises LEASE_REQUIRED. R146, R291: a matrix,
cell, image or scale command of a tile that does not hold the lease, or whose run has counted its 64 commands, raises
LEASE_REQUIRED with the bundle's PC. R146, R152, R159, R291: matrix multiplies and counts that pass the checks of lease,
descriptors and scales enter the stream queue; the native forms with their fixed fields: K = 128 for MMA and 32 for MMC,
128 rows and columns. R163 to R168: the cell commands of the holder enter the cell queue with their occupancy and their
write point at their own cycle after their start. R156, R217: scale loads put their groups into the queue they name;
LYSET writes a layout register for bundles three issue cycles later. -/
def Obligations.MatrixSlots : Prop :=
  (Does .mlease hasLease (fun u => u.modCur fun x => { x with lease := none }) ∧
  Waits .mlease (fun u => ¬hasLease u) (fun _ => some .lease) ∧
  Does .mrel (fun u => u.arr.holder = some (BitVec.ofNat 2 u.curId))
    (fun u => (u.modArr u.curCluster fun m => { m with spent := true }).endRun u.curCluster) ∧
  Faults .mrel (fun u => u.arr.holder ≠ some (BitVec.ofNat 2 u.curId)) 0x0B (fun u => u.iss.pc) false) ∧
  (∀ (d : BitVec 4) (a b : VOp) (f : MmaF) (g : MmcF),
    Does (.mmaBf16 d a b) (fun u => u.mmaCheck ⟨.bf16, .bf16, 128, 0, 0, true, .none⟩ a b = .go)
      (fun u => u.mma d ⟨.bf16, .bf16, 128, 0, 0, true, .none⟩ a b) ∧
    Does (.mmaFp16 d a b) (fun u => u.mmaCheck ⟨.fp16, .fp16, 128, 0, 0, true, .none⟩ a b = .go)
      (fun u => u.mma d ⟨.fp16, .fp16, 128, 0, 0, true, .none⟩ a b) ∧
    Does (.mmaE4m3 d a b) (fun u => u.mmaCheck ⟨.e4m3, .e4m3, 128, 0, 0, true, .none⟩ a b = .go)
      (fun u => u.mma d ⟨.e4m3, .e4m3, 128, 0, 0, true, .none⟩ a b) ∧
    Does (.mmaE5m2 d a b) (fun u => u.mmaCheck ⟨.e5m2, .e5m2, 128, 0, 0, true, .none⟩ a b = .go)
      (fun u => u.mma d ⟨.e5m2, .e5m2, 128, 0, 0, true, .none⟩ a b) ∧
    Does (.mmaW d a b f) (fun u => u.mmaCheck f a b = .go) (fun u => u.mma d f a b) ∧
    Counts (.mmcE2m1Cb0 d a b) d (nativeCount .e2m1 false) a b ∧ Counts (.mmcE2m1Cb1 d a b) d (nativeCount .e2m1 true) a b ∧
    Counts (.mmcE3m0Cb0 d a b) d (nativeCount .e3m0 false) a b ∧ Counts (.mmcE3m0Cb1 d a b) d (nativeCount .e3m0 true) a b ∧
    Counts (.mmcInt4Cb0 d a b) d (nativeCount .int4 false) a b ∧ Counts (.mmcInt4Cb1 d a b) d (nativeCount .int4 true) a b ∧
    Counts (.mmcW d a b g) d g a b) ∧
  (∀ (a : SOp) (bank acc : Bool) (eb : BitVec 9) (d : BitVec 4) (m : Rm) (w : Img),
    Cells (.cfoldCb0 a) 2 2 (fun u => .cfold false ((u.readS a).extractLsb' 0 9)) ∧
    Cells (.cfoldCb1 a) 2 2 (fun u => .cfold true ((u.readS a).extractLsb' 0 9)) ∧
    Cells (.cfoldW bank eb) 2 2 (fun _ => .cfold bank eb) ∧
    Cells .cmergeCb0 2 2 (fun _ => .cmerge false) ∧ Cells .cmergeCb1 2 2 (fun _ => .cmerge true) ∧
    Cells .cclr 1 1 (fun _ => .cclr) ∧ Cells (.aclr d) 1 1 (fun _ => .aclr d) ∧
    Cells (.cdrain m d) 2 4 (fun _ => .cdrain d m false) ∧ Cells (.cdrainAdd m d) 2 4 (fun _ => .cdrain d m true) ∧
    Cells (.cdrainW m d acc) 2 4 (fun _ => .cdrain d m acc) ∧
    Does (.csave w a) (fun u => u.leaseCheck (u.arr.cellStart + imgCycles w + 1) = .go ∧ u.imageCheck w (u.readS a) true = .go)
      (fun u => u.addCell (imgCycles w) (.csave w (spadView (u.readS a).toNat).1 (spadView (u.readS a).toNat).2)
        [(1, .read), (imgCycles w + 1, .write)]) ∧
    Does (.cload w a) (fun u => u.leaseCheck (u.arr.cellStart + imgCycles w + 1) = .go ∧ u.imageCheck w (u.readS a) false = .go)
      (fun u => u.addCell (imgCycles w) (.cload w (spadView (u.readS a).toNat).1 (spadView (u.readS a).toNat).2)
        [(1, .read), (imgCycles w + 1, .write)])) ∧
  (∀ (q restart : Bool) (scm : Scm) (a b : SOp) (d : BitVec 3) (imm : Word),
    Does (.sldA a b) (fun u => u.sldCheck false true (u.readS a) (u.readS b) = .go)
      (fun u => u.sld false true .b32 (u.readS a) (u.readS b)) ∧
    Does (.sldB a b) (fun u => u.sldCheck true true (u.readS a) (u.readS b) = .go)
      (fun u => u.sld true true .b32 (u.readS a) (u.readS b)) ∧
    Does (.sldW q restart scm a b) (fun u => u.sldCheck q restart (u.readS a) (u.readS b) = .go)
      (fun u => u.sld q restart scm (u.readS a) (u.readS b)) ∧
    Does (.lyset d a) free (fun u => u.push (u.now + 3) (.layout d (u.readS a))) ∧
    Does (.lysetW d imm) free (fun u => u.push (u.now + 3) (.layout d imm))) ∧
  ∀ (d : BitVec 4) (a b : VOp) (x y : SOp) (f : MmaF) (g : MmcF) (bank acc q restart : Bool) (eb : BitVec 9) (m : Rm)
    (w : Img) (scm : Scm),
    (NeedsLease (.mmaBf16 d a b) ∧ NeedsLease (.mmaFp16 d a b) ∧ NeedsLease (.mmaE4m3 d a b) ∧
      NeedsLease (.mmaE5m2 d a b) ∧ NeedsLease (.mmaW d a b f) ∧ NeedsLease (.mmcE2m1Cb0 d a b) ∧
      NeedsLease (.mmcE2m1Cb1 d a b) ∧ NeedsLease (.mmcE3m0Cb0 d a b) ∧ NeedsLease (.mmcE3m0Cb1 d a b) ∧
      NeedsLease (.mmcInt4Cb0 d a b) ∧ NeedsLease (.mmcInt4Cb1 d a b) ∧ NeedsLease (.mmcW d a b g)) ∧
    (NeedsLease (.cfoldCb0 x) ∧ NeedsLease (.cfoldCb1 x) ∧ NeedsLease (.cfoldW bank eb) ∧ NeedsLease .cmergeCb0 ∧
      NeedsLease .cmergeCb1 ∧ NeedsLease .cclr ∧ NeedsLease (.aclr d) ∧ NeedsLease (.cdrain m d) ∧
      NeedsLease (.cdrainAdd m d) ∧ NeedsLease (.cdrainW m d acc) ∧ NeedsLease (.csave w x) ∧ NeedsLease (.cload w x)) ∧
    NeedsLease (.sldA x y) ∧ NeedsLease (.sldB x y) ∧ NeedsLease (.sldW q restart scm x y)

/-- R174, R176, R177: DLOAD fills a bank, DSEL selects one with a window of eight issue cycles, FFENCE ends the windows
and fetches anew. R172, R77: a dictionary slot does what the wide instruction that its entry expands to does, in every
phase of its bundle; where steps 4 and 5 of R72 refuse it, its fault is taken and the bundle does not commit. The last
clauses say so form by form: a slot whose entry, with its holes filled, stands for a wide form whose own checks pass
completes with the effect of that form. That CSELK.W with an operand-file register as destination writes its first row
there is the model's choice (log entry 16). -/
def Obligations.DictionarySlots : Prop :=
  (∀ (k : Bool) (a b : SOp),
    Does (.dload k a b) (fun u => u.dloadCheck k (u.readS a) (u.readS b) = .go)
      (fun u => u.dload k (u.readS a) (u.readS b)) ∧
    Does (.dsel k) free (fun u => u.modCur fun x =>
      if x.dsel = k then x else { x with dsel := k, selLast := some (x.th.bank.n + 8) }) ∧
    Does .ffence free (fun u => (u.modCur fun x =>
      { x with
        selLast := none
        loadWins := []
        fill := x.fill.map fun f => { f with opens := false }
        served := 0 }).modIss fun i => { i with control := .refetch, cost := i.cost + 2 }) ∧
    Faults (.dload k a b) (fun u => 2048 < (u.readS b).toNat) 0x17 (fun u => u.readS a + 32768) false ∧
    Faults (.dload k a b) (fun u => 0 < (u.readS b).toNat ∧ (u.readS b).toNat ≤ 2048 ∧ (u.readS a).toNat % 64 ≠ 0) 0x06
      (fun u => u.readS a) false) ∧
  (∀ (e : BitVec 11) (h i j : BitVec 6) (s : State), s.iss.phase = .alone →
    (∀ k, s.aloneBundle.expand s.iss.pos e h i j = .ok k → k.wide.isSome = true → exec (.dictionarySlot e h i j) s = exec k s) ∧
    (∀ x, s.aloneBundle.expand s.iss.pos e h i j = .error x →
      exec (.dictionarySlot e h i j) s =
        .next (s.aloneBundle.takeTrap s.aloneBundle.iss.pc
          ⟨x.2, s.aloneBundle.iss.pc, 1#8 <<< s.iss.pos, false, false, false⟩))) ∧
  (∀ (e : BitVec 11) (h i j : BitVec 6) (s : State) (k : Instr), s.iss.phase ≠ .alone →
    s.expand s.iss.pos e h i j = .ok k → k.wide.isSome = true → exec (.dictionarySlot e h i j) s = exec k s) ∧
  (∀ (e : BitVec 11) (h i j : BitVec 6) (s : State) (x : Nat × BitVec 8), s.iss.phase = .check →
    s.expand s.iss.pos e h i j = .error x →
    exec (.dictionarySlot e h i j) s =
      .next (s.modIss fun k => { k with verdict := .trap ⟨x.2, s.iss.pc, 1#8 <<< s.iss.pos, false, false, false⟩ })) ∧
  ∀ (e : BitVec 11) (h i j : BitVec 6) (m : Rm) (n sat bank acc q restart sx : Bool) (ds : SDst) (dv : VDst) (p g l : BitVec 3)
    (x y : SOp) (a b : VOp) (w : DOp) (imm : Word) (i32 : BitVec 32) (o16 : BitVec 16) (f fd fa : Fmt) (c : Cond)
    (part : BitVec 3) (d4 : BitVec 4) (eb : BitVec 9) (fm : MmaF) (fc : MmcF) (scm : Scm) (sz : Size) (conv : Option Conv)
    (fr : CpyrF) (op : Comb) (o : BitVec 2) (inc : Bool) (k : BitVec 6) (v : BitVec 3),
    (DoesAs e h i j (.li n ds imm) free (fun u => u.dstS 1 n ds imm) ∧
    DoesAs e h i j (.addiW n ds x imm) free (fun u => u.dstS 1 n ds (u.readS x + imm)) ∧
    DoesAs e h i j (.andiW n ds x imm) free (fun u => u.dstS 1 n ds (u.readS x &&& imm)) ∧
    DoesAs e h i j (.oriW n ds x imm) free (fun u => u.dstS 1 n ds (u.readS x ||| imm)) ∧
    DoesAs e h i j (.xoriW n ds x imm) free (fun u => u.dstS 1 n ds (u.readS x ^^^ imm)) ∧
    DoesAs e h i j (.muliW n ds x imm) free (fun u => u.dstS 3 n ds (u.readS x * imm)) ∧
    DoesAs e h i j (.sltiW n ds x imm) free (fun u => u.dstS 1 n ds (if (u.readS x).toInt < imm.toInt then 1 else 0)) ∧
    DoesAs e h i j (.seqiW n ds x imm) free (fun u => u.dstS 1 n ds (if u.readS x = imm then 1 else 0)) ∧
    DoesAs e h i j (.fcvtW m n ds x fd fa) (valid fun u => (scalarCvt fa fd m (u.readF fa x)).2)
      (fun u => u.dstFS 3 n ds (scalarCvt fa fd m (u.readF fa x))) ∧
    DoesAs e h i j (.fcmpW n p x y fa c) (valid fun u => (fCmp c fa (u.readF fa x) (u.readF fa y)).2)
      (fun u => u.dstFP 2 n p (fCmp c fa (u.readF fa x) (u.readF fa y)))) ∧
    (DoesAs e h i j (.vaddW m n dv a b f sat) (valid fun u => (u.zipV f (addElem f m sat) a b).2)
      (fun u => u.dstFV 2 n dv.op (u.zipV f (addElem f m sat) a b)) ∧
    DoesAs e h i j (.vsubW m n dv a b f sat) (valid fun u => (u.zipV f (subElem f m sat) a b).2)
      (fun u => u.dstFV 2 n dv.op (u.zipV f (subElem f m sat) a b)) ∧
    DoesAs e h i j (.vmulW m n dv a b f sat) (valid fun u => (u.zipV f (mulElem f m sat) a b).2)
      (fun u => u.dstFV 2 n dv.op (u.zipV f (mulElem f m sat) a b)) ∧
    DoesAs e h i j (.vfmaW m n dv a b f)
      (valid fun u => (zipFlags3 f.width (fFma f m) (u.readV f a) (u.readV f b) (u.readV f dv.op)).2)
      (fun u => u.dstFV 4 n dv.op (zipFlags3 f.width (fFma f m) (u.readV f a) (u.readV f b) (u.readV f dv.op))) ∧
    DoesAs e h i j (.vmaxW m n dv a b f) (valid fun u => (u.zipV f (pickElem true f) a b).2)
      (fun u => u.dstFV 2 n dv.op (u.zipV f (pickElem true f) a b)) ∧
    DoesAs e h i j (.vminW m n dv a b f) (valid fun u => (u.zipV f (pickElem false f) a b).2)
      (fun u => u.dstFV 2 n dv.op (u.zipV f (pickElem false f) a b)) ∧
    DoesAs e h i j (.vcvt m n dv a fd fa part) (valid fun u => (vcvtRow fa fd m part.toNat (u.readV fa a)).2)
      (fun u => u.dstFV 4 n dv.op (vcvtRow fa fd m part.toNat (u.readV fa a))) ∧
    DoesAs e h i j (.vrsumW m n dv a f) (valid fun u => (sumRow f m (u.readV f a)).2)
      (fun u => u.dstFV 8 n dv.op (sumRow f m (u.readV f a))) ∧
    DoesAs e h i j (.vrmaxW n dv a f) (valid fun u => (reduceRow f (fMinMax true f) (u.readV f a)).2)
      (fun u => u.dstFV 6 n dv.op (reduceRow f (fMinMax true f) (u.readV f a))) ∧
    DoesAs e h i j (.cselkW n (.row g o inc) a f k) (valid fun u => cselkFlags f (u.cselkSource a))
      (selects n (.row g o inc) f k.toNat a) ∧
    DoesAs e h i j (.cselkW n (.file v) a f k) (valid fun u => cselkFlags f (u.cselkSource a))
      (selectsFile n v f k.toNat a)) ∧
    (DoesAs e h i j (.mmaW d4 a b fm) (fun u => u.mmaCheck fm a b = .go) (fun u => u.mma d4 fm a b) ∧
    DoesAs e h i j (.mmcW d4 a b fc) (fun u => u.mmcCheck fc a b = .go) (fun u => u.mmc d4 fc a b) ∧
    DoesAs e h i j (.cfoldW bank eb) (fun u => u.leaseCheck (u.arr.cellStart + 2) = .go)
      (fun u => u.addCell 2 (.cfold bank eb) [(2, .write)]) ∧
    DoesAs e h i j (.cdrainW m d4 acc) (fun u => u.leaseCheck (u.arr.cellStart + 4) = .go)
      (fun u => u.addCell 2 (.cdrain d4 m acc) [(4, .write)]) ∧
    DoesAs e h i j (.sldW q restart scm x y) (fun u => u.sldCheck q restart (u.readS x) (u.readS y) = .go)
      (fun u => u.sld q restart scm (u.readS x) (u.readS y)) ∧
    DoesAs e h i j (.lysetW l imm) free (fun u => u.push (u.now + 3) (.layout l imm))) ∧
    (DoesAs e h i j (.ldx n ds x sz sx i32) (fun u => u.accessCheck (u.readS x + i32.signExtend 64) (sizeBytes sz) rRD false = .go)
      (fun u => u.load n ds (u.readS x + i32.signExtend 64) (sizeBytes sz) sx) ∧
    DoesAs e h i j (.stx x y sz i32) (fun u => u.accessCheck (u.readS y + i32.signExtend 64) (sizeBytes sz) rW true = .go)
      (fun u => u.store (u.readS y + i32.signExtend 64) (sizeBytes sz) (u.readS x)) ∧
    DoesAs e h i j (.cpyW x w l conv) (mayStart (fun u => u.readS x) fun u => u.copyP w l conv none)
      (fun u => u.startCopy (u.readS x) (u.copyP w l conv none) ((u.readD w 3).getLsbD 5)) ∧
    DoesAs e h i j (.cpyrW x w fr)
      (mayStart (fun u => u.readS x)
        fun u => u.copyP w fr.ly (if fr.conv then some ⟨fr.fa, fr.fd, fr.rm⟩ else none) (some (fr.fd, fr.op, fr.rm)))
      (fun u => u.startCopy (u.readS x)
        (u.copyP w fr.ly (if fr.conv then some ⟨fr.fa, fr.fd, fr.rm⟩ else none) (some (fr.fd, fr.op, fr.rm)))
        ((u.readD w 3).getLsbD 5)) ∧
    ∀ z : DOp,
    DoesAs e h i j (.waccW z w f op m) (fun u => u.winCheck (u.readD z 0) w (u.winP w .acc (f.width / 8) f op m) = .go)
      (fun u => u.startWin (u.readD z 0) (u.winP w .acc (f.width / 8) f op m) ((u.readD w 3).getLsbD 32)) ∧
    DoesAs e h i j (.wgacW z w f op m) (fun u => u.winCheck (u.readD z 0) w (u.winP w .gac (f.width / 8) f op m) = .go)
      (fun u => u.startWin (u.readD z 0) (u.winP w .gac (f.width / 8) f op m) ((u.readD w 3).getLsbD 32))) ∧
    DoesAs e h i j (.brW i32) free (fun u => goesTo (u.iss.pc + 4 * i32.signExtend 64) u) ∧
    DoesAs e h i j (.jalW n ds i32) free (fun u => goesTo (u.iss.pc + 4 * i32.signExtend 64) (u.dstS 1 n ds u.iss.nextPc)) ∧
    DoesAs e h i j (.brpW q p i32) (fun u => u.thread.getP p ≠ q) (fun u => goesTo (u.iss.pc + 4 * i32.signExtend 64) u) ∧
    DoesAs e h i j (.brpW q p i32) (fun u => u.thread.getP p = q) (fun u => u) ∧
    DoesAs e h i j (.loopW x o16) (mayEnter x) (enters x (fun u => u.iss.pc + 4 * o16.setWidth 64) none) ∧
    DoesAs e h i j (.looppW g x o16) (mayEnter x) (enters x (fun u => u.iss.pc + 4 * o16.setWidth 64) (some g))

/-- R224 to R231: HALLOC allocates the lowest FREE slot and raises HANDLE_EXHAUSTED where none is FREE; HWAIT waits
while its flag is clear, issues with ERR once it is set, and with 0xFF for an orphan; HTEST reads the slot; HFREE frees
or orphans it; a handle that matches nothing raises STALE_HANDLE with its value. The last clause says how a slot moves
between its states and what a handle value matches (R225, R227). -/
def Obligations.HandleSlots : Prop :=
  (∀ (n : Bool) (d : BitVec 5) (a : SOp),
    (∀ k, Does (.halloc n d)
      (fun u => (u.cur.hslot k).st = .free ∧ k < 256 ∧ ∀ j < k, (u.cur.hslot j).st ≠ .free)
      (fun u => (u.modCur fun x => x.setHslot k
          ⟨.alloc, (u.cur.hslot k).gen, none, true, true, 0, false⟩).dstS 2 n (.reg d)
        (BitVec.ofNat 64 (k + 256 * (u.cur.hslot k).gen.toNat)))) ∧
    Faults (.halloc n d) (fun u => ∀ k < 256, (u.cur.hslot k).st ≠ .free) 0x0A (fun u => u.iss.pc) false ∧
    Does (.hwaitL n d a) (fun u => u.cur.handleMatch (u.readS a) = .slot ∧ (u.cur.hslot (slotNo (u.readS a))).loc = true)
      (fun u => u.dstS 1 n (.reg d) ((u.cur.hslot (slotNo (u.readS a))).err.setWidth 64)) ∧
    Does (.hwaitR n d a) (fun u => u.cur.handleMatch (u.readS a) = .slot ∧ (u.cur.hslot (slotNo (u.readS a))).rem = true)
      (fun u => u.dstS 1 n (.reg d) ((u.cur.hslot (slotNo (u.readS a))).err.setWidth 64)) ∧
    Does (.hwaitL n d a) (fun u => u.cur.handleMatch (u.readS a) = .orphan) (fun u => u.dstS 1 n (.reg d) 0xFF) ∧
    Does (.hwaitR n d a) (fun u => u.cur.handleMatch (u.readS a) = .orphan) (fun u => u.dstS 1 n (.reg d) 0xFF) ∧
    Waits (.hwaitL n d a)
      (fun u => u.cur.handleMatch (u.readS a) = .slot ∧ (u.cur.hslot (slotNo (u.readS a))).loc = false) (fun _ => none) ∧
    Waits (.hwaitR n d a)
      (fun u => u.cur.handleMatch (u.readS a) = .slot ∧ (u.cur.hslot (slotNo (u.readS a))).rem = false) (fun _ => none) ∧
    Does (.htest n d a) (fun u => u.cur.handleMatch (u.readS a) ≠ .stale)
      (fun u => u.dstS 2 n (.reg d) (u.htestValue (u.readS a))) ∧
    Does (.hfree a) (fun u => u.cur.handleMatch (u.readS a) = .slot)
      (fun u => u.modCur fun x => x.setHslot (slotNo (u.readS a)) (x.hslot (slotNo (u.readS a))).free) ∧
    Faults (.hfree a) (fun u => u.cur.handleMatch (u.readS a) ≠ .slot) 0x09 (fun u => u.readS a) false ∧
    Faults (.hwaitL n d a) (fun u => u.cur.handleMatch (u.readS a) = .stale) 0x09 (fun u => u.readS a) false ∧
    Faults (.hwaitR n d a) (fun u => u.cur.handleMatch (u.readS a) = .stale) 0x09 (fun u => u.readS a) false ∧
    Faults (.htest n d a) (fun u => u.cur.handleMatch (u.readS a) = .stale) 0x09 (fun u => u.readS a) false) ∧
  ∀ (h : HSlot) (evt : Bool) (code gen : BitVec 8),
    (h.alloc = { h with st := .alloc, loc := true, rem := true, err := 0, og := none, evt := false }) ∧
    ((h.start evt).st = .busy ∧ (h.start evt).loc = false ∧ (h.start evt).rem = false ∧ (h.start evt).err = 0 ∧
      (h.start evt).gen = h.gen) ∧
    (h.st = .alloc → h.free.st = .free ∧ h.free.gen = h.gen + 1 ∧ h.free.og = h.og) ∧
    (h.st = .busy → h.free.st = .orphan ∧ h.free.gen = h.gen + 1 ∧ h.free.og = some h.gen) ∧
    (h.st = .busy → (h.complete true true code).st = .alloc ∧ (h.complete true true code).gen = h.gen) ∧
    (h.st = .orphan → (h.complete true true code).st = .free ∧ (h.complete true true code).og = h.og) ∧
    (h.err ≠ 0 → (h.complete true true code).err = h.err) ∧
    (h.st = .alloc ∨ h.st = .busy → (h.matchGen gen = .slot ↔ h.gen = gen)) ∧
    (h.st = .free ∨ h.st = .orphan → (h.matchGen gen = .orphan ↔ h.og = some gen))

/-- R214, R218, R219, R227: a copy whose handle matches a slot that is not BUSY, whose extents pass its checks and that
finds a place in the queue starts. -/
def Obligations.CopySlots : Prop :=
  ∀ (d : BitVec 5) (f : SOp) (a : DOp) (ly : BitVec 3) (conv : Option Conv) (g : CpyrF),
    Starts (.cpy d a) (fun u => u.thread.getS d) (fun u => u.copyP a (u.copyLy a) none none) a ∧
    Starts (.cpyr d a) (fun u => u.thread.getS d)
      (fun u => u.copyP a (u.copyLy a) none (some (.fp32, .sum, .rne))) a ∧
    Starts (.cpyW f a ly conv) (fun u => u.readS f) (fun u => u.copyP a ly conv none) a ∧
    Starts (.cpyrW f a g) (fun u => u.readS f)
      (fun u => u.copyP a g.ly (if g.conv then some ⟨g.fa, g.fd, g.rm⟩ else none) (some (g.fd, g.op, g.rm))) a

/-- R240 to R247: a window transfer that passes its checks starts. -/
def Obligations.WindowTransferSlots : Prop :=
  ∀ (d : BitVec 5) (e a : DOp) (f : Fmt) (op : Comb) (m : Rm),
    Transfers (.wget d a) (fun u => u.thread.getS d) a (fun u => u.winP a .get 1 .fp32 .repl .rne) ∧
    Transfers (.wstr d a) (fun u => u.thread.getS d) a (fun u => u.winP a .str 1 .fp32 .repl .rne) ∧
    Transfers (.wstrn d a) (fun u => u.thread.getS d) a (fun u => u.winP a .strn 1 .fp32 .repl .rne) ∧
    Transfers (.wacc d a) (fun u => u.thread.getS d) a (fun u => u.winP a .acc 4 .fp32 .sum .rne) ∧
    Transfers (.wgac d a) (fun u => u.thread.getS d) a (fun u => u.winP a .gac 4 .int32 .sum .rne) ∧
    Transfers (.wcas d a) (fun u => u.thread.getS d) a
      (fun u => u.winP a .cas (if (u.readD a 3).getLsbD 33 then 8 else 4) .fp32 .repl .rne) ∧
    Transfers (.waccW e a f op m) (fun u => u.readD e 0) a (fun u => u.winP a .acc (f.width / 8) f op m) ∧
    Transfers (.wgacW e a f op m) (fun u => u.readD e 0) a (fun u => u.winP a .gac (f.width / 8) f op m)

/-- R237, R238, R251, R257: the bundles that ask for a window, its end, a fence or a lock issue once their request has
been answered and every earlier plain access has performed (R278); the WOPEN with the window value it was answered with.
R253 to R256, R259, R260, R262: posting, starting, completing and waiting on an open window, unlocking and flushing. -/
def Obligations.WindowSyncSlots : Prop :=
  (∀ (d : BitVec 5) (a b : SOp) (e : DOp) (v : Word),
    Does (.wopen d e) (fun u => u.granted (u.wopenReq e) = some v ∧ u.thread.quiet = true) (fun u => (u.dstS 1 false (.reg d) v).settleReq) ∧
    Does (.wdrop a) (fun u => (u.granted (.wdrop (widOf (u.readS a)))).isSome = true ∧ u.thread.quiet = true) (fun u => u.settleReq) ∧
    Does (.wfen a) (fun u => (u.granted (wfenReq (u.readS a))).isSome = true ∧ u.thread.quiet = true) (fun u => u.settleReq) ∧
    Does (.wlockSh a b) (fun u => (u.granted (wlockReq (u.readS a) (u.readS b) false)).isSome = true ∧ u.thread.quiet = true)
      (fun u => u.settleReq) ∧
    Does (.wlockEx a b) (fun u => (u.granted (wlockReq (u.readS a) (u.readS b) true)).isSome = true ∧ u.thread.quiet = true)
      (fun u => u.settleReq)) ∧
  (∀ (a b : SOp),
    Does (.wpost a b)
      (fun u => u.cur.windowOk (u.readS a) = true ∧ (u.dirOf (u.readS a)).posted = false ∧
        groupOk (u.readS b) u.cur.nrank.toNat = true)
      (fun u => (u.modWin (u.readS a) fun x => { x with posted := true }).sendReq u.curId u.curId
        (widOf (u.readS a)).toNat (.post (u.readS b))) ∧
    Does (.wstart a b)
      (fun u => u.cur.windowOk (u.readS a) = true ∧ (u.dirOf (u.readS a)).started = none ∧
        groupOk (u.readS b) u.cur.nrank.toNat = true ∧ u.thread.quiet = true ∧
        u.postsHeld (u.dirOf (u.readS a)) (u.readS b) = true)
      (fun u => u.modWin (u.readS a) fun x =>
        { x with started := some (u.readS b), notices := (groupMembers (u.readS b)).foldl List.erase x.notices }) ∧
    Does (.wcomp a)
      (fun u => u.cur.windowOk (u.readS a) = true ∧ (u.dirOf (u.readS a)).started.isSome = true ∧ u.thread.quiet = true ∧
        u.busyOn u.curId (widOf (u.readS a)) ((u.readS a).extractLsb' 8 8)
          (fun r => (groupMembers (u.startedGroup (u.readS a))).contains r) = false)
      (fun u => (u.sendCompletions (u.readS a) (u.startedGroup (u.readS a))).modWin (u.readS a) fun x =>
        { x with started := none }) ∧
    Does (.wwait a)
      (fun u => u.cur.windowOk (u.readS a) = true ∧ (u.dirOf (u.readS a)).posted = true ∧ u.thread.quiet = true ∧
        ∃ e, u.entryFrom u.curId u.curId (widOf (u.readS a)).toNat = some e ∧ u.exposureDone u.cur (widOf (u.readS a)) e = true)
      (fun u => u.endExposure (u.readS a)) ∧
    Does (.wunlk a b)
      (fun u => u.cur.windowOk (u.readS a) = true ∧ lockRank (u.readS b) < u.cur.nrank.toNat ∧
        ((u.dirOf (u.readS a)).lock (lockRank (u.readS b)) = some .held ∨
          (u.dirOf (u.readS a)).lock (lockRank (u.readS b)) = some .refused) ∧ u.thread.quiet = true ∧
        u.busyOn u.curId (widOf (u.readS a)) ((u.readS a).extractLsb' 8 8) (fun r => r == lockRank (u.readS b)) = false)
      (fun u => u.unlock (u.readS a) (u.readS b)) ∧
    Does (.wflsh a b)
      (fun u => u.cur.windowOk (u.readS a) = true ∧
        ((u.readS b).getLsbD 16 = true ∨ lockRank (u.readS b) < u.cur.nrank.toNat) ∧
        u.busyOn u.curId (widOf (u.readS a)) ((u.readS a).extractLsb' 8 8)
          (fun r => (u.readS b).getLsbD 16 || r == lockRank (u.readS b)) = false)
      (fun u => u) ∧
    Faults (.wpost a b) (fun u => u.cur.windowOk (u.readS a) = false) 0x18 (fun u => u.readS a) false ∧
    Faults (.wunlk a b)
      (fun u => u.cur.windowOk (u.readS a) = true ∧ lockRank (u.readS b) < u.cur.nrank.toNat ∧
        (u.dirOf (u.readS a)).lock (lockRank (u.readS b)) = some .requested) 0x18 (fun u => u.readS a) false)

/-- R357 to R361, R367, R368: CTSET sets an entry that is not ACTIVE, CTREADY starts the next instance of an IDLE one,
CTWAIT issues when the entry is IDLE, CTABORT aborts an instance before its commit point; an entry that is FREE refuses
the last three with LAUNCH_SHAPE, the CTREADY once its handle has passed its checks (R360). -/
def Obligations.CollectiveSlots : Prop :=
  ∀ (a : SOp) (e : DOp) (x : CtDesc) (rs : List Nat),
    Does (.ctset e)
      (fun u => (u.readD e 0).toNat % 64 = 0 ∧ outside (u.readD e 0).toNat 64 = none ∧ u.thread.quiet = true ∧
        u.ctLoad u.curId (u.readD e 0) (u.readD e 1) = .ok (x, rs) ∧
        (u.ct u.curCluster (ctIndex u.curId (u.readD e 1))).st ≠ .active)
      (fun u => u.modCt u.curCluster (ctIndex u.curId (u.readD e 1)) fun _ => x.entry rs) ∧
    Does (.ctready a)
      (fun u => u.cur.handleMatch (u.readS a &&& 0xFFFF) = .slot ∧
        (u.cur.hslot (slotNo (u.readS a &&& 0xFFFF))).st ≠ .busy ∧ (u.ctOf (u.readS a)).st = .idle)
      (fun u => u.ctready (u.readS a)) ∧
    Does (.ctwait a) (fun u => (u.ctOf (u.readS a)).st = .idle) (fun u => u) ∧
    Waits (.ctwait a) (fun u => (u.ctOf (u.readS a)).st = .active) (fun _ => none) ∧
    Does (.ctabort a) (fun u => (u.ctOf (u.readS a)).st ≠ .free)
      (fun u => u.ctAbort u.curCluster (ctIndex u.curId (u.readS a)) 5 true true) ∧
    Faults (.ctready a)
      (fun u => u.cur.handleMatch (u.readS a &&& 0xFFFF) = .slot ∧
        (u.cur.hslot (slotNo (u.readS a &&& 0xFFFF))).st ≠ .busy ∧ (u.ctOf (u.readS a)).st = .free) 0x19
      (fun u => u.readS a) false ∧
    Faults (.ctready a) (fun u => u.cur.handleMatch (u.readS a &&& 0xFFFF) ≠ .slot) 0x09
      (fun u => u.readS a &&& 0xFFFF) false ∧
    Faults (.ctwait a) (fun u => (u.ctOf (u.readS a)).st = .free) 0x19 (fun u => u.readS a) false ∧
    Faults (.ctabort a) (fun u => (u.ctOf (u.readS a)).st = .free) 0x19 (fun u => u.readS a) false

/-- R305, R306, R314, R315: LAUNCH that passes its checks queues a launch; WAITL of a retired launch returns its status
and frees its slot, of a launch that is QUEUED, RUNNING or SAVED it waits; LSTAT returns the status of any; a stale
launch handle raises STALE_HANDLE. The faults of LAUNCH in the order of R306: HANDLE_EXHAUSTED without a FREE slot,
ALIGN of IMG, the fault of the header's read once every earlier access has performed (R279; before that it waits),
LAUNCH_SHAPE with IMG for a header that breaks R296, then with SHAPE for a shape or control word that breaks R305. -/
def Obligations.LaunchSlots : Prop :=
  ∀ (d : BitVec 5) (a : SOp) (e : DOp) (l : LSlot),
    let room (u : State) : Prop := ∃ k < 16, ((u.seqCtx u.curSeq).slot k).st = .free
    let reads (u : State) : Prop := room u ∧ (u.readD e 0).toNat % 32 = 0 ∧ u.thread.quiet = true
    Waits (.waitl d a) (fun u => u.launchOf (u.readS a) = some l ∧ (l.st = .queued ∨ l.st = .running ∨ l.st = .saved))
      (fun _ => none) ∧
    Faults (.launch d e) (fun u => ∀ k < 16, ((u.seqCtx u.curSeq).slot k).st ≠ .free) 0x0A (fun u => u.iss.pc) false ∧
    Faults (.launch d e) (fun u => room u ∧ (u.readD e 0).toNat % 32 ≠ 0) 0x06 (fun u => u.readD e 0) false ∧
    Waits (.launch d e) (fun u => room u ∧ (u.readD e 0).toNat % 32 = 0 ∧ u.thread.quiet = false) (fun _ => none) ∧
    (∀ c x, Faults (.launch d e) (fun u => reads u ∧ u.seqRead u.curSeq (u.readD e 0).toNat 32 = .error (c, x)) c
      (fun _ => BitVec.ofNat 64 x) false) ∧
    (∀ bs, Faults (.launch d e)
      (fun u => reads u ∧ u.seqRead u.curSeq (u.readD e 0).toNat 32 = .ok bs ∧
        ((wordAt bs 0).extractLsb' 32 32 ≠ 0 ∨ (wordAt bs 0).extractLsb' 0 32 = 0 ∨ (wordAt bs 1).toNat % 4 ≠ 0 ∨
          (wordAt bs 1).toNat < 0x100000000 ∨ 0x17FFFFFFF < (wordAt bs 1).toNat))
      0x19 (fun u => u.readD e 0) false) ∧
    (∀ bs h, Faults (.launch d e)
      (fun u => reads u ∧ u.seqRead u.curSeq (u.readD e 0).toNat 32 = .ok bs ∧ imageHdr bs = some h ∧
        shapeOk (u.readD e 2) (u.readD e 3) (u.pcl u.curSeq) = false)
      0x19 (fun u => u.readD e 2) false) ∧
    (∀ sh ctl n, shapeOk sh ctl n = true →
      shLidx0 sh + shNcl sh ≤ n ∧ shNx sh * shNy sh * shNz sh * shNs sh = shNcl sh * (maskTiles (shTmask sh)).length) ∧
    Does (.launch d e) (fun u => u.launchCheck e = .go) (fun u => u.launch d e) ∧
    Does (.waitl d a) (fun u => u.launchOf (u.readS a) = some l ∧ (l.st = .complete ∨ l.st = .killed))
      (fun u => (u.dstS 1 false (.reg d) l.status).modSeq u.curSeq fun q =>
        q.setSlot (slotNo (u.readS a)) { LSlot.reset with gen := l.gen + 1 }) ∧
    Does (.lstat d a) (fun u => u.launchOf (u.readS a) = some l) (fun u => u.dstS 2 false (.reg d) l.status) ∧
    Faults (.waitl d a) (fun u => u.launchOf (u.readS a) = none) 0x09 (fun u => u.readS a) false ∧
    Faults (.lstat d a) (fun u => u.launchOf (u.readS a) = none) 0x09 (fun u => u.readS a) false

/-- R94 to R96: branches go on at their target with two stall cycles, and JAL links NEXTPC with latency 1; one that is
not taken costs nothing. JR to an address that is no multiple of 4 raises ALIGN with it. -/
def Obligations.Branches : Prop :=
  ∀ (g n : Bool) (p : BitVec 3) (i19 : BitVec 19) (i14 : BitVec 14) (i32 : BitVec 32) (d : BitVec 5) (dw : SDst) (a : SOp),
    Does (.br i19) free (fun u => goesTo (u.iss.pc + 4 * i19.signExtend 64) u) ∧
    Does (.brW i32) free (fun u => goesTo (u.iss.pc + 4 * i32.signExtend 64) u) ∧
    Does (.brp g p i14) (fun u => u.thread.getP p ≠ g) (fun u => goesTo (u.iss.pc + 4 * i14.signExtend 64) u) ∧
    Does (.brp g p i14) (fun u => u.thread.getP p = g) (fun u => u) ∧
    Does (.brpW g p i32) (fun u => u.thread.getP p ≠ g) (fun u => goesTo (u.iss.pc + 4 * i32.signExtend 64) u) ∧
    Does (.brpW g p i32) (fun u => u.thread.getP p = g) (fun u => u) ∧
    Does (.jal n d i14) free (fun u =>
      goesTo (u.iss.pc + 4 * i14.signExtend 64) (u.dstS 1 n (.reg d) u.iss.nextPc)) ∧
    Does (.jalW n dw i32) free (fun u => goesTo (u.iss.pc + 4 * i32.signExtend 64) (u.dstS 1 n dw u.iss.nextPc)) ∧
    Does (.jr a) (fun u => (u.readS a).toNat % 4 = 0) (fun u => goesTo (u.readS a) u) ∧
    Faults (.jr a) (fun u => (u.readS a).toNat % 4 ≠ 0) 0x06 (fun u => u.readS a) false

/-- R98, R99, R102: a loop slot whose count is not 0 pushes its entry, with stage 0 on for LOOPP; one whose count is 0
goes on after its end bundle; a full stack raises LOOP_STACK. LBRK pops the top entry and goes on after its end bundle
where its predicate is 1, and does nothing where it is 0. -/
def Obligations.Loops : Prop :=
  ∀ (a : SOp) (o12 : BitVec 12) (o7 : BitVec 7) (o16 : BitVec 16) (g p : BitVec 3) (next : Word),
    Enters (.loop a o12) a (fun u => u.iss.pc + 4 * o12.setWidth 64) none ∧
    Enters (.loopW a o16) a (fun u => u.iss.pc + 4 * o16.setWidth 64) none ∧
    Enters (.loopp g a o7) a (fun u => u.iss.pc + 4 * o7.setWidth 64) (some g) ∧
    Enters (.looppW g a o16) a (fun u => u.iss.pc + 4 * o16.setWidth 64) (some g) ∧
    (∀ e r, Does (.lbrk p)
      (fun u => u.thread.getP p = true ∧ u.thread.loops = e :: r ∧ u.pcAfter e.endPc = .ok next)
      (fun u => goesTo next (u.modThread fun t =>
        { t with loops := r, li := vset t.li r.length 0, ps := if e.pipelined then e.saved else t.ps }))) ∧
    Does (.lbrk p) (fun u => u.thread.getP p = false) (fun u => u) ∧
    Faults (.lbrk p) (fun u => u.thread.getP p = true ∧ u.thread.loops = []) 0x10 (fun u => u.iss.pc) false

/-- R106, R107, R113 to R116, R304: STEP at a quiet boundary counts; STEP, END, TRAP and TRET mark how their bundle ends
(what the bundle does then is BundleEnds), EVPOP reads the head of q0, SLEEP issues when it has nothing to wait for and
waits else; NOP and a header have no effect of their own (R65, R108). STEP under a lease raises STEP_IN_LEASE. With an
operation in flight, orphans included, or a window that is not at rest (R267) it raises STEP_NOT_QUIET. ADDR is then the
handle of the lowest-numbered slot in flight, and where no slot is in flight the window value of the lowest WID that is
not at rest (R320). -/
def Obligations.ControlSlots : Prop :=
  (∀ (n : Bool) (i14 : BitVec 14) (t : BitVec 7) (d : BitVec 5) (pop : BitVec 4) (stg : BitVec 3),
    Does .nop free (fun u => u) ∧
    Does (.hdr pop stg) free (fun u => u) ∧
    Does (.step i14) (fun u => u.arr.holder ≠ some (BitVec.ofNat 2 u.curId) ∧ u.cur.unquiet = none)
      (fun u => (u.modCur fun x => { x with stepNo := i14, stepCnt := x.stepCnt + 1 }).modIss fun k =>
        { k with control := .step }) ∧
    Does .end_ free (fun u => u.modIss fun k => { k with control := .end_ }) ∧
    Does (.trap t) free (fun u => u.modIss fun k => { k with control := .trap t u.iss.pos }) ∧
    Does .tret free (fun u => u.modIss fun k => { k with control := .tret, cost := k.cost + 2 }) ∧
    Does (.evpop n d) free (fun u => u.dstS 2 n (.reg d) (u.cur.q0.headD 0)) ∧
    Does .sleep (fun u => u.onTile = true ∧ (u.cur.q0 ≠ [] ∨ u.cur.q1 ≠ [] ∨ u.cur.cutPending = true)) (fun u => u) ∧
    Waits .sleep (fun u => u.onTile = true ∧ u.cur.q0 = [] ∧ u.cur.q1 = [] ∧ u.cur.cutPending = false) (fun _ => none) ∧
    (∀ q : BitVec 6,
      Does .sleep (fun u => u.iss.agent = .seq q ∧
          ((∃ l ∈ (u.seqCtx q.toNat).slots.toList, l.st = .complete ∨ l.st = .killed) ∨
            ∃ v, u.partOfSeq q.toNat = some v ∧ (u.part v).inbox ≠ [])) (fun u => u) ∧
      Waits .sleep (fun u => u.iss.agent = .seq q ∧
          (∀ l ∈ (u.seqCtx q.toNat).slots.toList, l.st ≠ .complete ∧ l.st ≠ .killed) ∧
          ∀ v, u.partOfSeq q.toNat = some v → (u.part v).inbox = []) (fun _ => none)) ∧
    (∀ w, Faults (.step i14) (fun u => u.arr.holder ≠ some (BitVec.ofNat 2 u.curId) ∧ u.cur.unquiet = some w) 0x13
      (fun _ => w) false) ∧
    (∀ h : HSlot, h.inFlight = true ↔ (h.st = .busy ∨ h.st = .orphan) ∧ ¬(h.loc = true ∧ h.rem = true)) ∧
    (∀ d : WDir, d.unquiet = true ↔ d.started ≠ none ∨ d.posted = true ∨ d.locks ≠ []) ∧
    (∀ x : Tile, x.unquiet = none ↔ ∀ k < 256, (x.hslot k).inFlight = false ∧ (x.dir k).unquiet = false) ∧
    Faults (.step i14) (fun u => u.arr.holder = some (BitVec.ofNat 2 u.curId)) 0x0C (fun u => u.iss.pc) false) ∧
  ∀ (x : Tile) (w : Word), x.unquiet = some w →
    (∃ k < 256, (x.hslot k).inFlight = true ∧ (∀ j < k, (x.hslot j).inFlight = false) ∧
      w = BitVec.ofNat 64 (k + 256 * (x.hslot k).gen.toNat)) ∨
    (∀ j < 256, (x.hslot j).inFlight = false) ∧
      ∃ k < 256, (x.dir k).unquiet = true ∧ (∀ j < k, (x.dir j).unquiet = false) ∧
        w = BitVec.ofNat 64 (k + 256 * (x.dir k).gen.toNat + 0x10000)

/-- R109: SYSR returns the register's value at issue with latency 2, SYSW writes s[D] for bundles two issue cycles later
(as a delayed write of its level, log entry 52); an access below the register's level raises PRIVILEGE. Which register
each number names at a tile and at a context: R110, the flags and the array's state (R169), the dictionary's state and
tags (R184 to R186), the ring (R352), the registers of a context (R302) and of the trap levels (R319). What a SYSW
changes when it lands: the fields of FPCTL that R27 lets software write, PSR (R104), EVSTAT (R111) and the trap
registers; every other number, QCAP among them, is read only. -/
def Obligations.SystemRegisters : Prop :=
  (∀ (n : Bool) (d : BitVec 5) (i : BitVec 14),
    Does (.sysr n d i) (fun u => u.sysDenied i = false) (fun u => u.dstS 2 n (.reg d) (u.sysRead i)) ∧
    Does (.sysw d i) (fun u => u.sysDenied i = false) (fun u => u.push (u.now + 2) (.sysw i (u.thread.getS d))) ∧
    Faults (.sysr n d i) (fun u => u.sysDenied i = true) 0x04 (fun u => u.iss.pc) false ∧
    Faults (.sysw d i) (fun u => u.sysDenied i = true) 0x04 (fun u => u.iss.pc) false) ∧
  (∀ (s : State) (i : BitVec 14), s.sysDenied i = true ↔ s.onTile = true ∧
    (0x100 ≤ i.toNat ∧ i.toNat ≤ 0x105 ∧ s.thread.lvl.num < 1 ∨ 0x110 ≤ i.toNat ∧ i.toNat ≤ 0x115 ∧ s.thread.lvl.num < 2)) ∧
  (∀ (s : State) (t : BitVec 11), s.iss.agent = .tile t →
    let x := s.tile t.toNat
    ReadsThread s x.th ∧
      ((∀ k < 8, (s.sysRead 0x003).extractLsb' (5 * k) 5 = vget x.cur k) ∧ s.sysRead 0x004 = x.th.ps.setWidth 64 ∧
      s.sysRead 0x020 = BitVec.ofNat 64 (s.physId t.toNat) ∧ s.sysRead 0x021 = x.rank.setWidth 64 ∧
      s.sysRead 0x022 = x.tx.setWidth 64 ∧ s.sysRead 0x023 = x.ty.setWidth 64 ∧ s.sysRead 0x024 = x.tz.setWidth 64 ∧
      s.sysRead 0x025 = x.ts.setWidth 64 ∧ s.sysRead 0x026 = x.nrank.setWidth 64 ∧ s.sysRead 0x027 = x.param ∧
      s.sysRead 0x028 = x.imageId.setWidth 64 ∧ s.sysRead 0x032 = x.stepNo.setWidth 64 ∧ s.sysRead 0x033 = x.stepCnt ∧
      s.sysRead 0x040 = x.evstat ∧ s.sysRead 0x050 = astatWord x (s.cluster (t.toNat / 4)).arr (t.toNat % 4) ∧
      s.sysRead 0x060 = x.dictst x.th.bank.n ∧ s.sysRead 0x061 = x.bank0.tag ∧ s.sysRead 0x062 = x.bank1.tag ∧
      s.sysRead 0x080 = s.modl.ringst) ∧
    (s.sysRead 0x100 = x.th.tr1.epc ∧ s.sysRead 0x101 = x.th.tr1.cause ∧ s.sysRead 0x102 = x.th.tr1.addr ∧
      s.sysRead 0x103 = x.th.tr1.stat ∧ s.sysRead 0x104 = x.th.tr1.hbase ∧ s.sysRead 0x105 = x.th.tr1.qcap ∧
      s.sysRead 0x110 = x.th.tr2.epc ∧ s.sysRead 0x111 = x.th.tr2.cause ∧ s.sysRead 0x112 = x.th.tr2.addr ∧
      s.sysRead 0x113 = x.th.tr2.stat ∧ s.sysRead 0x114 = x.th.tr2.hbase ∧ s.sysRead 0x115 = x.th.tr2.qcap)) ∧
  (∀ (s : State) (q : BitVec 6), s.iss.agent = .seq q →
    ReadsThread s (s.seqCtx q.toNat).th ∧ s.sysRead 0x070 = BitVec.ofNat 64 (q.toNat / 8 * 16 + q.toNat % 8) ∧
      (∀ v, s.partOfSeq q.toNat = some v → s.sysRead 0x071 = BitVec.ofNat 64 (s.part v).map.length) ∧
      s.sysRead 0x072 = BitVec.ofNat 64 ((s.seqCtx q.toNat).slots.toList.filter fun l => l.st == .free).length ∧
      s.sysRead 0x004 = 0 ∧ s.sysRead 0x100 = 0) ∧
  (∀ (s : State) (t : BitVec 11) (q : BitVec 6) (n : Nat) (i : BitVec 14) (v : Word),
    s.applyAct (.tile t) n (.sysw i v) = (s.modTile t.toNat fun x => x.sysWrite i.toNat v) ∧
    s.applyAct (.seq q) n (.sysw i v) = s.modSeq q.toNat fun x =>
      { x with th := { x.th with
          fpctl := if i = 0 then (v &&& 0xC100) ||| (x.th.fpctl &&& 0x1F &&& ~~~v) else x.th.fpctl } }) ∧
  (∀ (x : Tile) (v : Word),
    x.sysWrite 0x000 v = { x with th := { x.th with fpctl := (v &&& 0xC100) ||| (x.th.fpctl &&& 0x1F &&& ~~~v) } } ∧
    x.sysWrite 0x004 v = { x with th := { x.th with ps := v.setWidth 8 } } ∧
    x.sysWrite 0x040 v = (if v.getLsbD 7 then { x with ovf := false, lost := 0 } else x) ∧
    x.sysWrite 0x050 v = { x with astat := x.astat &&& ~~~(v.setWidth 5) } ∧
    (x.sysWrite 0x100 v = { x with th := { x.th with tr1 := { x.th.tr1 with epc := v } } } ∧
      x.sysWrite 0x101 v = { x with th := { x.th with tr1 := { x.th.tr1 with cause := v &&& 0xFF } } } ∧
      x.sysWrite 0x102 v = { x with th := { x.th with tr1 := { x.th.tr1 with addr := v } } } ∧
      x.sysWrite 0x103 v = { x with th := { x.th with tr1 := { x.th.tr1 with stat := v &&& 0x7FF03 } } } ∧
      x.sysWrite 0x104 v = { x with th := { x.th with tr1 := { x.th.tr1 with hbase := v } } }) ∧
    (x.sysWrite 0x110 v = { x with th := { x.th with tr2 := { x.th.tr2 with epc := v } } } ∧
      x.sysWrite 0x111 v = { x with th := { x.th with tr2 := { x.th.tr2 with cause := v &&& 0xFF } } } ∧
      x.sysWrite 0x112 v = { x with th := { x.th with tr2 := { x.th.tr2 with addr := v } } } ∧
      x.sysWrite 0x113 v = { x with th := { x.th with tr2 := { x.th.tr2 with stat := v &&& 0x7FF03 } } } ∧
      x.sysWrite 0x114 v = { x with th := { x.th with tr2 := { x.th.tr2 with hbase := v } } }) ∧
    ∀ i, i ≠ 0x000 → i ≠ 0x004 → i ≠ 0x040 → i ≠ 0x050 → (i < 0x100 ∨ 0x104 < i) → (i < 0x110 ∨ 0x114 < i) →
      x.sysWrite i v = x)

/-- R66, R67, R140 to R145, R148, R168: what the landing of results and the events of a cluster's array do where their
conditions hold: nothing lands while a late answer stalls its agent; a free array goes on while its holder has not
ended, and one that its holder has not given back runs with its holder's bundles alone; a pending count-mode event is
taken at the boundary before its tile's next bundle, with what is due landed. R174, R175, R187, R391: a fill that has
read its whole image writes the bank, its tag and what is beyond the image as undefined; the debug latch takes the entry
it is pointed at where the request is admitted, and the debug block reads it, DDST and the tags. The model's choices:
the zeros beside WOP 0x3FF in the latch of an undefined entry (log entry 31), the event whose trap comes first (log
entry 29), a run that ends at 32,768 array cycles (log entry 59). -/
def Obligations.ArrayEvents : Prop :=
  (∀ (s : State) (a : Agent) (c : BitVec 9) (h : BitVec 2) (k : Nat) (t : BitVec 11) (l : Late) (r : List Late),
    ((s.threadOf a).late = false → exec (.resultLanding a) s = .next (s.land a)) ∧
    ((s.threadOf a).late = true → exec (.resultLanding a) s = .next s) ∧
    ((s.cluster c.toNat).arr.holder = some h → (s.cluster c.toNat).arr.free = true →
      (s.tile (4 * c.toNat + h.toNat)).run ≠ .ended →
      exec (.performPoint c) s =
        .next ((((s.landPoints (.tile (BitVec.ofNat 11 (4 * c.toNat + h.toNat)))).modArr c.toNat fun m =>
          { m with age := m.age + 1 }).performDue c.toNat).endRun c.toNat)) ∧
    ((s.cluster c.toNat).arr.free = false → exec (.performPoint c) s = .next s) ∧
    ((s.cluster c.toNat).arr.holder = none →
      nextHolder (s.cluster c.toNat).arr.last (s.leaseWaiters c.toNat) = some k →
      exec (.leaseGrant c) s =
        .next ((s.modArr c.toNat fun m =>
            { MatArray.reset with holder := some (BitVec.ofNat 2 k), last := m.last }).modTile
          (4 * c.toNat + k) fun x => { x with lease := some true })) ∧
    ((s.cluster c.toNat).arr.holder = some h →
      (s.cluster c.toNat).arr.spent = true ∨ 32768 ≤ (s.cluster c.toNat).arr.age →
      (s.cluster c.toNat).arr.perfs = [] →
      ∃ u, exec (.runEnd c) s = .next u ∧ (u.cluster c.toNat).arr.holder = none ∧
        (u.cluster c.toNat).arr.last = h) ∧
    ((s.cluster c.toNat).arr.holder = some h →
      exec (.arrayParityError c) s =
        .next (((s.killByEngine (4 * c.toNat + h.toNat) 2 0 0x12).modArr c.toNat fun _ =>
          { MatArray.reset with last := h }).clusterError c.toNat 1)) ∧
    (let u := (s.atBoundary (.tile t)).land (.tile t);
      (s.tile t.toNat).run = .running → (s.tile t.toNat).fill = none → (s.tile t.toNat).th.late = false →
      (u.tile t.toNat).run = .running → (u.tile t.toNat).th.lvl = .tl0 → (u.tile t.toNat).late = l :: r →
      exec (.countEventTrap t) s =
        .next ((({ u with iss := { Issue.reset with agent := .tile t } } : State).modTile t.toNat fun x =>
            { x with late := r.filter fun e => e.at_ != l.at_ }).takeTrap (u.tile t.toNat).th.b0.pc
          ⟨l.cause, l.addr, 1#8 <<< l.pos, false, false, true⟩))) ∧
  (∀ (s : State) (t : BitVec 11) (f : Fill) (x : Word),
    ((s.tile t.toNat).fill = some f → (s.tile t.toNat).alive = true → (∀ g < f.granules, (ffind f.got g).isSome = true) →
      ∃ u, exec (.dloadFill t) s = .next u ∧ (u.tile t.toNat).fill = none ∧
        (u.tile t.toNat).bank f.bank = ⟨(List.range f.count).map fun e =>
          (e, (fget 0 f.got (e / 4)).extractLsb' (128 * (e % 4)) 128), f.tag, none⟩) ∧
    exec (.ddidxWrite t ⟨x, true⟩) s = .next (s.modTile t.toNat fun y =>
      { y with
        ddat := ((if x.getLsbD 11 then y.bank1 else y.bank0).entry (x.extractLsb' 0 11).toNat).getD
          (0x3FF#128 <<< 118) }) ∧
    exec (.ddidxWrite t ⟨x, false⟩) s = .next s) ∧
  ∀ (s : State) (t : BitVec 11),
    let x := s.tile t.toNat
    (s.debugRead (debugBase t + 0x48) true = some ((x.ddat.extractLsb' 0 32).setWidth 64) ∧
      s.debugRead (debugBase t + 0x50) true = some ((x.ddat.extractLsb' 32 32).setWidth 64) ∧
      s.debugRead (debugBase t + 0x58) true = some ((x.ddat.extractLsb' 64 32).setWidth 64) ∧
      s.debugRead (debugBase t + 0x60) true = some ((x.ddat.extractLsb' 96 32).setWidth 64) ∧
      s.debugRead (debugBase t + 0x68) true = some (x.dictst x.th.bank.n) ∧
      s.debugRead (debugBase t + 0x70) true = some x.bank0.tag ∧
      s.debugRead (debugBase t + 0x78) true = some x.bank1.tag) ∧
    ∀ a, s.debugRead a false = none

/-- R69, R203, R204, R209, R211, R270: an answer that may come is delivered to its bank, also with the bytes of a posted
store of the tile before that performs (the store then keeps which load took them, log entry 20), a posted write that
may perform changes HBM, a walk that finds a mapping enters it in the cluster's buffer, and one that finds a fault
leaves the buffer as it is. R205, R343: the translations an access may use are the one that the buffer holds, those that
walks have found since the last invalidation, a fault among them, and the one that a walk finds now; a level-2 entry
that had V = 0 is used no more under the same level-1 entry: these clauses are the model's reading of the two rules (log
entry 15). An XLINV leaves only what a walk finds. -/
def Obligations.AccessEvents : Prop :=
  ∀ (s : State) (a : Agent) (k : Nat) (l : Load) (p : Post) (v e : Word) (c : BitVec 9) (w : BitVec 31) (o : BitVec 6),
    ((s.threadOf a).findLoad k = some l → l.value = some v →
      ∀ fwd, exec (.nominalAnswerArrival a k fwd) s = .next (s.modThreadOf a fun t => t.answer l v)) ∧
    ((s.threadOf a).findLoad k = some l → l.value = none → l.atomic = false → (s.threadOf a).mayLoad l = true →
      s.hbmBad l.pa l.size = false →
      exec (.nominalAnswerArrival a k false) s = .next ((s.cacheLine a l).modThreadOf a fun t =>
        t.answer l (extend l.signed l.size (readLe s.hbm l.pa l.size)))) ∧
    (∀ bs, (s.threadOf a).findLoad k = some l → l.value = none → l.atomic = false → (s.threadOf a).forward l = some (p, bs) →
      let taken (q : Post) : Post := if q.id = p.id then { q with took := some (min l.id (q.took.getD l.id)) } else q
      exec (.nominalAnswerArrival a k true) s = .next (s.modThreadOf a fun t =>
        Thread.answer { t with posts := t.posts.map taken } l (extend l.signed l.size (leNat bs)))) ∧
    ((s.threadOf a).posts.find? (fun q => q.id == k) = some p → (s.threadOf a).mayApply p = true →
      s.postDamage p = false →
      exec (.atomicUnitApply a k) s = .next (s.applyPost a p)) ∧
    (let k := s.cluster c.toNat
      let page := w.toNat / 2 ^ 16
      let old := fget [] k.walks page
      k.owner = some o → (s.part o.toNat).en = true →
      (s.walk (s.part o.toNat) c.toNat w.toNat = .ok e →
        exec (.translationWalk c w) s = .next (s.modCluster c.toNat fun x => { x with
          walks := if old.contains (.entry e) then x.walks else fput x.walks page (.entry e :: old)
          tlb := if ffind x.tlb page = none ∧ x.tlb.length < 1024 then fput x.tlb page e else x.tlb })) ∧
      (∀ f, s.walked (s.part o.toNat) c.toNat w.toNat = some f → (∀ x, f ≠ .entry x) →
        exec (.translationWalk c w) s = .next (s.modCluster c.toNat fun x => { x with
          walks := if old.contains f then x.walks else fput x.walks page (f :: old) })) ∧
      (∀ f, s.walk (s.part o.toNat) c.toNat w.toNat = .error f → f ≠ 0x12 →
        s.walked (s.part o.toNat) c.toNat w.toNat = some (.fault f) ∨
          ∃ x, s.walked (s.part o.toNat) c.toNat w.toNat = some (.hole x)) ∧
      ∀ m, m ∈ s.mappings c.toNat w.toNat ↔
        m = s.walk (s.part o.toNat) c.toNat w.toNat ∨ (∃ x, ffind k.tlb page = some x ∧ m = .ok x) ∨
        (∃ x, .entry x ∈ old ∧ m = .ok x) ∨ (∃ f, .fault f ∈ old ∧ m = .error f) ∨
        ∃ x, .hole x ∈ old ∧ (((s.part o.toNat).level1At c.toNat w.toNat).map s.tableEntry).getD 0 ≠ x ∧ m = .error 0x07) ∧
    ((s.cluster c.toNat).owner = some o → (s.part o.toNat).xlinv = true → c ∈ (s.part o.toNat).map →
      ∃ u, exec (.xlinvDone o) s = .next u ∧ ∀ m, m ∈ u.mappings c.toNat w.toNat ↔ m = u.walk (u.part o.toNat) c.toNat w.toNat)

/-- R214, R219, R222, R230: a free channel takes the head of the copy queue; a copy whose source is read completes
LOCAL, one whose destination is written completes REMOTE; one that still meets a translation fault ends with XLATE (7)
and one that meets a damaged word with ECC (8), which kills its context; a row of a stream copy enters its stream. -/
def Obligations.CopyEvents : Prop :=
  ∀ (s : State) (c : BitVec 9) (ch : BitVec 2) (id : Nat) (r : List Nat) (o : Op) (p : CopyP) (cause : BitVec 8) (q3 : Bool),
    ((s.cluster c.toNat).queue = id :: r → vget (s.cluster c.toNat).chans ch.toNat = none →
      exec (.copyStart c ch) s =
        .next ((s.modCluster c.toNat fun k => { k with queue := r, chans := vset k.chans ch.toNat (some id) }).modOp c.toNat
          id fun x => { x with chan := some ch, began := s.cycle })) ∧
    (s.runningCopy c.toNat id = some (o, p) → o.loc = false → s.paced o (p.rows * p.rlen) = true →
      (∀ g < p.readCount, (ffind o.buf g).isSome = true) →
      exec (.localCompletion c id) s = .next (s.finishLocal c.toNat id 0)) ∧
    (s.runningCopy c.toNat id = some (o, p) → o.loc = true → s.paced o (p.rows * p.dlen) = true →
      (if p.mem then ∀ g < p.dstCount, o.done.contains g = true else o.streamLeft = 0) →
      exec (.remoteCompletion c id) s = .next (s.finishOp c.toNat id 0)) ∧
    (s.runningCopy c.toNat id = some (o, p) → s.copyFault o p = some cause → cause ≠ 0x12 →
      exec (.copyXlateFault c id) s = .next (s.finishOp c.toNat id 7)) ∧
    (s.runningCopy c.toNat id = some (o, p) → s.copyFault o p = some 0x12 →
      exec (.uncorrectableError c id) s =
        .next ((s.killByEngine o.tile.toNat 3 (o.chan.getD 0).toNat 0x12).finishOp c.toNat id 8)) ∧
    (s.runningCopy c.toNat id = some (o, p) → p.strm = some q3 → o.streamLeft ≠ 0 →
      ((s.tile o.tile.toNat).streamRows q3).length < 8 → s.streamFirst c.toNat id o q3 = true →
      s.paced o (512 * (o.done.length + 1)) = true →
      (∀ g ∈ p.streamNeeds o.done.length, (ffind o.buf g).isSome = true) →
      exec (.streamRow c id) s =
        .next ((s.modTile o.tile.toNat fun x => x.pushStream q3 (rowOf (p.streamBytes o.buf o.done.length))).modOp c.toNat id
          fun x => { x with done := o.done.length :: x.done }))

/-- R237 to R239, R251: the collectives of a launch on its windows act once every rank that has not ended waits in them:
a WOPEN that finds no closed id, or a port without room, answers 0 to everyone, else it opens the lowest closed id at
every rank and answers with its window value; a WDROP frees the entries and answers; a fence switches the entry of every
waiting rank, or closes it where a WFEN of some rank said NOSUCC, and answers every rank. -/
def Obligations.WindowCollectiveEvents : Prop :=
  ∀ (s : State) (v : BitVec 6) (k : BitVec 4) (wid : BitVec 8) (first : Nat × Tile) (rest : List (Nat × Tile)),
    (s.allWait v.toNat k.toNat asksOpen = true →
      s.waiting v.toNat k.toNat = first :: rest → (∀ w < 256, (first.2.dir w).isOpen = true) →
      exec (.wopenCollective v k) s =
        .next ((first :: rest).foldl (fun u e => u.answerReq e.1 0) s)) ∧
    (∀ w < 256, s.allWait v.toNat k.toNat asksOpen = true →
      s.waiting v.toNat k.toNat = first :: rest → (first.2.dir w).isOpen = false → s.portsHaveRoom v.toNat k.toNat = false →
      exec (.wopenCollective v k) s =
        .next ((first :: rest).foldl (fun u e => u.answerReq e.1 0) s)) ∧
    (∀ w < 256, s.allWait v.toNat k.toNat asksOpen = true →
      s.waiting v.toNat k.toNat = first :: rest → (first.2.dir w).isOpen = false →
      (∀ j < w, (first.2.dir j).isOpen = true) → s.portsHaveRoom v.toNat k.toNat = true →
      let gen := (first.2.dir w).gen
      let ended := (s.freedRanks v.toNat k.toNat).foldl
        (fun u e => u.setEntry k.toNat e.1 w (newEntry (BitVec.ofNat 16 e.2) gen 0 0)) s
      let u := (s.ranks v.toNat k.toNat).foldl (fun u e =>
        (u.setEntry k.toNat e.1 w (e.2.newEntry gen)).modTile e.1 fun x =>
          x.modDir w fun d => { WDir.reset with isOpen := true, gen := d.gen }) ended
      exec (.wopenCollective v k) s =
        .next ((u.waiting v.toNat k.toNat).foldl (fun u e => u.answerReq e.1 (windowValue w gen)) u)) ∧
    (s.allWait v.toNat k.toNat (fun q => q == .wdrop wid) = true → s.waiting v.toNat k.toNat = first :: rest →
      (∀ e ∈ s.ranks v.toNat k.toNat, ∀ x, s.wentry k.toNat e.1 wid.toNat = some x → x.epoch = .closed ∧ x.queue = []) →
      s.launchBusyOn v.toNat k.toNat wid (first.2.dir wid.toNat).gen = false →
      exec (.wdropCollective v k wid) s =
        .next ((s.ranks v.toNat k.toNat).foldl (fun u e =>
          (u.modTile e.1 fun x => x.modDir wid.toNat fun d => { WDir.reset with gen := d.gen + 1 }).answerReq e.1 0)
          ((s.rankTiles v.toNat k.toNat).foldl (fun u t =>
            u.modCluster (t / 4) fun c => { c with wins := fdel c.wins (entryKey k.toNat t wid.toNat) }) s))) ∧
    (s.allWait v.toNat k.toNat (asksFence wid) = true → s.waiting v.toNat k.toNat = first :: rest →
      s.launchBusyOn v.toNat k.toNat wid (first.2.dir wid.toNat).gen = false →
      (∀ e ∈ first :: rest, (s.tile e.1).req.isSome = true ∧ ∃ x n, s.wentry k.toNat e.1 wid.toNat = some x ∧
        (x.epoch = .closed ∨ x.epoch = .fence) ∧ x.queue = [.fence n]) →
      let nosucc := (first :: rest).any fun e => e.2.req == some (.wfen wid true)
      ∃ u, exec (.fenceSwitch v k wid) s = .next u ∧
        ∀ e ∈ first :: rest, (u.tile e.1).grant = some 0 ∧ ((u.tile e.1).dir wid.toNat).fence = !nosucc ∧
          ∀ x, s.wentry k.toNat e.1 wid.toNat = some x →
            u.wentry k.toNat e.1 wid.toNat =
              some { x with queue := [], epoch := if nosucc then .closed else .fence })

/-- R242, R245, R248, R249, R264, R265, R277, R348: packets of a flow arrive at their port in order, unless its arrival
buffer is full, or a packet of another flow stands there whose elements have begun to act at a common place (places are
scratchpad granules and the slice as a whole, the model's choice, log entry 75); an operation whose packets have all
been sent completes LOCAL, one whose packets have all applied completes REMOTE; a fetching operation (WGET, WGAC, WCAS)
whose packets have all been answered writes the fetched bytes that are still to be written, granule by granule, and
completes LOCAL and REMOTE; a notify record enters q1 where it has room, and the transfer it tells of is then joined to
the owner's views (R277). -/
def Obligations.WindowTransferEvents : Prop :=
  ∀ (s : State) (o t : BitVec 11) (id n : Nat) (bytes : List Byte) (r : List FlowItem) (c : BitVec 9) (x : Op) (p : WinP)
    (rec_ : Word) (rest : List (Word × Nat)) (at_ : Nat),
    (s.flow o.toNat t.toNat = ⟨.packet id n bytes :: r, none⟩ → s.flowWaits o.toNat t.toNat = false →
      s.portHeld o.toNat t.toNat id n = false → s.bufferFull (t.toNat / 4) = false →
      exec (.windowPacketArrival o t) s =
        .next ((s.setFlow o.toNat t.toNat ⟨r, none⟩).takePacket o.toNat t.toNat id n bytes)) ∧
    (s.flow o.toNat t.toNat = ⟨.packet id n bytes :: r, some at_⟩ → at_ + 64 ≤ s.cycle →
      s.flowWaits o.toNat t.toNat = false → s.portHeld o.toNat t.toNat id n = false → s.bufferFull (t.toNat / 4) = false →
      exec (.packetRepresent o t) s =
        .next ((s.setFlow o.toNat t.toNat ⟨r, none⟩).takePacket o.toNat t.toNat id n bytes)) ∧
    (s.flow o.toNat t.toNat = ⟨.packet id n bytes :: r, none⟩ → s.flowWaits o.toNat t.toNat = false →
      s.portHeld o.toNat t.toNat id n = false → s.bufferFull (t.toNat / 4) = true → s.begun o.toNat id = false →
      exec (.windowPacketArrival o t) s =
        .next (s.setFlow o.toNat t.toNat ⟨.packet id n bytes :: r, some s.cycle⟩)) ∧
    (s.flow o.toNat t.toNat = ⟨.packet id n bytes :: r, none⟩ → s.portHeld o.toNat t.toNat id n = true →
      exec (.windowPacketArrival o t) s = .next s ∧ s.packetElement o.toNat t.toNat = s) ∧
    (s.op? c.toNat id = some x → x.kind = .win p → p.kind.fetches = false → x.loc = false → p.packets ≤ x.sent →
      exec (.windowOpCompletion c id) s = .next (s.finishLocal c.toNat id 0)) ∧
    (s.op? c.toNat id = some x → x.kind = .win p → p.kind.fetches = false → x.loc = true →
      p.packets ≤ x.done.length → exec (.windowOpCompletion c id) s = .next (s.finishOp c.toNat id 0)) ∧
    (s.op? c.toNat id = some x → x.kind = .win p → p.kind.fetches = true → p.packets ≤ x.done.length →
      let u := (List.range (granCuts p.dest.1 p.dest.2).length).foldl (fun u j => u.answerWrite c.toNat id j) s
      (u.op? c.toNat id).isSome = true → exec (.windowOpCompletion c id) s = .next (u.finishOp c.toNat id 0)) ∧
    (∀ j a m u, s.op? c.toNat id = some x → x.kind = .win p → p.kind.fetches = true → x.wrote.contains j = false →
      (granCuts p.dest.1 p.dest.2)[j]? = some (a, m) →
      (∀ q ∈ p.packetsOf (a - p.dest.1) m, (ffind x.answers q).isSome = true) →
      s.writeAt id x.tile.toNat a (((fetched p x.answers).drop (a - p.dest.1)).take m) = .ok u →
      s.answerWrite c.toNat id j = u.modOp c.toNat id fun o => { o with wrote := j :: o.wrote }) ∧
    ((s.tile t.toNat).notify = (rec_, id) :: rest → (s.tile t.toNat).run = .running → (s.tile t.toNat).q1.length < 64 →
      ∃ u, exec (.notifyRecord t) s = .next u ∧ (u.tile t.toNat).q1 = (s.tile t.toNat).q1 ++ [rec_] ∧
        (u.tile t.toNat).notify = rest ∧ (u.tile t.toNat).views = ((s.tile t.toNat).joinOp id).views)

/-- R253 to R263, R348: a request reaches its entry's queue where the port has one of its 64 places and its arrival
buffer room; post notices, completion notices and lock releases act at the tile or entry they are for; at a port whose
arrival buffer is full each is refused, and stays to be presented again. -/
def Obligations.WindowSyncEvents : Prop :=
  ∀ (s : State) (k : Nat) (m : ReqMsg) (z : Notice) (o t : BitVec 11) (wid gen : BitVec 8) (r : List FlowItem) (e : WEntry)
    (id : Nat),
    (s.reqs[k]? = some m → m.refused = none → s.reqReady m = true →
      (s.cluster (m.target.toNat / 4)).queued < 64 → s.bufferFull (m.target.toNat / 4) = false →
      exec (.requestQueueAccept k) s =
        .next (State.enqueue { s with reqs := s.reqs.filter fun q => q.id != m.id } m)) ∧
    (s.reqs[k]? = some m → m.refused = none → s.reqReady m = true →
      64 ≤ (s.cluster (m.target.toNat / 4)).queued ∨ s.bufferFull (m.target.toNat / 4) = true →
      exec (.requestQueueAccept k) s =
        .next { s with reqs := s.reqs.map fun q => if q.id = m.id then { q with refused := some s.cycle } else q }) ∧
    (s.notes[k]? = some z → z.refused = none → s.bufferFull (z.member.toNat / 4) = true →
      exec (.postNotice k) s = .next { s with notes := s.notes.set k { z with refused := some s.cycle } }) ∧
    (s.notes[k]? = some z → z.refused = none → s.bufferFull (z.member.toNat / 4) = false →
      (s.tile z.member.toNat).run ≠ .free → (s.tile z.member.toNat).slot = z.slot →
      exec (.postNotice k) s =
        .next (({ s with notes := s.notes.eraseIdx k } : State).modTile z.member.toNat fun y =>
          y.modDir z.wid.toNat fun d => { d with notices := d.notices ++ [z.rank.toNat] })) ∧
    (s.flow o.toNat t.toNat = ⟨.completion id wid gen :: r, none⟩ → s.flowWaits o.toNat t.toNat = false →
      s.sentBefore o.toNat t.toNat id = true → s.bufferFull (t.toNat / 4) = false →
      s.flowEntry o.toNat t.toNat wid gen = some e →
      exec (.completionNotice o t) s =
        .next (((s.setFlow o.toNat t.toNat ⟨r, none⟩).setEntry (s.tile o.toNat).slot.toNat t.toNat wid.toNat
          (e.completedBy (s.tile o.toNat).rank.toNat)).entryEvent (s.tile o.toNat).slot.toNat t.toNat wid.toNat e (s.tile o.toNat).rank.toNat 4)) ∧
    (s.flow o.toNat t.toNat = ⟨.release id wid gen :: r, none⟩ → s.flowWaits o.toNat t.toNat = false →
      s.sentBefore o.toNat t.toNat id = true → s.bufferFull (t.toNat / 4) = false →
      s.flowEntry o.toNat t.toNat wid gen = some e →
      exec (.lockRelease o t) s =
        .next ((((s.setFlow o.toNat t.toNat ⟨r, none⟩).setEntry (s.tile o.toNat).slot.toNat t.toNat wid.toNat
          { e with epoch := e.epoch.release o }).entryEvent (s.tile o.toNat).slot.toNat t.toNat wid.toNat e
          (s.tile o.toNat).rank.toNat 3).serveAll (s.tile o.toNat).slot.toNat t.toNat wid.toNat)) ∧
    (s.flow o.toNat t.toNat = ⟨.completion id wid gen :: r, none⟩ → s.flowWaits o.toNat t.toNat = false →
      s.sentBefore o.toNat t.toNat id = true → s.bufferFull (t.toNat / 4) = true →
      exec (.completionNotice o t) s =
        .next (s.setFlow o.toNat t.toNat ⟨.completion id wid gen :: r, some s.cycle⟩)) ∧
    (s.flow o.toNat t.toNat = ⟨.release id wid gen :: r, none⟩ → s.flowWaits o.toNat t.toNat = false →
      s.sentBefore o.toNat t.toNat id = true → s.bufferFull (t.toNat / 4) = true →
      exec (.lockRelease o t) s = .next (s.setFlow o.toNat t.toNat ⟨.release id wid gen :: r, some s.cycle⟩))

/-- R307 to R310, R172, R356: a QUEUED launch whose tiles are all free and that no overlapping launch precedes is bound:
every tile of its set, by rank, starts at ENTRY with FPCTL at its reset value, empty queues, no open window, no handle
and the handler bases of its image, and the launch is RUNNING, with the code that HBM holds at that moment (R280; the
snapshot is the model's form of it, log entry 67). -/
def Obligations.Binding : Prop :=
  (∀ (s : State) (v : BitVec 6) (k : BitVec 4), (s.lslot v.toNat k.toNat).st = .queued → s.mayBind v.toNat k.toNat = true →
    let u := ((s.part v.toNat).setTiles (s.lslot v.toNat k.toNat).shape).zipIdx.foldl (fun u e =>
      ((u.modTile e.1 fun x => x.bindTo v.toNat k.toNat e.2 (s.lslot v.toNat k.toNat) u.cycle).freeEntries e.1).clean
        (boundPlace e.1)) s
    exec (.bind v k) s = .next (u.modLslot v.toNat k.toNat fun l => { l with st := .running, code := u.hbm }) ∧
      u.hbm = s.hbm) ∧
  ∀ (x : Tile) (v k r n : Nat) (l : LSlot),
    let y := x.bindTo v k r l n
    y.run = .running ∧ y.th.lvl = .tl0 ∧ y.th.bank.pc = l.entry ∧ (∀ i, y.th.getS i = 0) ∧ (∀ i < 8, vget y.so i = 0) ∧
      (∀ i < 6, vget y.th.li i = 0) ∧ (∀ p, y.th.getP p = decide (p = 0)) ∧ y.th.bank.sb = 0 ∧ y.th.loops = [] ∧ y.th.ps = 0 ∧
      (∀ i, (vget y.th.bank.lat i).val = 0) ∧ y.th.fpctl = 0x100 ∧ y.th.issue = 0 ∧
      y.th.tr1.hbase = l.hb1 ∧ y.th.tr2.hbase = l.hb2 ∧ (∀ i, y.row i = 0) ∧ (∀ i, y.accRow i = 0) ∧
      (∀ h, (y.hslot h).st = .free ∧ (y.hslot h).gen = 0) ∧ (∀ w, (y.dir w).isOpen = false ∧ (y.dir w).gen = 0) ∧
      y.q0 = [] ∧ y.q1 = [] ∧ y.q2 = [] ∧ y.q3 = [] ∧ y.evstat = 0 ∧ y.stepNo = 0 ∧ y.stepCnt = 0 ∧ y.dsel = false ∧
      y.astat = 0 ∧ y.param = l.prm ∧ y.imageId = l.imageId ∧ y.rank = BitVec.ofNat 16 r ∧ y.spad = x.spad

/-- R107, R232, R312, R303, R304: a tile that has executed END is freed once everything of it has drained, and with the
last rank the launch is COMPLETE; where the launch's context has been killed it waits for the halt (R326); an idle
context takes the oldest start record: it runs from ENTRY with s1 = ARG, every other scalar, sb, every predicate but p0
and every latch 0, no loop and FPCTL reset, or refuses a bad record with a done record; a context that has executed END
and whose launches are all over ends with its done record. -/
def Obligations.LaunchEnds : Prop :=
  (∀ (s : State) (t : BitVec 11), (s.tile t.toNat).run = .ended → s.drained t.toNat = true →
    let v := (s.tile t.toNat).part.toNat
    let k := (s.tile t.toNat).slot.toNat
    let u := s.releaseTile t.toNat
    ((s.lslot v k).cause = 0 → exec (.tileFree t) s =
      .next (if u.ranks v k = [] ∧ (u.lslot v k).st = .running then
        (u.freeLaunch v k).modLslot v k fun l => l.retire .complete else u)) ∧
    ((s.lslot v k).cause ≠ 0 → exec (.tileFree t) s = .next s)) ∧
  (∀ (s : State) (v : BitVec 6) (r : StartRec) (rest : List StartRec),
    let p := s.part v.toNat
    let u := (s.modPart v.toNat fun p => { p with inbox := rest }).raise v.toNat 2
    p.inbox = r :: rest → p.en = true → (s.seqCtx p.seqNo).running = false → (s.seqCtx p.seqNo).done = none →
    s.partOfSeq p.seqNo = some v.toNat →
    (∀ c, u.startProgram p.seqNo r = .error c →
      exec (.startRecord v) s = .next (u.doneRecord p.seqNo ⟨r.tag, 0, c.setWidth 64 ||| 0x100⟩)) ∧
    (∀ bs, u.startProgram p.seqNo r = .ok bs →
      ∃ w, exec (.startRecord v) s = .next w ∧ (w.seqCtx p.seqNo).running = true ∧
        (w.seqCtx p.seqNo).cmd = writeBytes [] 0 bs ∧ (w.seqCtx p.seqNo).th.b0.pc = (r.entryLen.extractLsb' 32 32).setWidth 64 ∧
        (∀ i < 28, vget (w.seqCtx p.seqNo).th.s i = if i = 1 then r.arg else 0) ∧
        (∀ i < 4, vget (w.seqCtx p.seqNo).th.b0.hi i = 0) ∧ (w.seqCtx p.seqNo).th.b0.sb = 0 ∧
        (w.seqCtx p.seqNo).th.b0.p = 1 ∧ (∀ i < 8, (vget (w.seqCtx p.seqNo).th.b0.lat i).val = 0) ∧
        (w.seqCtx p.seqNo).th.loops = [] ∧ (∀ i < 6, vget (w.seqCtx p.seqNo).th.li i = 0) ∧
        (w.seqCtx p.seqNo).th.fpctl = 0x100)) ∧
  ∀ (s : State) (q : BitVec 6) (pc : Word), (s.seqCtx q.toNat).ending = some pc →
    (∀ e ∈ (s.seqCtx q.toNat).launches, e.2.over = true) →
    exec (.sequencerEnd q) s =
      .next ((s.modSeq q.toNat fun x => { x with
        running := false
        ending := none
        slots := Vector.ofFn fun i => (x.slot i.val).clear }).doneRecord q.toNat ⟨(s.seqCtx q.toNat).tag, pc, 0⟩)

/-- R311, R330 to R332: a queued launch cuts a running one of lower priority that allows it, has a save area and keeps
it from being bound, a tile of its set being still bound to that one; where none is, the cut is not requested; a parked
tile whose results have landed reports its count; the launch is cut once all its tiles have. R310, R335, R336, R339,
R340: a launch whose cut is complete is saved, tile by tile, and its tiles are free; a SAVED launch that may be bound
resumes; a save or a restore that fails kills the launch with its cause. -/
def Obligations.CutsAndSaves : Prop :=
  ((∀ (s : State) (v : BitVec 6) (w c : BitVec 4),
    (s.lslot v.toNat w.toNat).st = .queued → (s.lslot v.toNat c.toNat).st = .running →
    ctlPrio (s.lslot v.toNat c.toNat).ctl < ctlPrio (s.lslot v.toNat w.toNat).ctl →
    ctlCutok (s.lslot v.toNat c.toNat).ctl = true → (s.lslot v.toNat c.toNat).save.isSome = true →
    (s.lslot v.toNat c.toNat).cut = none → (s.part v.toNat).halt = false →
    let meets : Prop := ∃ e ∈ s.ranks v.toNat c.toNat, e.1 ∈ (s.part v.toNat).setTiles (s.lslot v.toNat w.toNat).shape
    (meets → exec (.cutRequest v w c) s = .next (s.requestCut v.toNat c.toNat 1)) ∧
    (¬meets → exec (.cutRequest v w c) s = .next s)) ∧
  (∀ (s : State) (t : BitVec 11) (m : Option Word),
    let x := s.tile t.toNat
    x.run = .parked → x.reported = false → x.th.bank.pend = [] → x.th.bank.loads = [] →
    (s.lslot x.part.toNat x.slot.toNat).cut = some ⟨m, false⟩ →
    let top := if x.stepCnt < m.getD 0 then m.getD 0 else x.stepCnt
    exec (.stepcntReport t) s =
      .next (((s.modTile t.toNat fun x => { x with reported := true }).modLslot x.part.toNat x.slot.toNat fun l =>
        { l with cut := some ⟨some top, false⟩ }).releaseBelow x.part.toNat x.slot.toNat top)) ∧
  ∀ (s : State) (v : BitVec 6) (k : BitVec 4), (s.lslot v.toNat k.toNat).st = .running →
    s.cutDone v.toNat k.toNat = true →
    exec (.cutComplete v k) s =
      .next (s.modLslot v.toNat k.toNat fun l => { l with cut := l.cut.map fun c => { c with complete := true } })) ∧
  (∀ (s : State) (v : BitVec 6) (k : BitVec 4) (i : Nat) (m : Option Word),
    let l := s.lslot v.toNat k.toNat
    let ranks := s.ranks v.toNat k.toNat
    let saved := s.saveTiles v.toNat k.toNat i (ranks.map Prod.fst)
    let tiles := ((s.part v.toNat).setTiles l.shape).zipIdx.filter fun e => l.ranks.contains e.2
    let back := s.restoreTiles v.toNat k.toNat i tiles
    (l.st = .running → l.cut = some ⟨m, true⟩ → l.save = some i → (s.part v.toNat).halt = false →
      exec (.contextSave v k) s =
        .next ((((ranks.map Prod.fst).foldl (fun u t => u.releaseTile t) saved.1).freeLaunch v.toNat k.toNat).modLslot
          v.toNat k.toNat fun l =>
            match saved.2 with
            | none => { l with st := .saved, ranks := ranks.map fun e => e.2.rank.toNat, cut := none, saving := [] }
            | some c => (l.killedBy c).retire .killed)) ∧
    (l.st = .saved → l.save = some i → s.mayBind v.toNat k.toNat = true → back.2 = none →
      exec (.restore v k) s = .next (back.1.modLslot v.toNat k.toNat fun l => { l with st := .running, ranks := [] })) ∧
    (∀ c, l.st = .saved → l.save = some i → s.mayBind v.toNat k.toNat = true → back.2 = some c →
      exec (.restore v k) s =
        .next (((tiles.foldl (fun u e => u.releaseTile e.1) back.1).freeLaunch v.toNat k.toNat).modLslot v.toNat k.toNat
          fun l => (l.killedBy c).retire .killed)))

/-- R326 to R329: after the halt line has risen every engine of the partition stops: its tiles are freed with what is in
flight, its arrays give up their runs, its copy queues, channels and operations, the window and collective entries of
its ports, its packets, requests and notices are gone, the posted writes of its context are discarded, its RUNNING
launches end KILLED with the cause that a kill of their own has left, QUEUED and SAVED ones stay, and the fault vector
is raised; tiles of other partitions go on. Each engine that has not written one for its own kill writes one stop record
with CAUSE 0: every bound tile, every array in a run, every channel with an operation, every port for each launch that
holds entries there; then the save engines of launches being saved write theirs (R339). The line falls when the records
are written. An engine has written one for its own kill of the launch that it worked for. That all this happens in one
step, in this order, is the model's choice (log entry 39). -/
def Obligations.PartitionHalts : Prop :=
  ∀ (s : State) (v : BitVec 6),
    let n := v.toNat
    let p := s.part n
    let w := (s.haltPartition n).modPart n fun p => { p with haltDone := true }
    (p.halt = true → p.haltDone = false →
      exec (.partitionHalt v) s = .next w ∧ (w.part n).isr.getLsbD 1 = true ∧
      (∀ t, (s.tile t).run ≠ .free → (s.tile t).part = v →
        (w.tile t).run = .free ∧ (w.tile t).th.posts = [] ∧ (w.tile t).th.b0.pend = [] ∧ (w.tile t).th.b0.loads = [] ∧
          (w.tile t).handles = [] ∧ (w.tile t).dirs = [] ∧ (w.tile t).lease = none) ∧
      (∀ t, (∀ e ∈ s.tiles, e.1 = t → e.2.part ≠ v) →
        (w.tile t).run = (s.tile t).run ∧ (w.tile t).th = (s.tile t).th) ∧
      (∀ c ∈ p.map,
        let k := w.cluster c.toNat
        k.queue = [] ∧ k.ops = [] ∧ (∀ i < 4, vget k.chans i = none) ∧ k.wins = [] ∧ k.cts = [] ∧ k.arr.holder = none ∧
          ∀ h, (s.cluster c.toNat).arr.holder = some h → k.arr = { MatArray.reset with last := h }) ∧
      ((∀ f ∈ w.flows, p.hasTile (f.1 / 2048) = false) ∧ (∀ m ∈ w.reqs, p.hasTile m.origin.toNat = false) ∧
        (∀ m ∈ w.notes, p.hasTile m.owner.toNat = false) ∧
        (∀ m ∈ w.ctMsgs, s.ownsPeer n m.src = false ∧ s.ownsPeer n m.dst = false) ∧
        (∀ m ∈ w.modl.outRack ++ w.modl.held, s.ownsPeer n m.src = false) ∧ (w.seqCtx p.seqNo).th.posts = []) ∧
      (∀ k < 16, ((s.lslot n k).st = .queued ∨ (s.lslot n k).st = .saved → (w.lslot n k).st = (s.lslot n k).st) ∧
        ((s.lslot n k).st = .running → (s.lslot n k).left = false →
          (∀ q ∈ (s.seqCtx p.seqNo).th.posts, ∃ bs, q.op = .store bs) →
          (w.lslot n k).st = .killed ∧ (w.lslot n k).cause = (s.lslot n k).cause)) ∧
      ∃ rs : List (Nat × List Word),
        let u := (List.range 16).foldl (fun u k => if (u.lslot n k).st = .running then u.haltSave n k else u)
          (rs.foldl (fun u r => u.faultRecord r.1 r.2) s)
        (w.hbm = u.hbm ∧ (w.part n).fqProd = (u.part n).fqProd ∧ (w.part n).fqDrop = (u.part n).fqDrop) ∧
        ∀ r, r ∈ rs ↔
          (∃ e ∈ s.partTiles n, e.2.run ≠ .stopped ∧
            r = ((s.tile e.1).part.toNat,
              [stopHead 1 0 0 (s.tile e.1).th.lvl.num (s.tile e.1).rank.toNat (s.physId e.1), (s.tile e.1).th.bank.pc, 0,
                s.stopTail (s.tile e.1).part.toNat (s.tile e.1).slot.toNat])) ∨
          (∃ c ∈ p.map, ∃ h, (s.cluster c.toNat).arr.holder = some h ∧
            killKey 2 0 (s.tile (4 * c.toNat + h.toNat)).slot.toNat ∉ (s.cluster c.toNat).wrote ∧
            r = (n, [stopHead 2 0 0 0 0 (s.physId (4 * c.toNat)), 0, 0,
              s.stopTail n (s.tile (4 * c.toNat + h.toNat)).slot.toNat])) ∨
          (∃ c ∈ p.map, ∃ i < 4, ∃ id o, vget (s.cluster c.toNat).chans i = some id ∧ s.op? c.toNat id = some o ∧
            killKey 3 i (s.tile o.tile.toNat).slot.toNat ∉ (s.cluster c.toNat).wrote ∧
            r = (n, [stopHead 3 0 0 0 0 (s.physId (4 * c.toNat + i)), 0, 0, s.stopTail n (s.tile o.tile.toNat).slot.toNat])) ∨
          ∃ c ∈ p.map, ∃ k ∈ s.portLaunches c.toNat, killKey 4 0 k ∉ (s.cluster c.toNat).wrote ∧
            r = (n, [stopHead 4 0 0 0 0 (s.physId (4 * c.toNat)), 0, 0, s.stopTail n k])) ∧
    ((s.part v.toNat).haltDone = true →
      exec (.haltLineFall v) s = .next (s.modPart v.toNat fun p => { p with halt := false, haltDone := false }))

/-- R361 to R366, R370: a partial sum and a part of the final result of the ACTIVE generation are applied at their port;
the root that holds every sum forms the final result in its STAGE, granule by granule, as every other rank does with the
parts that have come; with the last granule the instance commits, and the root sends the final result to the others; an
instance that has committed writes DEST and ends with status 0; notices, timeouts and responses for the ACTIVE
generation abort with their code, a PEER_LOST response (R353), which answers one packet sent over the rack, only the
very instance that sent it; where several wait for an answer, it is the answer to one of them, which is open (log entry
42). R316: the port of a rank that has ended takes part in a round of its launch in the rank's place, with a
contribution that no rule gives, and an ended root sends the final result on; how is the model's choice (log entry 89).
That sums and results travel in chunks of 256 bytes is the model's choice too (log entry 24). -/
def Obligations.CollectiveEvents : Prop :=
  ∀ (s u keep : State) (src : CtSource) (m : CtMsg) (c e : BitVec 9) (g : BitVec 16) (k : Nat) (bs : List Byte),
    let x := s.ct c.toNat e.toNat
    let y := u.ct (msgCluster m) m.dstEntry.toNat
    (s.ctTake src = some (m, u, keep) → s.ctRefusedHere src m = false → y.runs = true →
      (y.peers.any fun p => p.1 == m.src) = true → m.gen = y.gen →
      (m.kind = .partial_ k bs →
        exec (.ctPacketArrival src) s =
          .next ((u.modCt (msgCluster m) m.dstEntry.toNat fun y => { y with parts := fput y.parts k bs }).ctForward
            (msgCluster m) m.dstEntry.toNat)) ∧
      (m.kind = .final k bs →
        exec (.ctPacketArrival src) s =
          .next (u.modCt (msgCluster m) m.dstEntry.toNat fun y =>
            { y with stageIn := (chunkGrans k bs).foldl (fun f g => fput f g.1 g.2) y.stageIn })) ∧
      (m.kind = .abort → exec (.abortNotice src) s = .next (u.ctAbort (msgCluster m) m.dstEntry.toNat 5 false true))) ∧
    (s.ctTake src = some (m, u, keep) → s.ctRefusedHere src m = true →
      (m.kind = .partial_ k bs ∨ m.kind = .final k bs → exec (.ctPacketArrival src) s = .next keep) ∧
      (m.kind = .abort → exec (.abortNotice src) s = .next keep)) ∧
    (x.runs = true → x.committed = true →
      exec (.commitPoint c e) s =
        .next (((List.range (x.len / 64)).foldl (fun u g => u.ctWriteGran c.toNat e.toNat g) s).ctEnd c.toNat e.toNat false 0
          true)) ∧
    (x.timeout ≠ 0 → x.start + 1050 * x.timeout ≤ s.cycle →
      exec (.ctTimeout c e) s = .next (s.ctAbort c.toNat e.toNat 6 true true)) ∧
    (s.awaitsAnswer c.toNat e.toNat g k = true → ∃ j q,
      s.awaitsAnswer c.toNat e.toNat g j = true ∧ s.modl.outRack[j]? = some q ∧
        exec (.peerLostResponse c e g) s = .next (if q.inst = some x.op then
            (s.modMod fun y => y.dropSent j).ctAbort c.toNat e.toNat 4 true true
          else s.modMod fun y => y.dropSent j)) ∧
    ((∀ j, s.awaitsAnswer c.toNat e.toNat g j = false) → exec (.peerLostResponse c e g) s = .next s) ∧
    (x.gen = g → exec (.genRefusedResponse c e g) s = .next (s.ctAbort c.toNat e.toNat 9 true true)) ∧
    (x.peers.length = x.pos + 1 → (∀ k < x.chunks, (x.sumChunk k).isSome = true) →
      exec (.rootFinalResult c e) s = .next (if x.proxy = none then
          (List.range (x.len / 64)).foldl (fun w g => w.ctStageGran c.toNat e.toNat g) s
        else (s.ctMulticast c.toNat e.toNat).modCt c.toNat e.toNat CtEntry.ended)) ∧
    (∀ p q, x.peers[p]? = some q → p ≠ 0 →
      let t := q.1.toNat % 2048
      let y := s.ct (t / 4) q.2.toNat
      let owner := s.tile (ctTile c.toNat e.toNat)
      s.ctMayJoin c.toNat e.toNat t q.2.toNat = true → y.pendAbort = false →
        (s.micro (.endedRank c e p)).ct (t / 4) q.2.toNat =
          x.proxyAt p s.nextId s.choice (owner.part, owner.slot)) ∧
    (∀ n v w, x.runs = true → x.proxy = none → x.committed = false → 64 * n < x.len → x.staged.contains n = false →
      s.ctQuiet c.toNat e.toNat = true →
      (if x.peers.length = x.pos + 1 then (x.sumChunk (n / 4)).map fun b => granOf ((b.drop (64 * (n % 4))).take 64)
        else ffind x.stageIn n) = some v →
      s.writeAt x.op (ctTile c.toNat e.toNat) (x.stage + 64 * n) (granBytes v) = .ok w →
      s.ctStageGran c.toNat e.toNat n =
        (w.modCt c.toNat e.toNat fun x => { x with staged := n :: x.staged }).ctCommit c.toNat e.toNat) ∧
    ∀ l, x.runs = true → x.committed = false → (∀ n < x.len / 64, x.staged.contains n = true) →
      s.readSpan (ctTile c.toNat e.toNat) (granCuts x.stage x.len) = .ok l →
      let w := (s.modOp c.toNat x.op fun o => { o with
        done := []
        buf := (List.range (x.len / 64)).map fun n => (n, granOf ((l.drop (64 * n)).take 64)) }).modCt c.toNat e.toNat
          fun x => { x with committed := true }
      s.ctCommit c.toNat e.toNat = if x.peers.length = x.pos + 1 then w.ctMulticast c.toNat e.toNat else w

/-- R350 to R354, R395: what a module does about its links and about the modules of its ring. The model's choices: which
positions a module's links face (log entry 14), how a module knows that it has been reset since it fell silent (log
entry 42), that spare lanes serve once the direction has been retrained (log entry 43). -/
def Obligations.FabricEvents : Prop :=
  ∀ (s : State) (p : BitVec 4) (link : BitVec 2) (tx : Bool) (n : BitVec 3),
    (s.modl.neighbour p = true → s.modl.isolated &&& posBit p = 0 →
      exec (.silenceDetect p) s =
        .next (((s.modMod fun m => { m with isolated := m.isolated ||| posBit p, notices := m.notices ++ [p] }).setLost
          (s.modl.lost ||| posBit p)).answerLost p.toNat)) ∧
    (s.modl.lost &&& posBit p = 0 → p ≠ s.modl.pos →
      exec (.lossNotice p) s = .next ((s.setLost (s.modl.lost ||| posBit p)).answerLost p.toNat)) ∧
    (s.modl.lost &&& posBit p = 0 → p = s.modl.pos →
      exec (.lossNotice p) s =
        .next (((s.modMod fun m => { m with sinceSilent := false }).setLost (s.modl.lost ||| posBit p)).answerLost
          p.toNat)) ∧
    (∀ w, (s.setLost w).modl.lost = w ∧ (s.setLost w).modl.sinceSilent = s.modl.sinceSilent) ∧
    (s.modl.lost &&& posBit p ≠ 0 → exec (.lossNotice p) s = .next s) ∧
    (p ≠ s.modl.pos →
      exec (.rejoinCommand p) s = .next (s.modMod fun m => { m with rejoining := m.rejoining ||| posBit p })) ∧
    (p = s.modl.pos → s.modl.sinceSilent = true →
      exec (.rejoinCommand p) s =
        .next ((s.modMod fun m => { m with
          joins := m.joins ++ [p]
          sinceSilent := false
          rejoining := (m.rejoining ||| posBit p) &&& ~~~posBit p }).setLost (s.modl.lost &&& ~~~posBit p))) ∧
    (p = s.modl.pos → s.modl.sinceSilent = false →
      let w := ((s.parts.filter fun e => e.2.domain != 0).map Prod.fst).foldl (fun u v =>
        (u.haltPartition v).modPart v fun q => { q with halt := true, haltDone := true })
        (s.modMod fun m => { m with rejoining := m.rejoining ||| posBit p })
      exec (.rejoinCommand p) s =
        .next ((w.modMod fun m => { m with
          joins := m.joins ++ [p]
          sinceSilent := false
          rejoining := m.rejoining &&& ~~~posBit p }).setLost (w.modl.lost &&& ~~~posBit p))) ∧
    (∃ u, exec (.joinNotice p) s = .next u ∧ u.modl.lost = s.modl.lost &&& ~~~posBit p) ∧
    (∃ u, exec (.laneFailure link tx n) s = .next u ∧
      ∀ d, s.modl.links[dirNo link.toNat tx]? = some d →
        ∃ e, u.modl.links[dirNo link.toNat tx]? = some e ∧ e.good = d.good - 1 ∧ e.spares = d.spares) ∧
    exec (.crcFail link tx) s = .next s ∧
    (∃ u, exec (.linkRetrainComplete (.lanes link tx)) s = .next u ∧
      ∀ d, s.modl.links[dirNo link.toNat tx]? = some d → u.modl.links[dirNo link.toNat tx]? = some { d with spares := d.turning }) ∧
    (s.modl.rejoining &&& posBit p ≠ 0 →
      exec (.linkRetrainComplete (.port p)) s =
        .next (s.modMod fun m =>
          { m with isolated := m.isolated &&& ~~~posBit p, rejoining := m.rejoining &&& ~~~posBit p }))

/-- R375 to R381, R390: what the host does through a virtual function that serves an enabled partition. An LCUT requests
the cut of a RUNNING launch that has a save area, asks nothing of one whose cut is under way, and else sets CUTREJ. The
model's choices: a read of BAR2 answers the stored bytes, damaged or not (log entry 44); a report that is started takes
the place of one under way (log entry 69); an LCUT of a partition whose context serves another one sets CUTREJ (log
entry 73); a report holds the values as they stand when it is written (log entry 92); a write to BAR2 and a report are
performed also where they meet a save region (log entry 93). -/
def Obligations.VirtualFunctionEvents : Prop :=
  ∀ (s : State) (v : BitVec 6) (x : Word) (bs : List Byte) (off : BitVec 37) (n : Nat) (ps : List (Nat × Nat)) (d : DoneRec),
    s.vfUsable v.toNat = true →
    let p := s.part v.toNat
    (p.inbox.length < 8 →
      exec (.mbin3Write v x) s = .next (s.modPart v.toNat fun p =>
        { p with inbox := p.inbox ++ [⟨vget p.mbin 0, vget p.mbin 1, vget p.mbin 2, x⟩] })) ∧
    (8 ≤ p.inbox.length → exec (.mbin3Write v x) s = .next (s.modPart v.toNat fun p => { p with mbOvf := true })) ∧
    ((s.seqCtx p.seqNo).done = none →
      exec (.mbpop v x) s = .next (s.modPart v.toNat fun p => { p with outbox := p.outbox.drop 1 })) ∧
    ((s.seqCtx p.seqNo).done = some d → s.partOfSeq p.seqNo = some v.toNat →
      exec (.mbpop v x) s =
        .next ((s.modPart v.toNat fun p => { p with outbox := p.outbox.drop 1 }).doneRecord p.seqNo d)) ∧
    ((p.fqProd - x.setWidth 32).toNat ≤ p.fqSize →
      exec (.fqconsWrite v x) s = .next (s.modPart v.toNat fun p => { p with fqCons := x.setWidth 32 })) ∧
    exec (.isrWrite v x) s = .next (s.modPart v.toNat fun p => { p with isr := p.isr &&& ~~~(x.setWidth 4) }) ∧
    (x.toNat / 2 ^ 16 = 1 → slotNo x < 16 → s.isServed v.toNat = true → (s.lslot v.toNat (slotNo x)).st = .running →
      (s.lslot v.toNat (slotNo x)).gen = x.extractLsb' 8 8 → (s.lslot v.toNat (slotNo x)).save.isSome = true →
      (s.lslot v.toNat (slotNo x)).cut = none → exec (.lcut v x) s = .next (s.requestCut v.toNat (slotNo x) 2)) ∧
    (x.toNat / 2 ^ 16 = 1 → slotNo x < 16 → s.isServed v.toNat = true → (s.lslot v.toNat (slotNo x)).st = .running →
      (s.lslot v.toNat (slotNo x)).gen = x.extractLsb' 8 8 → (s.lslot v.toNat (slotNo x)).save.isSome = true →
      (s.lslot v.toNat (slotNo x)).cut ≠ none → exec (.lcut v x) s = .next s) ∧
    (x.toNat / 2 ^ 16 ≠ 1 ∨ 16 ≤ slotNo x ∨ (s.lslot v.toNat (slotNo x)).st ≠ .running ∨ s.isServed v.toNat = false ∨
        (s.lslot v.toNat (slotNo x)).gen ≠ x.extractLsb' 8 8 ∨ (s.lslot v.toNat (slotNo x)).save = none →
      exec (.lcut v x) s = .next (s.modPart v.toNat fun p => { p with cutRej := true })) ∧
    (x.getLsbD 0 = true → exec (.xlinv v x) s = .next (s.modPart v.toNat fun p => { p with xlinv := true })) ∧
    (p.xlinv = true →
      exec (.xlinvDone v) s = .next ((s.dropTlbs v.toNat).modPart v.toNat fun p => { p with xlinv := false })) ∧
    (x.getLsbD 0 = true →
      exec (.attctlStart v x) s = .next (s.modPart v.toNat fun p =>
        { p with attBuf := x &&& 0xFFFFFFF000, attTo := attBuffer x, attBusy := p.ownsRange (attBuffer x) 4096 })) ∧
    (x.getLsbD 0 = false →
      exec (.attctlStart v x) s = .next (s.modPart v.toNat fun p => { p with attBuf := x &&& 0xFFFFFFF000 })) ∧
    (p.attBusy = true → p.ownsRange p.attTo 4096 = true →
      exec (.attestationReport v) s =
        .next ((s.hbmWrite p.attTo (s.attReport v.toNat)).modPart v.toNat fun p => { p with attBusy := false })) ∧
    (p.attBusy = true → p.ownsRange p.attTo 4096 = false →
      exec (.attestationReport v) s = .next (s.modPart v.toNat fun p => { p with attBusy := false })) ∧
    (p.bar2 off.toNat bs.length = some ps →
      exec (.hostBar2Write v off bs) s =
        .next ((ps.foldl (fun (y : State × List Byte) q => (y.1.hbmWrite q.1 (y.2.take q.2), y.2.drop q.2)) (s, bs)).1)) ∧
    (p.bar2 off.toNat n = some ps →
      exec (.hostBar2Read v off n) s = .next (s.complete (some (ps.flatMap fun q => readBytes s.hbm q.1 q.2)))) ∧
    (p.bar2 off.toNat n = none → exec (.hostBar2Read v off n) s = .next (s.complete none))

/-- R382 to R388: the physical function's controls and commands of a partition, once the module is up (R389). The
model's choices: setting EN clears FQDROP, clearing EN keeps the other registers of the block (log entry 46); clearing
EN drops a REMOVE that waits (log entry 78). -/
def Obligations.PartitionEvents : Prop :=
  ∀ (s : State) (v : BitVec 6) (c : BitVec 9) (x : Word) (on : Bool),
    s.modl.up = true →
    let p := s.part v.toNat
    (p.en = false → 8 ≤ p.map.length → p.ownsRange p.tableBase 0x80000 = true →
      p.ownsRange p.fqBase (32 * p.fqSize) = true →
      exec (.pctlEnSet v) s = .next ((s.dropTlbs v.toNat).modPart v.toNat fun p => { p with en := true, fqDrop := 0 })) ∧
    (p.en = false → p.map.length < 8 → exec (.pctlEnSet v) s = .next s) ∧
    (p.en = true → s.liveLaunch v.toNat = false →
      exec (.pctlEnClear v) s =
        .next ((p.map.foldl (fun u c => u.leaveCluster v c) s).modPart v.toNat fun p =>
          { p with en := false, lock := false, busy := false })) ∧
    (s.liveLaunch v.toNat = true → exec (.pctlEnClear v) s = .next s) ∧
    exec (.pctlOffline v on) s = .next (s.modPart v.toNat fun p => { p with offline := on }) ∧
    exec (.pctlLock v) s = .next (s.modPart v.toNat fun p => { p with lock := true }) ∧
    (p.busy = false → p.map.length < 64 → (s.cluster c.toNat).owner = none →
      exec (.pcmdAdd v c) s =
        .next ((((((s.zeroCluster c.toNat).modCluster c.toNat fun k => { k with owner := some v }).modPart v.toNat
          fun p => { p with map := p.map ++ [c], layout := p.layout + 1 }).dropTlbs v.toNat).settleRpend v).modPart v.toNat
            fun p => { p with busy := false, result := 0 })) ∧
    (p.busy = false → p.map.length < 64 → (s.cluster c.toNat).owner.isSome = true →
      exec (.pcmdAdd v c) s = .next (s.modPart v.toNat fun p => { p with busy := false, result := 1 })) ∧
    (p.busy = false → 64 ≤ p.map.length →
      exec (.pcmdAdd v c) s = .next (s.modPart v.toNat fun p => { p with busy := false, result := 2 })) ∧
    (p.busy = false → p.en = true → p.map.length = 8 →
      exec (.pcmdRemove v) s = .next (s.modPart v.toNat fun p => { p with busy := false, result := 3 })) ∧
    (p.busy = false → p.map ≠ [] → ¬(p.en = true ∧ p.map.length = 8) →
      exec (.pcmdRemove v) s = .next (s.modPart v.toNat fun p => { p with busy := true, since := s.cycle })) ∧
    (p.busy = true → p.map.getLast? = some c → s.clusterDrained v.toNat c.toNat = true →
      (¬(p.en = true ∧ p.map.length = 8) →
        exec (.removeDrain v) s =
          .next ((s.leaveCluster v c).modPart v.toNat fun p => { p with busy := false, result := 0 })) ∧
      (p.en = true → p.map.length = 8 →
        exec (.removeDrain v) s = .next (s.modPart v.toNat fun p => { p with busy := false, result := 3 }))) ∧
    (p.busy = true → p.since + 1050000000 ≤ s.cycle → p.map.getLast? = some c →
      (s.clusterDrained v.toNat c.toNat = false →
        exec (.removeTimeout v) s = .next (s.modPart v.toNat fun p => { p with busy := false, result := 4 })) ∧
      (s.clusterDrained v.toNat c.toNat = true → exec (.removeTimeout v) s = .next s)) ∧
    exec (.bwcapWrite v x) s = .next (s.modPart v.toNat fun p => { p with bwcap := x &&& 0xFFFF }) ∧
    (p.lock = false → exec (.domainWrite v x true) s = .next (s.modPart v.toNat fun p => { p with domain := x.setWidth 16 })) ∧
    exec (.domainWrite v x false) s = .next s

/-- R376, R382: register writes of the two functions that have no row of their own. R383, R389: a virtual function
serves the host where the module is up, VF Enable is set, NumVFs is above its number and its partition is enabled; else
its registers read zero and ignore writes, and its memory answers Unsupported Request. That before the module is up the
physical function changes nothing and no virtual function serves is the model's choice (log entry 46). -/
def Obligations.HostRegisterWrites : Prop :=
  (∀ (s : State) (v : BitVec 6) (x : Word),
    (s.vfUsable v.toNat = true →
      exec (.registerWrite (.vf v 0x000) x) s = .next (s.modPart v.toNat fun p => { p with mbin := vset p.mbin 0 x }) ∧
      exec (.registerWrite (.vf v 0x118) x) s = .next (s.modPart v.toNat fun p => { p with nonce := vset p.nonce 3 x }) ∧
      exec (.registerWrite (.vf v 0x0B8) x) s = .next s) ∧
    (s.modl.up = true → exec (.registerWrite (.pf v 0x008) x) s = .next (s.modPart v.toNat fun p =>
      if p.lock then p else { p with ptbase := x &&& 0xFFFFFFF000 })) ∧
    (s.modl.up = true → exec (.registerWrite (.pf v 0x018) x) s = .next (s.modPart v.toNat fun p =>
      if p.lock then p else { p with fqcfg := x &&& 0xFFFFFFF00F })) ∧
    (s.modl.up = true →
      exec (.registerWrite .vfEnable x) s = .next (s.modMod fun m => { m with vfEnable := x.getLsbD 0 })) ∧
    (s.modl.up = false → ∀ off, exec (.registerWrite (.pf v off) x) s = .next s ∧
      exec (.registerWrite .numVfs x) s = .next s ∧ exec (.registerWrite .vfEnable x) s = .next s ∧
      exec (.pctlEnSet v) s = .next s) ∧
    (s.vfUsable v.toNat = true ↔ s.modl.up = true ∧ s.modl.vfEnable = true ∧ v.toNat < s.modl.numVfs.toNat ∧
      (s.part v.toNat).en = true) ∧
    (s.modl.up = true → x.toNat ≤ 64 → exec (.registerWrite .numVfs x) s = .next (s.modMod fun m => { m with numVfs := x }))) ∧
  (∀ (s : State) (v : BitVec 6) (x : Word) (off : BitVec 16) (a : BitVec 37) (bs : List Byte) (n : Nat),
    s.vfUsable v.toNat = false →
    s.vfRead v.toNat off.toNat = 0 ∧
    (∀ i, i = .mbin3Write v x ∨ i = .mbpop v x ∨ i = .fqconsWrite v x ∨ i = .isrWrite v x ∨ i = .lcut v x ∨ i = .xlinv v x ∨
      i = .attctlStart v x ∨ i = .registerWrite (.vf v off) x → exec i s = .next s) ∧
    exec (.hostBar2Write v a bs) s = .next (s.complete none) ∧ exec (.hostBar2Read v a n) s = .next (s.complete none))

/-- R389, R392 to R397: bring-up, scrubbing, repair, throttling and the thermal stop. A power-on puts everything at its
reset value, with the straps set; after a failed check the module is not up. The model's choices: the numbering of rows,
1 KiB each (log entry 17), that an uncorrectable word counts when it arises, not again when it is scrubbed (log entry
45), that a power-on keeps the schedule's own counters turns, turnNo, choice and nextId (log entry 3), and that it is
told whether the module had fallen silent, sinceSilent (log entry 42). -/
def Obligations.HealthEvents : Prop :=
  ∀ (s : State) (b : BringUp) (r : RepairOf) (w : Nat) (p : Place),
    let straps : Mod := { Mod.reset with
      pos := b.pos
      member := b.member
      spareUsed := b.spareUsed.zipIdx.map fun e => (e.2, min 4 e.1)
      sinceSilent := b.returning }
    let fresh (m : Mod) : State := { State.reset with
      turns := s.turns
      turnNo := s.turnNo
      choice := s.choice
      nextId := s.nextId
      modl := m }
    (b.verified = true →
      exec (.powerOn b) s = .next (fresh { straps with up := true, links := b.lanes.map trainedDir })) ∧
    (b.verified = false → exec (.powerOn b) s = .next (fresh { straps with bootFailed := true })) ∧
    (Place.hbm w ∈ s.modl.bad → exec (.scrub (.hbm w)) s = .next (s.schedule (.row (rowOfWordNo w)))) ∧
    (p ∉ s.modl.bad → exec (.scrub p) s = .next s) ∧
    (r ∈ s.modl.repairs → s.mayRepair (repairCluster r) = true → s.spareLeft r = true →
      exec (.repair r) s =
        .next (((s.performRepair r).modMod fun m => { m with repairs := m.repairs.filter (· != r) }).settleOwner
          (repairCluster r))) ∧
    (r ∈ s.modl.repairs → s.mayRepair (repairCluster r) = true → s.spareLeft r = false →
      ∃ u, exec (.repair r) s = .next u ∧ r ∈ u.modl.reports) ∧
    (s.mayRepair (repairCluster r) = false → exec (.repair r) s = .next s) ∧
    exec .throttle s = .next (s.setThrottle true) ∧ exec .throttleEnd s = .next (s.setThrottle false) ∧
    exec .thermalStop s = .next (s.modMod fun m => { m with stopped := true })

/-- R52, R64, R70, R72, R74, R75, R193, R197, R325, R398: what keeps a bundle from issuing. A word that no opcode map
assigns raises INVALID_ENCODING at its PC; the slot of an unassigned opcode stands in the model as that of a NOP (log
entry 48). A fetch that fails raises its cause with the address of the word that could not be read, with FETCH set and
the bit of the slot whose word it is. And when the next bundle of an agent stalls, and what the stall leaves: a bundle
whose fetch, framing or decoding faults, that raises PRIVILEGE, whose stage predicate is 0, that drains before a TRET or
that finds an empty queue does not stall. One that acts stalls on an empty stream; then where a slot waits, with the
requests of its slots made, whatever the others find (the model's choice, log entry 66); then, its checks passed, for
the cycles of its bank conflict (log entry 22). -/
def Obligations.RefusedAndStalledBundles : Prop :=
  (∀ (s : State) (w : BitVec 32) (e : Reject) (c : BitVec 8) (a : Word),
      (decodeSlot w = .error e → Ready .nop s →
        exec (.unassignedOpcode w) s =
          .next (s.aloneBundle.takeTrap s.thread.bank.pc ⟨0x02, s.thread.bank.pc, 1#8 <<< s.iss.pos, false, false, false⟩)) ∧
      (s.fetchWords s.thread.bank.pc 8 = .error (c, a) →
        exec .fetchFault s =
          .next ((s.modIss fun k => { k with pc := s.thread.bank.pc, nextPc := s.thread.bank.pc, cost := 0 }).takeTrap
            s.thread.bank.pc
            ⟨c, a, 1#8 <<< ((a - s.thread.bank.pc).toNat / 4), false, true, false⟩))) ∧
  ∀ (s : State) (is : List Instr) (next : Word),
    let pc := s.thread.bank.pc
    let b := s.modIss fun k => { k with pc := pc, nextPc := next }
    let w := b.forChecks is
    let vs := is.zipIdx.map fun x => w.slotVerdict x.2 x.1
    let drains := Instr.tret ∈ is ∧ b.thread.lvl ≠ .tl0 ∧ ¬(b.thread.bank.pend = [] ∧ b.thread.bank.loads = [])
    (∀ f, s.bundleAt pc = .error f → s.stallNext = none) ∧
    (s.bundleAt pc = .ok (is, next) →
      ((∃ f, b.levelCheck is = .trap f) ∨ drains ∨ b.active is = false ∨ (∃ f, b.queueCheck is = .trap f) →
        s.stallNext = none) ∧
      (b.levelCheck is = .go → ¬drains → b.active is = true →
        (∀ q, b.queueCheck is = .wait q → s.stallNext = some b.stall) ∧
        (b.queueCheck is = .go →
          ((∃ v ∈ vs, v.waits = true) → s.stallNext = some (vs.foldl State.registerOf b).stall) ∧
          ((∀ v ∈ vs, v.waits = false) → (firstTrap vs).isSome = true → s.stallNext = none) ∧
          ((∀ v ∈ vs, v = .go) → b.onTile = true → b.cur.served < w.bankStall is →
            s.stallNext = some (b.modCur fun x => { x with served := x.served + 1 }).stall) ∧
          ((∀ v ∈ vs, v = .go) → (b.onTile = false ∨ w.bankStall is ≤ b.cur.served) → s.stallNext = none))))


/-- R64, R65, R70, R72, R113, R117, R140, R197, R273, R324, R325, R398: a turn of a tile or of a context that runs. A
late answer stalls it; else what is due lands, and at TL0 a pending count-mode event traps first. A bundle of the holder
of an array that has not given it back stalls before the perform points of its cycle; when it issues they stand
immediately before it. Then the bundle at the PC: the fault that its fetch, framing or decoding raises is taken, then
PRIVILEGE, whatever the stage predicate. A TRET at TL1 or TL2 issues empty bundles until every result and delayed write
of its level has been performed. A bundle whose stage predicate is 0 ends without effect. In one that acts an empty
queue raises QUEUE_EMPTY, or stalls the bundle where the stream is bound; a slot that waits stalls it with the requests
made; the first fault of the slots' own checks is taken; a bank conflict stalls; and where nothing is found each slot
commits by `exec` and the bundle ends. With one instruction and three NOPs the step is exactly the commit of that
instruction and the end of its bundle. The model's choices: the order in which the slots of a bundle commit (log entry
11), the cycles of a bank conflict (log entry 22), that a slot's wait stands before the faults that other slots' own
checks find (log entry 66). -/
def Obligations.StepRunsTheBundle : Prop :=
  ∀ (s : State) (a : Agent) (r : List Turn) (is : List Instr) (next : Word),
    s.turns = .agent a :: r → s.modl.stopped = false →
    let m := ({ s with turns := r, turnNo := s.turnNo + 1 } : State).begin_ a
    let v := m.land a
    let u := if v.arrayHeld a then v.landPoints a else v
    let goes (u : State) : Prop :=
      ∀ t, a = .tile t → (u.tile t.toNat).run = .running ∧ (u.tile t.toNat).lateTrap = none
    let pc := u.thread.bank.pc
    let b := u.modIss fun k => { k with pc := pc, nextPc := next }
    let c := b.modCur fun x => { x with served := 0 }
    let w := b.forChecks is
    let vs := is.zipIdx.map fun x => w.slotVerdict x.2 x.1
    let drains := Instr.tret ∈ is ∧ b.thread.lvl ≠ .tl0 ∧ ¬(b.thread.bank.pend = [] ∧ b.thread.bank.loads = [])
    (match a with
      | .tile t => (s.tile t.toNat).run = .running ∧ (m.tile t.toNat).run = .running
      | .seq q => (s.seqCtx q.toNat).running = true ∧ (s.seqCtx q.toNat).ending = none) →
    (m.thread.late = true → step s = .next m.stall) ∧
    (m.thread.late = false →
      (∀ t f x, a = .tile t → (v.tile t.toNat).run = .running → (v.tile t.toNat).lateTrap = some (f, x) →
        step s = .next ((v.modCur fun _ => x).takeTrap v.thread.bank.pc f)) ∧
      (∀ z, goes v → v.arrayHeld a = true → v.stallNext = some z → step s = .next z) ∧
      (∀ t f x, a = .tile t → goes v → v.arrayHeld a = true → v.stallNext = none → (u.tile t.toNat).run = .running →
        (u.tile t.toNat).lateTrap = some (f, x) → step s = .next ((u.modCur fun _ => x).takeTrap pc f)) ∧
      (goes v → (v.arrayHeld a = true → v.stallNext = none) → goes u →
        (∀ f, u.bundleAt pc = .error f →
          step s = .next ((u.modIss fun k => { k with pc := pc, nextPc := pc }).takeTrap pc f)) ∧
        (u.bundleAt pc = .ok (is, next) →
          (∀ f, b.levelCheck is = .trap f → step s = .next (b.takeTrap pc f)) ∧
          (b.levelCheck is = .go → drains → step s = .next (b.emptyBundle a)) ∧
          (b.levelCheck is = .go → ¬drains →
            (b.active is = false → step s = .next b.finishBundle) ∧
            (∀ f, b.active is = true → b.queueCheck is = .trap f → step s = .next (b.takeTrap pc f)) ∧
            (∀ q, b.active is = true → b.queueCheck is = .wait q → step s = .next b.stall) ∧
            (b.active is = true → b.queueCheck is = .go →
              ((∃ v ∈ vs, v.waits = true) → step s = .next (vs.foldl State.registerOf b).stall) ∧
              (∀ f, (∀ v ∈ vs, v.waits = false) → firstTrap vs = some f → step s = .next (b.takeTrap pc f)) ∧
              ((∀ v ∈ vs, v = .go) → b.onTile = true → b.cur.served < w.bankStall is →
                step s = .next (b.modCur fun x => { x with served := x.served + 1 }).stall) ∧
              ((∀ v ∈ vs, v = .go) → (b.onTile = false ∨ w.bankStall is ≤ b.cur.served) →
                step s = .next (c.commitAll is).finishBundle ∧
                ∀ i t, is = [i, .nop, .nop, .nop] →
                  exec i (c.modIss fun k => { k with phase := .commit, pos := 0 }) = .next t →
                  step s = .next (t.modIss fun k => { k with phase := .commit, pos := 3 }).finishBundle))))))

/-- What a step can answer: every instruction answers a next state, so a step never refuses and faults only of a module
that Lovage has stopped (R397), unless the step is a power-on: the fault of its own name is the model's choice (log
entry 47); the turn of an event runs that event. -/
def Obligations.StepsAndEvents : Prop :=
  (∀ (i : Instr) (s : State), ∃ t, exec i s = .next t) ∧
  (∀ s : State, step s = .fault .moduleStopped ↔ s.modl.stopped = true ∧ Turn.wakes s.nextTurn.1 = false) ∧
  (∀ s : State, s.modl.stopped = false → ∃ t, step s = .next t) ∧
  ∀ (s : State) (i : Instr) (r : List Turn), s.turns = .event i :: r → Instr.isEvent i = true → s.modl.stopped = false →
    step s = exec i { s with turns := r, turnNo := s.turnNo + 1 }

/-- R301, R318 to R323: where a trap of a tile goes, what entry saves and what it leaves: the interrupted level stands
as it was, the registers of the other level are not written, the handler runs from HBASE after four stall cycles with
every latch zero, and an array that ran on while its holder waited in an MLEASE stops with it (R140); FP_INVALID leaves
the sticky IV (R30). ECC_UNCORRECTABLE and a trap without a handler kill the context. A sequencer context stops, its
loop stack empty. The model's choices: an HBASE of 1 to 3 is a handler, at PC 0 (log entry 77), the loop stack of the
stopped context (log entry 34), and that the stall of the bundle that trapped adds to the entry's (log entry 71). -/
def Obligations.TrapEntry : Prop :=
  ∀ (s : State) (t : BitVec 11) (epc : Word) (f : FaultInfo), s.iss.agent = .tile t →
    let x := s.tile t.toNat
    let w := s.takeTrap epc f
    let y := w.tile t.toNat
    let saved (q : TrapRegs) : Prop :=
      q.epc = epc ∧ q.cause = f.cause.setWidth 64 ∧ q.addr = f.addr ∧ q.qcap = x.q0.headD 0 ∧
        q.stat.extractLsb' 17 2 = BitVec.ofNat 2 x.th.lvl.num ∧ q.stat.getLsbD 16 = f.late ∧
        q.stat.extractLsb' 8 8 = f.slots ∧ q.stat.getLsbD 1 = f.wr ∧ q.stat.getLsbD 0 = f.fetch
    let enters : Prop :=
      (∀ k, (vget y.th.bank.lat k).val = 0) ∧ y.th.bankAt x.th.lvl = x.th.bankAt x.th.lvl ∧ y.th.s = x.th.s ∧
        y.so = x.so ∧ y.th.ps = x.th.ps ∧ y.th.loops = x.th.loops ∧ y.th.li = x.th.li ∧
        y.th.fpctl = (if f.cause = 0x11 then x.th.fpctl ||| 0x10 else x.th.fpctl) ∧ y.th.readyAt = s.cycle + 5 + s.iss.cost ∧
        ((s.cluster (t.toNat / 4)).arr.holder = some (BitVec.ofNat 2 t.toNat) →
          (w.cluster (t.toNat / 4)).arr = { (s.cluster (t.toNat / 4)).arr with free := false }) ∧
        y.run = x.run ∧ y.t = x.t ∧ y.acc = x.acc ∧ y.spad = x.spad ∧ w.hbm = s.hbm ∧
        ∀ j, j ≠ t.toNat → w.tile j = s.tile j
    let killed : Prop :=
      x.alive = true → y.run = .stopped ∧ (w.part x.part.toNat).halt = true
    (f.cause ≠ 0x12 → x.th.lvl = .tl0 → x.th.tr1.hbase ≠ 0 →
      y.th.lvl = .tl1 ∧ y.th.bank.pc = x.th.tr1.hbase &&& ~~~3 ∧ saved y.th.tr1 ∧ y.th.tr2 = x.th.tr2 ∧ enters) ∧
    (f.cause ≠ 0x12 → x.th.lvl = .tl0 → x.th.tr1.hbase = 0 → x.th.tr2.hbase ≠ 0 →
      y.th.lvl = .tl2 ∧ y.th.bank.pc = x.th.tr2.hbase &&& ~~~3 ∧ saved y.th.tr2 ∧ y.th.tr1 = x.th.tr1 ∧ enters) ∧
    (f.cause ≠ 0x12 → x.th.lvl = .tl1 → x.th.tr2.hbase ≠ 0 →
      y.th.lvl = .tl2 ∧ y.th.bank.pc = x.th.tr2.hbase &&& ~~~3 ∧ saved y.th.tr2 ∧ y.th.tr1 = x.th.tr1 ∧ enters) ∧
    (f.cause = 0x12 → killed) ∧
    (x.th.lvl = .tl0 → x.th.tr1.hbase = 0 → x.th.tr2.hbase = 0 → killed) ∧
    (x.th.lvl = .tl1 → x.th.tr2.hbase = 0 → killed) ∧ (x.th.lvl = .tl2 → killed) ∧
    ∀ (z : State) (q : BitVec 6), z.iss.agent = .seq q →
      ((z.takeTrap epc f).seqCtx q.toNat).running = false ∧ ((z.takeTrap epc f).seqCtx q.toNat).th.loops = []

/-- R116, R319, R325: TRET at level M goes to level M - 1 at EPC with its low bits ignored; the results of that level
stand where they were, and its latches read zero but one that landed at exactly the resumed cycle. A trap to TL1 and the
TRET of an untouched handler give back every register of the interrupted level. -/
def Obligations.TrapReturn : Prop :=
  ∀ (t : Thread) (epc : Word) (f : FaultInfo) (q : Word),
    (t.lvl = .tl1 → t.tret.lvl = .tl0 ∧ t.tret.bank.pc = t.tr1.epc &&& ~~~3 ∧ t.tret.bank.pend = t.b0.pend ∧
      t.tret.bank.n = t.b0.n ∧ (∀ k < 8, vget t.tret.bank.lat k =
        if (vget t.b0.lat k).landed = t.b0.n then vget t.b0.lat k else ⟨0, 0⟩)) ∧
    (t.lvl = .tl2 → t.tret.lvl = .tl1 ∧ t.tret.bank.pc = t.tr2.epc &&& ~~~3 ∧ t.tret.bank.pend = t.b1.pend ∧
      t.tret.bank.n = t.b1.n ∧ (∀ k < 8, vget t.tret.bank.lat k =
        if (vget t.b1.lat k).landed = t.b1.n then vget t.b1.lat k else ⟨0, 0⟩)) ∧
    (t.lvl = .tl0 →
      let w := (t.enter .tl1 epc f q).tret
      w.lvl = .tl0 ∧ w.bank.pc = epc &&& ~~~3 ∧ (∀ i, w.getS i = t.getS i) ∧ (∀ i, w.getP i = t.getP i) ∧
        w.ps = t.ps ∧ w.loops = t.loops ∧ w.li = t.li ∧ w.fpctl = t.fpctl ∧ w.bank.sb = t.bank.sb ∧
        w.bank.pend = t.bank.pend ∧ w.bank.loads = t.bank.loads ∧ w.bank.n = t.bank.n ∧ w.tr2 = t.tr2)

/-- R66, R67, R68: a result is on its way to its latch at the latency and, unless N is 1, to its destination one issue
cycle later; what is not due stays and changes nothing; what is due lands; of two results for one scalar that land
together the one of the later bundle stands. -/
def Obligations.ResultsLand : Prop :=
  (∀ (s : State) (lat : Nat) (n : Bool) (v : Row) (d : Act),
    (s.result lat n v d).thread.bank.pend =
      s.thread.bank.pend ++ ⟨s.now + lat, s.thread.bundles, .latch s.iss.pos v⟩ ::
        if n then [] else [⟨s.now + lat + 1, s.thread.bundles, d⟩]) ∧
  ∀ (s : State) (a : Agent) (due due' seq seq' k : Nat) (i j : BitVec 5) (v w : Word) (x : Row), s.arrayOf a = none →
    let t := s.threadOf a
    let u := (s.land a).threadOf a
    ((∀ p ∈ t.bank.pend, t.bank.n < p.due) → u = t) ∧
    (t.bank.pend = [⟨due, seq, .latch k x⟩] → due ≤ t.bank.n → k < 8 →
      (vget u.bank.lat k).val = x ∧ (vget u.bank.lat k).landed = t.bank.n ∧ u.bank.pend = [] ∧
        (∀ j, j ≠ k → vget u.bank.lat j = vget t.bank.lat j) ∧ ∀ i, u.getS i = t.getS i) ∧
    (t.bank.pend = [⟨due, seq, .sreg i v⟩] → due ≤ t.bank.n →
      u.getS i = v ∧ (j ≠ i → u.getS j = t.getS j) ∧ u.bank.lat = t.bank.lat ∧ u.bank.pend = []) ∧
    (t.bank.pend = [⟨due, seq, .sreg i v⟩, ⟨due', seq', .sreg i w⟩] → due ≤ t.bank.n → due' ≤ t.bank.n →
      u.getS i = if seq ≤ seq' then w else v)

/-- R10, R66, R134, R198: the frame of the slots of the units SI, SF and VR at commit. Those whose only effect is a
result change nothing but the marks of their bundle and the delayed writes of the issuing level, of which they add some
that are not due in their own cycle; VLD and VLDS likewise (and the model's own count of choices, log entry 7); VST and
VSTS add writes to the end of their bundle and change nothing else. -/
def Obligations.ResultSlotsOnlyPush : Prop :=
  ∀ (i : Instr) (s t : State), resultSlot i = true → s.iss.phase = .commit → exec i s = .next t →
    (rowStore i = false →
      t = { s with iss := t.iss, tiles := t.tiles, seqs := t.seqs, choice := t.choice } ∧
      (rowLoad i = false → t.choice = s.choice) ∧
      t.iss = { s.iss with incs := t.iss.incs, pops := t.iss.pops } ∧
      (∀ k, t.tile k = { s.tile k with th := (t.tile k).th }) ∧
      (∀ q, t.seqCtx q = { s.seqCtx q with th := (t.seqCtx q).th }) ∧
      (∀ a, a ≠ s.iss.agent → t.threadOf a = s.threadOf a) ∧
      ∃ new, t.thread = s.thread.modBank (fun b => { b with pend := b.pend ++ new }) ∧ ∀ p ∈ new, s.now < p.due) ∧
    (rowStore i = true → t = { s with iss := t.iss } ∧
      ∃ ws, t.iss = { s.iss with incs := t.iss.incs, pops := t.iss.pops, writes := s.iss.writes ++ ws } ∧
        ∀ x ∈ ws, x.pos = s.iss.pos)

/-- The frame of a tile's bundle end that neither traps, returns, steps nor ends: of the tile the marked queues and
cursors advance, of its thread the PC, the issue cycle, ISSUE and the loop state, of its cluster the age of the array it
runs; nothing else changes (R62, R63, R70, R140). -/
def EndsPlainly (s : State) (t : BitVec 11) : Prop :=
  let x := s.tile t.toNat
  let w := s.finishBundle
  let y := w.tile t.toNat
  w = { s with tiles := w.tiles, clusters := w.clusters } ∧ (∀ k, k ≠ t.toNat → w.tile k = s.tile k) ∧
    (∀ c, w.cluster c = s.cluster c ∨
      c = t.toNat / 4 ∧ w.cluster c = { s.cluster c with arr := { (s.cluster c).arr with age := (s.cluster c).arr.age + 1 } }) ∧
    y = { x with
      th := y.th
      cur := y.cur
      q0 := x.q0.drop (vget s.iss.pops 0)
      q1 := x.q1.drop (vget s.iss.pops 1)
      q2 := x.q2.drop (vget s.iss.pops 2)
      q3 := x.q3.drop (vget s.iss.pops 3) } ∧
    (∀ g < 8, vget y.cur g = if s.iss.incs.getLsbD g then vget x.cur g + 1 else vget x.cur g) ∧
    y.th = { x.th.modBank (fun b => { b with pc := y.th.bank.pc, n := b.n + 1 }) with
      loops := y.th.loops
      li := y.th.li
      ps := y.th.ps
      issue := x.th.issue + 1
      bundles := x.th.bundles + 1
      readyAt := s.cycle + 1 + s.iss.cost }

/-- R62, R63, R70, R94, R100, R140: the end of a tile's bundle without scratchpad writes. Where it neither traps,
returns, steps nor ends, then of the tile the marked queues and cursors advance; of its thread, the PC, the issue cycle,
ISSUE and the loop state; of its cluster, the age of the array it runs; nothing else changes. That ISSUE advances by 1
at every trap level is the model's choice (log entry 12). A taken branch goes on at its target and tests no back edge;
else, where no loop is on the stack or the tile is in a handler, execution goes on at NEXTPC. A STEP ends its bundle as
one without control does, and parks the tile where a cut is pending whose target is unknown or reached (R106, R331). A
TRAP makes the back-edge test, freezes the level and takes trap 0x80 + n with EPC where execution would go on and ADDR
the bundle's PC (R115). A TRET goes back to the level below (R116), with what TrapReturn says. An END ends the tile, its
loop stack empty, as TILE_FREE finds it, and gives a held lease back (R107); the END of a context begins its wait
(R304). -/
def Obligations.BundleEnds : Prop :=
  (∀ (s : State) (t : BitVec 11), s.iss.agent = .tile t → s.iss.writes = [] → (s.tile t.toNat).run ≠ .stopped →
    let c := t.toNat / 4
    let x := s.tile t.toNat
    let w := s.finishBundle
    let y := w.tile t.toNat
    let end_ (k : Control) : State :=
      (s.modIss fun i => { i with control := k }).finishBundle.modIss fun i => { i with control := s.iss.control }
    let cut := (s.lslot x.part.toNat x.slot.toNat).cut
    let parks := x.cutPending = true ∧ ∀ m b, cut = some ⟨some m, b⟩ → m ≤ x.stepCnt
    (s.iss.control = .none ∨ s.iss.control = .refetch ∨ (∃ pc, s.iss.control = .jump pc) → EndsPlainly s t) ∧
    (∀ pc, s.iss.control = .jump pc →
      y.th.bank.pc = pc ∧ y.th.loops = x.th.loops ∧ y.th.li = x.th.li ∧ y.th.ps = x.th.ps) ∧
    (s.iss.control = .none ∨ s.iss.control = .refetch → x.th.lvl ≠ .tl0 ∨ x.th.loops = [] →
      y.th.bank.pc = s.iss.nextPc ∧ y.th.loops = x.th.loops ∧ y.th.li = x.th.li ∧ y.th.ps = x.th.ps) ∧
    (s.iss.control = .refetch → w = end_ .none) ∧
    (s.iss.control = .step →
      (parks → w = (end_ .none).modTile t.toNat fun x => { x with run := .parked, reported := false }) ∧
      (¬parks → w = end_ .none)) ∧
    (∀ n pos, s.iss.control = .trap n pos →
      w = ((end_ .none).freeze (.tile t)).takeTrap ((end_ .none).tile t.toNat).th.bank.pc
        ⟨0x80 + n.setWidth 8, s.iss.pc, 1#8 <<< pos, false, false, false⟩) ∧
    (s.iss.control = .tret → w = (end_ (.jump s.iss.nextPc)).modTile t.toNat fun x => { x with th := x.th.tret }) ∧
    (s.iss.control = .end_ →
      let u := ((end_ (.jump s.iss.nextPc)).modTile t.toNat fun x => { x with
        run := .ended, hasEnded := true, th := { x.th with loops := [], li := Vector.replicate 6 0 } }).rankEnd t.toNat
      ((u.cluster c).arr.holder ≠ some (BitVec.ofNat 2 t.toNat) → w = u) ∧
      ((u.cluster c).arr.holder = some (BitVec.ofNat 2 t.toNat) →
        w = (u.modArr c fun m => { m with spent := true, free := true }).endRun c))) ∧
  ∀ (s : State) (q : BitVec 6), s.iss.agent = .seq q → s.iss.writes = [] → s.iss.control = .end_ →
    let x := s.seqCtx q.toNat
    s.finishBundle = s.modSeq q.toNat fun y => { y with
      ending := some s.iss.pc
      th := { x.th.modBank (fun b => { b with pc := s.iss.nextPc, n := b.n + 1 }) with
        loops := []
        li := Vector.replicate 6 0
        issue := x.th.issue + 1
        bundles := x.th.bundles + 1
        readyAt := s.cycle + 1 + s.iss.cost } }
/-- R98, R100: the back edge of a bundle of a tile at TL0 that redirects nothing. A bundle that does not end the top
loop goes on behind it. At the end of a LOOP a trip that is left starts, whether or not a cut is pending; else the loop
ends. At the end of a LOOPP every stage takes the predicate of the one below, stage 0 an iteration that is left and that
no pending cut holds back; the loop ends once no stage runs and no iteration is left, and gives the stage predicates
around it back. The loop index counts each back edge. Where a loop ends, its index reads 0, and the bundle ends as it
would with the loops below alone: the new top is tested against the same PC. -/
def Obligations.BackEdges : Prop :=
  ∀ (s : State) (t : BitVec 11) (e : LoopEntry) (r : List LoopEntry),
    s.iss.agent = .tile t → s.iss.control = .none → s.iss.writes = [] → (s.tile t.toNat).run ≠ .stopped →
    (s.tile t.toNat).th.lvl = .tl0 → (s.tile t.toNat).th.loops = e :: r → r.length < 6 →
    let x := s.tile t.toNat
    let th := (s.finishBundle.tile t.toNat).th
    let k := r.length
    let trip (rem : BitVec 32) : Prop :=
      th.bank.pc = e.start ∧ th.loops = { e with rem := rem } :: r ∧ vget th.li k = vget x.th.li k + 1 ∧
        ∀ j, j ≠ k → vget th.li j = vget x.th.li j
    let ends (ps : BitVec 8) : Prop :=
      th = ((s.modTile t.toNat fun x => { x with th := { x.th with
        loops := r, li := vset x.th.li k 0, ps := ps } }).finishBundle.tile t.toNat).th
    let more := e.rem ≠ 0 ∧ x.cutPending = false
    let drained := e.rem = 0 ∧ ∀ j < e.stages.toNat, x.th.ps.getLsbD j = false
    (e.endPc ≠ s.iss.pc →
      th.bank.pc = s.iss.nextPc ∧ th.loops = x.th.loops ∧ th.li = x.th.li ∧ th.ps = x.th.ps) ∧
    (e.endPc = s.iss.pc → e.pipelined = false →
      (e.rem ≠ 0 → trip (e.rem - 1) ∧ th.ps = x.th.ps) ∧ (e.rem = 0 → ends x.th.ps)) ∧
    (e.endPc = s.iss.pc → e.pipelined = true →
      (drained → ends e.saved) ∧
      (¬drained → (more → trip (e.rem - 1)) ∧ (¬more → trip e.rem) ∧
        ∀ j < 8, (th.ps.getLsbD j = true ↔
          if j = 0 then more else x.th.ps.getLsbD (if j ≤ e.stages.toNat then j - 1 else j) = true)))

/-- The model's form of memory (its choice, log entry 2): canonical memories are equal where they read alike, so writes
commute where they do not meet and a write that another covers leaves no trace; a write of the byte that an unlisted
address reads as lists nothing. -/
def Obligations.CanonicalMemories : Prop :=
  ∀ (m n : Memory) (a b : Nat) (xs ys : List Byte), Memory.wf m = true → Memory.wf n = true →
    ((∀ x, readByte m x = readByte n x) → m = n) ∧
    (a + xs.length ≤ b → writeBytes (writeBytes m a xs) b ys = writeBytes (writeBytes m b ys) a xs) ∧
    (xs.length = ys.length → writeBytes (writeBytes m a xs) a ys = writeBytes m a ys) ∧
    (∀ e ∈ writeBytes m a [0], e.1 ≠ a)

/-- R134, R195, R208, R209: the frame of a store. A store of a tile to its scratchpad changes exactly the bytes at the
computed address in the view it names, after its bundle; a store to the slice changes no byte of memory but queues a
posted write, and the posted write changes exactly its bytes when it performs. R132, R133: VST changes the 512 bytes of
its row, VSTS the four bytes of each of its elements, where elements meet the highest one stands. R300: a store of a
sequencer context to its command memory changes exactly its bytes, at once, and one to a slice queues a posted write. No
register changes. A scratchpad store with a load of its tile outstanding, or one that took a posted store's bytes, is
not meant here: that load performs with it (R274). -/
def Obligations.StoreFrame : Prop :=
  (∀ (s w : State) (i : Instr) (t : BitVec 11) (size : Nat) (addr v : State → Word),
    stores i = some (size, addr, v) → s.iss.agent = .tile t → Ready i s → (s.tile t.toNat).run = .running →
    let b := s.aloneBundle
    ((addr b).toNat ≤ 0x6FFFFF → (s.tile t.toNat).th.unperformed = [] ∧ ∀ p ∈ (s.tile t.toNat).th.posts, p.took = none) →
    b.accessCheck (addr b) size rW true = .go → exec i s = .next w →
    let x := s.tile t.toNat
    let y := w.tile t.toNat
    let at_ (j : Nat) : Nat := linOf (spadView (addr b).toNat).1 ((spadView (addr b).toNat).2 + j)
    ((addr b).toNat ≤ 0x6FFFFF →
      (∀ j < size, readByte y.spad (at_ j) = (v b).extractLsb' (8 * j) 8) ∧
      (∀ z, (∀ j < size, z ≠ at_ j) → readByte y.spad z = readByte x.spad z) ∧ y.th.posts = x.th.posts) ∧
    (0x6FFFFF < (addr b).toNat →
      y.spad = x.spad ∧ ∃ id pa g, b.translate (t.toNat / 4) ((addr b).toNat - 0x100000000) rW = .ok (pa, g) ∧
        y.th.posts = x.th.posts ++ [⟨id, pa, scopeOf (.tile t) pa, .store (leBytes size (v b).toNat), none⟩]) ∧
    StoreLeaves s w t) ∧
  (∀ (s w : State) (t : BitVec 11) (d : VDn) (a b : SOp) (i : BitVec 7),
    s.iss.agent = .tile t → (s.tile t.toNat).run = .running → (s.tile t.toNat).th.unperformed = [] →
    (∀ p ∈ (s.tile t.toNat).th.posts, p.took = none) →
    let x := s.tile t.toNat
    let y := w.tile t.toNat
    let u := s.aloneBundle
    let row := u.readV .int32 d.op
    let at_ (e : Word) (j : Nat) : Nat := linOf (spadView e.toNat).1 ((spadView e.toNat).2 + j)
    let el (k : Nat) : Word := (strideAddrs (u.readS a) (u.readS b)).getD k 0
    (Ready (.vst d a i) s → u.vldCheck (u.rowAddr a i) true = .go → exec (.vst d a i) s = .next w →
      (∀ j < 512, readByte y.spad (at_ (u.rowAddr a i) j) = row.extractLsb' (8 * j) 8) ∧
      (∀ z, (∀ j < 512, z ≠ at_ (u.rowAddr a i) j) → readByte y.spad z = readByte x.spad z) ∧
      y.th.posts = x.th.posts ∧ StoreLeaves s w t) ∧
    (Ready (.vsts d a b) s → u.vldsCheck true (strideAddrs (u.readS a) (u.readS b)) = .go → exec (.vsts d a b) s = .next w →
      (∀ k < 128, ∀ j < 4, (∀ k' < 128, k < k' → ∀ j' < 4, at_ (el k') j' ≠ at_ (el k) j) →
        readByte y.spad (at_ (el k) j) = row.extractLsb' (32 * k + 8 * j) 8) ∧
      (∀ z, (∀ k < 128, ∀ j < 4, z ≠ at_ (el k) j) → readByte y.spad z = readByte x.spad z) ∧
      y.th.posts = x.th.posts ∧ StoreLeaves s w t)) ∧
  (∀ (s w : State) (i : Instr) (q : BitVec 6) (size : Nat) (addr v : State → Word),
    stores i = some (size, addr, v) → s.iss.agent = .seq q → Ready i s →
    let b := s.aloneBundle
    b.accessCheck (addr b) size rW true = .go → exec i s = .next w →
    let x := s.seqCtx q.toNat
    let y := w.seqCtx q.toNat
    ((addr b).toNat < 0x20000 →
      (∀ z, readByte y.cmd z = if (addr b).toNat ≤ z ∧ z < (addr b).toNat + size then
        (v b).extractLsb' (8 * (z - (addr b).toNat)) 8 else readByte x.cmd z) ∧ y.th.posts = x.th.posts) ∧
    (0x20000 ≤ (addr b).toNat →
      y.cmd = x.cmd ∧ ∃ id c o pa g, b.seqTarget q.toNat (addr b).toNat size = .ok (.hbm c o) ∧
        b.translate c o rW = .ok (pa, g) ∧
        y.th.posts = x.th.posts ++ [⟨id, pa, scopeOf (.seq q) pa, .store (leBytes size (v b).toNat), none⟩]) ∧
    w.hbm = s.hbm ∧ w.tiles = s.tiles ∧ w.clusters = s.clusters ∧ (∀ k, k ≠ q.toNat → w.seqCtx k = s.seqCtx k) ∧
    (∀ k, y.th.getS k = x.th.getS k) ∧ y.th.fpctl = x.th.fpctl ∧ y.slots = x.slots) ∧
  ∀ (s : State) (a : Agent) (k : Nat) (p : Post) (bs : List Byte),
    (s.threadOf a).posts.find? (fun q => q.id == k) = some p → (s.threadOf a).mayApply p = true → p.op = .store bs →
    ∃ w, exec (.atomicUnitApply a k) s = .next w ∧
      (∀ z, readByte w.hbm z = if p.pa ≤ z ∧ z < p.pa + bs.length then bs.getD (z - p.pa) 0 else readByte s.hbm z) ∧
      ∀ j, (w.tile j).spad = (s.tile j).spad

/-- R196: the byte at swizzled offset y is the byte at linear offset x: its bits, that the function is its own inverse
and stays within an aligned 1024-byte block and within a granule; a byte written through one view is read through the
other at the swizzled offset; a row lies in eight banks in either view, a column with a stride of 1024 bytes in one bank
of the linear view and in sixteen of the swizzled view. -/
def Obligations.SwizzleFunction : Prop :=
  (∀ y < 2 ^ 22,
    swizzle y / 2 ^ 10 = y / 2 ^ 10 ∧ swizzle y / 2 ^ 6 % 16 = (y / 2 ^ 6 % 16) ^^^ (y / 2 ^ 10 % 16) ∧
      swizzle y % 64 = y % 64 ∧ swizzle (swizzle y) = y) ∧
  (∀ (x : Tile) (swz : Bool) (b : Byte), ∀ y < 2 ^ 22,
    (x.putPiece swz y [b]).spadBytes (!swz) (swizzle y) 1 = [b]) ∧
  (∀ y swz, y % 512 = 0 → ((List.range 8).map fun k => bankOf (linOf swz (y + 64 * k) / 64)).Nodup) ∧
  ∀ y k, y % 16384 + 1024 * k < 16384 →
    bankOf (linOf false (y + 1024 * k) / 64) = bankOf (linOf false y / 64) ∧
      ∀ j, j ≠ k → y % 16384 + 1024 * j < 16384 → bankOf (linOf true (y + 1024 * j) / 64) ≠ bankOf (linOf true (y + 1024 * k) / 64)

/-- R108: the only words of NOP are 0x1800_0000 and 0x9800_0000; NOP has no effect: no result, no latch and no memory
changes. -/
def Obligations.NopWords : Prop :=
  (∀ w : BitVec 32, decodeSlot w = .ok .nop ↔ w = 0x18000000 ∨ w = 0x98000000) ∧
  ∀ s t : State, s.iss.phase = .commit → exec .nop s = .next t →
    t = { s with iss := t.iss } ∧ t.iss = { s.iss with pops := t.iss.pops } ∧ ∀ q < 4, vget t.iss.pops q = vget s.iss.pops q

/-- Words that the spec writes out decode to the instructions it writes beside them: words of the units VR to CF and the
NOP, a header, a dictionary slot and the expansion of a template. -/
def Obligations.WrittenWords : Prop :=
  (∀ e ∈ ([(0x10410103, .ldW false 4 (.reg 2) 3), (0x14418000, .halloc false 6), (0x14624300, .hwaitR false 9 (.reg 6)),
      (0x12100000, .vjoin), (0x0C000000, .mlease), (0x0C100000, .mrel),
      (0x0C210004, .mmaBf16 4 (.row 0 0 false) (.row 1 0 false)),
      (0x0C800818, .mmcE2m1Cb0 0 (.row 4 0 false) (.row 6 0 false)), (0x0D000280, .cfoldCb0 (.reg 5)),
      (0x16804205, .dload true (.reg 4) (.reg 5)), (0x19000001, .dsel true), (0x19100000, .ffence),
      (0x14018400, .cpy 6 (.reg 8)), (0x1C804180, .lyset 1 (.reg 3)), (0x18000000, .nop),
      (0x49C00000, .hdr 4 7), (0x08017540, .vadd false ⟨1, 0, true⟩ (.queue 2) (.file 0)),
      (0x0832C043, .vfma false ⟨2, 1, true⟩ (.row 0 0 false) (.file 3)), (0x18607988, .loopp 1 (.imm 3) 8),
      (0x1200003F, .fence .module 15), (0x20002418, .dictionarySlot 0 2 0x10 0x18)] : List (BitVec 32 × Instr)),
    decodeSlot e.1 = .ok e.2) ∧
  expandSlot 0x60550000002810200000000000000000 2 0x10 0x18 =
    .ok (.mmcW 2 (.row 4 0 false) (.row 6 0 false)
      { fa := .e2m1, rm := .rne, bank := false, k := 32, scm := .b32, fold := false, ebase := 0, drn := false, acc := false,
        m := 0, n := 0 })

/-- Decoding the word of a well-formed instruction that one slot holds gives that instruction back, whatever its
operands; the stop bit does not matter. -/
def Obligations.SlotRoundTrip : Prop :=
  ∀ (i : Instr) (w : BitVec 32), i.wf = true → encode i = some w →
    decodeSlot w = .ok i ∧ decodeSlot (w ||| 0x80000000) = .ok i

/-- Decoding the template of a well-formed wide instruction gives that instruction back, whatever its operands. -/
def Obligations.TemplateRoundTrip : Prop :=
  ∀ (i : Instr) (t : Template), i.wf = true → encodeTemplate i = some t → decodeTemplate t = .ok i

/-- What the decoder answers is well formed and has the word or the template it was read from, but for the stop bit: no
two words decode to one instruction. -/
def Obligations.DecodedWordsAreUnique : Prop :=
  (∀ (w : BitVec 32) (i : Instr), decodeSlot w = .ok i → i.wf = true ∧ encode i = some (w &&& 0x7FFFFFFF)) ∧
  (∀ w : BitVec 32, w.extractLsb' 29 2 = 3 → decodeSlot w = .error .badKind) ∧
  ∀ (t : Template) (i : Instr), decodeTemplate t = .ok i → i.wf = true ∧ encodeTemplate i = some t

/-- Every step keeps the canonical form (the model's choice, log entry 2) of every byte memory (HBM, scratchpads,
command memories), and the clock goes back only at a power-on. -/
def Obligations.StepKeepsMemories : Prop :=
  ∀ s t : State, Safety.memories s = true → step s = .next t →
    Safety.memories t = true ∧ (Turn.wakes s.nextTurn.1 = false → s.cycle ≤ t.cycle)

/-- The machine right after reset, before Lovage's power-on: memories in canonical form (log entry 2), nothing bound,
every array free with LASTHOLDER 3 (R144), every context idle with its launch slots FREE (R302), every partition
disabled and unlocked with empty mailboxes (R376, R382), FPCTL 0x100 in every tile and context (R27), CYCLE 0 (R110), no
virtual function and the module not yet up (R382, R389). RINGST reads 0: the position and the members, which are straps
(R352), are 0 until a power-on gives them, which is the model's choice (log entries 1 and 4). -/
def Obligations.ResetState : Prop :=
  Safety.memories State.reset = true ∧ State.reset.modl.numVfs = 0 ∧ State.reset.modl.up = false ∧ State.reset.cycle = 0 ∧ State.reset.modl.ringst = 0 ∧
  (∀ t, (State.reset.tile t).run = .free ∧ (State.reset.tile t).th.lvl = .tl0 ∧ (State.reset.tile t).th.fpctl = 0x100) ∧
  (∀ c, (State.reset.cluster c).arr.holder = none ∧ (State.reset.cluster c).arr.last = 3 ∧
    (State.reset.cluster c).owner = none) ∧
  (∀ q k, (State.reset.seqCtx q).running = false ∧ ((State.reset.seqCtx q).slot k).st = .free ∧
    (State.reset.seqCtx q).th.fpctl = 0x100) ∧
  ∀ v, (State.reset.part v).en = false ∧ (State.reset.part v).offline = false ∧ (State.reset.part v).lock = false ∧
    (State.reset.part v).map = [] ∧ (State.reset.part v).inbox = [] ∧ (State.reset.part v).outbox = [] ∧
    (State.reset.part v).isr = 0 ∧ (State.reset.part v).domain = 0 ∧ (State.reset.part v).bwcap = 0 ∧
    (State.reset.part v).cecnt = 0 ∧ (State.reset.part v).layout = 0
end

