-- ==== Sys2Proof/Laws/Maps.lean ====
section
/-! SUPPORT. What a read of a numbered table, a register vector or a byte memory gives after a write, and that memory operations keep the canonical form. -/

namespace Sys2Proof.Machine

/-! ### Numbered tables -/

@[simp] theorem fget_nil {α : Type} (d : α) (k : Nat) : fget d [] k = d := rfl

theorem fget_eq_ffind {α : Type} (d : α) (m : FMap α) (k : Nat) : fget d m k = (ffind m k).getD d := by
  induction m with
  | nil => rfl
  | cons e r ih =>
    obtain ⟨j, v⟩ := e
    by_cases h : k = j <;> simp [fget, ffind, h, ih]

@[simp] theorem ffind_fput_self {α : Type} (m : FMap α) (k : Nat) (v : α) : ffind (fput m k v) k = some v := by
  induction m with
  | nil => simp [fput, ffind]
  | cons e r ih =>
    obtain ⟨j, w⟩ := e
    simp only [fput]
    split
    · simp [ffind]
    · split
      · simp [ffind]
      · simp [ffind, *]

@[simp] theorem ffind_fput_ne {α : Type} (m : FMap α) (k j : Nat) (v : α) (h : j ≠ k) :
    ffind (fput m k v) j = ffind m j := by
  induction m with
  | nil => simp [fput, ffind, h]
  | cons e r ih =>
    obtain ⟨i, w⟩ := e
    simp only [fput]
    split
    · rename_i hk
      subst hk
      simp [ffind, h]
    · split
      · simp [ffind, h]
      · by_cases hj : j = i <;> simp [ffind, hj, ih]

@[simp] theorem fget_fput_self {α : Type} (d : α) (m : FMap α) (k : Nat) (v : α) : fget d (fput m k v) k = v := by
  simp [fget_eq_ffind]

@[simp] theorem fget_fput_ne {α : Type} (d : α) (m : FMap α) (k j : Nat) (v : α) (h : j ≠ k) :
    fget d (fput m k v) j = fget d m j := by
  simp [fget_eq_ffind, h]

/-- Of two writes of one entry the second stands alone. -/
@[simp] theorem fput_fput {α : Type} (m : FMap α) (k : Nat) (v w : α) : fput (fput m k v) k w = fput m k w := by
  induction m with
  | nil => simp [fput]
  | cons e r ih =>
    simp only [fput]
    split
    · simp [fput]
    · split
      · simp [fput]
      · rename_i h1 h2
        simp [fput, h1, h2, ih]

theorem fget_fput {α : Type} (d : α) (m : FMap α) (k j : Nat) (v : α) :
    fget d (fput m k v) j = if j = k then v else fget d m j := by
  by_cases h : j = k
  · subst h; simp
  · simp [h]

/-- An entry of a table after one entry is set is the new one or an old one. -/
theorem mem_fput {α : Type} (m : FMap α) (k : Nat) (v : α) (e : Nat × α) (h : e ∈ fput m k v) : e = (k, v) ∨ e ∈ m := by
  induction m with
  | nil => simpa [fput] using h
  | cons c r ih =>
    obtain ⟨j, w⟩ := c
    simp only [fput] at h
    split at h
    · rcases List.mem_cons.mp h with h | h
      · exact Or.inl h
      · exact Or.inr (List.mem_cons_of_mem _ h)
    · split at h
      · rcases List.mem_cons.mp h with h | h
        · exact Or.inl h
        · exact Or.inr h
      · rcases List.mem_cons.mp h with h | h
        · exact Or.inr (h ▸ List.mem_cons_self ..)
        · rcases ih h with h | h
          · exact Or.inl h
          · exact Or.inr (List.mem_cons_of_mem _ h)

/-- An entry that a read finds is listed, or is the default. -/
theorem fget_mem {α : Type} (d : α) (m : FMap α) (k : Nat) : fget d m k = d ∨ (k, fget d m k) ∈ m := by
  induction m with
  | nil => exact Or.inl rfl
  | cons e r ih =>
    obtain ⟨j, w⟩ := e
    by_cases h : k = j
    · subst h
      exact Or.inr (by simp [fget])
    · rcases ih with ih | ih
      · exact Or.inl (by simpa [fget, h] using ih)
      · exact Or.inr (by simp [fget, h, ih])

/-! ### Register vectors -/

@[simp] theorem vget_vset_self {α : Type} [Inhabited α] {n : Nat} (v : Vector α n) (i : Nat) (x : α) (h : i < n) :
    vget (vset v i x) i = x := by
  simp [vget, vset, h]

@[simp] theorem vget_vset_ne {α : Type} [Inhabited α] {n : Nat} (v : Vector α n) (i j : Nat) (x : α) (h : j ≠ i) :
    vget (vset v i x) j = vget v j := by
  simp [vget, vset, Array.getElem?_setIfInBounds, Ne.symm h]

/-! ### Byte memories: the canonical form -/

/-- The canonical form, said of all entries and all pairs. -/
theorem Memory.wf_iff (m : Memory) :
    Memory.wf m = true ↔ (∀ c ∈ m, c.2 ≠ unlisted) ∧ m.Pairwise fun c d => c.1 < d.1 := by
  induction m with
  | nil => simp [Memory.wf]
  | cons c r ih =>
    cases r with
    | nil => simp [Memory.wf]
    | cons d r =>
      simp only [Memory.wf, Bool.and_eq_true, bne_iff_ne, decide_eq_true_eq, ih]
      constructor
      · rintro ⟨⟨h1, h2⟩, h3, h4⟩
        refine ⟨by
          intro e he
          rcases List.mem_cons.mp he with he | he
          · exact he ▸ h1
          · exact h3 e he, List.pairwise_cons.mpr ⟨?_, h4⟩⟩
        intro e he
        rcases List.mem_cons.mp he with he | he
        · exact he ▸ h2
        · exact Nat.lt_trans h2 ((List.pairwise_cons.mp h4).1 e he)
      · rintro ⟨h1, h2⟩
        have h := List.pairwise_cons.mp h2
        exact ⟨⟨h1 c (by simp), h.1 d (by simp)⟩, fun e he => h1 e (List.mem_cons_of_mem _ he), h.2⟩

theorem mem_cellsOf (a : Nat) (bs : List Byte) (c : Host.Cell) (h : c ∈ cellsOf a bs) :
    c.2 ≠ unlisted ∧ a ≤ c.1 ∧ c.1 < a + bs.length := by
  induction bs generalizing a with
  | nil => simp [cellsOf] at h
  | cons b r ih =>
    simp only [cellsOf] at h
    split at h
    · have := ih (a + 1) h
      simp only [List.length_cons]
      exact ⟨this.1, by omega, by omega⟩
    · rcases List.mem_cons.mp h with h | h
      · subst h
        simp only [List.length_cons]
        exact ⟨by assumption, by omega, by omega⟩
      · have := ih (a + 1) h
        simp only [List.length_cons]
        exact ⟨this.1, by omega, by omega⟩

theorem pairwise_cellsOf (a : Nat) (bs : List Byte) : (cellsOf a bs).Pairwise fun c d => c.1 < d.1 := by
  induction bs generalizing a with
  | nil => simp [cellsOf]
  | cons b r ih =>
    simp only [cellsOf]
    split
    · exact ih (a + 1)
    · refine List.pairwise_cons.mpr ⟨fun c h => ?_, ih (a + 1)⟩
      have := (mem_cellsOf (a + 1) r c h).2.1
      simp only
      omega

/-- The cells of bytes are in canonical form. -/
theorem Memory.wf_cellsOf (a : Nat) (bs : List Byte) : Memory.wf (cellsOf a bs) = true :=
  (Memory.wf_iff _).mpr ⟨fun c h => (mem_cellsOf a bs c h).1, pairwise_cellsOf a bs⟩

/-- A selection of the cells of a canonical memory is canonical. -/
theorem Memory.wf_filter (m : Memory) (p : Host.Cell → Bool) (h : Memory.wf m = true) : Memory.wf (m.filter p) = true := by
  rw [Memory.wf_iff] at *
  exact ⟨fun c hc => h.1 c (List.mem_filter.mp hc).1, h.2.filter _⟩

/-- Two canonical memories, one below the other, make a canonical one. -/
theorem Memory.wf_append (m k : Memory) (hm : Memory.wf m = true) (hk : Memory.wf k = true)
    (h : ∀ c ∈ m, ∀ d ∈ k, c.1 < d.1) : Memory.wf (m ++ k) = true := by
  rw [Memory.wf_iff] at *
  refine ⟨fun c hc => ?_, List.pairwise_append.mpr ⟨hm.2, hk.2, h⟩⟩
  rcases List.mem_append.mp hc with hc | hc
  · exact hm.1 c hc
  · exact hk.1 c hc

/-- A write keeps the canonical form. -/
theorem Memory.wf_writeBytes (m : Memory) (a : Nat) (bs : List Byte) (h : Memory.wf m = true) :
    Memory.wf (writeBytes m a bs) = true := by
  unfold writeBytes
  refine Memory.wf_append _ _ (Memory.wf_filter _ _ h)
    (Memory.wf_append _ _ (Memory.wf_cellsOf a bs) (Memory.wf_filter _ _ h) ?_) ?_
  · intro c hc d hd
    have hd := (List.mem_filter.mp hd).2
    have hc := (mem_cellsOf a bs c hc).2.2
    simp only [decide_eq_true_eq] at hd
    omega
  · intro c hc d hd
    have hc := (List.mem_filter.mp hc).2
    simp only [decide_eq_true_eq] at hc
    rcases List.mem_append.mp hd with hd | hd
    · have := (mem_cellsOf a bs d hd).2.1
      omega
    · have hd := (List.mem_filter.mp hd).2
      simp only [decide_eq_true_eq] at hd
      omega

/-- Setting bytes to zero keeps the canonical form. -/
theorem Memory.wf_zeroBytes (m : Memory) (a n : Nat) (h : Memory.wf m = true) :
    Memory.wf (zeroBytes m a n) = true := by
  unfold zeroBytes
  refine Memory.wf_append _ _ (Memory.wf_filter _ _ h) (Memory.wf_filter _ _ h) ?_
  intro c hc d hd
  have hc := (List.mem_filter.mp hc).2
  have hd := (List.mem_filter.mp hd).2
  simp only [decide_eq_true_eq] at hc hd
  omega

/-! ### Byte memories: read after write -/

/-- An entry that a search finds is listed. -/
theorem mem_of_ffind {α : Type} (m : FMap α) (k : Nat) (v : α) (h : ffind m k = some v) : (k, v) ∈ m := by
  induction m with
  | nil => simp [ffind] at h
  | cons e r ih =>
    obtain ⟨j, w⟩ := e
    by_cases hk : k = j
    · subst hk; simp_all [ffind]
    · simp only [ffind, hk, if_false] at h
      exact List.mem_cons_of_mem _ (ih h)

theorem ffind_append {α : Type} (m k : FMap α) (x : Nat) : ffind (m ++ k) x = (ffind m x).or (ffind k x) := by
  induction m with
  | nil => simp [ffind]
  | cons e r ih =>
    obtain ⟨j, v⟩ := e
    by_cases h : x = j <;> simp [ffind, h, ih]

theorem ffind_filter_key {α : Type} (m : FMap α) (p : Nat → Bool) (x : Nat) :
    ffind (m.filter fun c => p c.1) x = if p x then ffind m x else none := by
  induction m with
  | nil => simp [ffind]
  | cons e r ih =>
    obtain ⟨j, v⟩ := e
    by_cases hp : p j
    · by_cases h : x = j
      · subst h; simp [ffind, hp]
      · simp [ffind, hp, h, ih]
    · by_cases h : x = j
      · subst h
        have hf : p x = false := by simpa using hp
        simp [hf, ih]
      · simp [hp, h, ih, ffind]

theorem ffind_cellsOf (a : Nat) (bs : List Byte) (x : Nat) :
    (ffind (cellsOf a bs) x).getD unlisted = if a ≤ x then bs.getD (x - a) unlisted else unlisted := by
  induction bs generalizing a with
  | nil => simp [cellsOf, ffind]
  | cons b r ih =>
    simp only [cellsOf]
    by_cases hx : x = a
    · subst hx
      split
      · rename_i hb
        rw [ih]
        simp [hb]
      · simp [ffind]
    · have hs : (if a + 1 ≤ x then r.getD (x - (a + 1)) unlisted else unlisted) =
          if a ≤ x then (b :: r).getD (x - a) unlisted else unlisted := by
        by_cases h : a ≤ x
        · have e : x - a = (x - (a + 1)) + 1 := by omega
          have h' : a + 1 ≤ x := by omega
          simp [h, h', e]
        · have h' : ¬ a + 1 ≤ x := by omega
          simp [h, h']
      split
      · rw [ih, hs]
      · simp only [ffind, hx, if_false]
        rw [ih, hs]

/-- A byte after a write: the byte written, or what stood there. -/
theorem readByte_writeBytes (m : Memory) (a : Nat) (bs : List Byte) (x : Nat) :
    readByte (writeBytes m a bs) x = if a ≤ x ∧ x < a + bs.length then bs.getD (x - a) unlisted else readByte m x := by
  have h1 := ffind_filter_key m (fun k => decide (k < a)) x
  have h2 := ffind_filter_key m (fun k => decide (a + bs.length ≤ k)) x
  have h3 := ffind_cellsOf a bs x
  unfold readByte writeBytes
  rw [fget_eq_ffind, fget_eq_ffind, ffind_append, ffind_append, h1, h2]
  by_cases ha : x < a
  · have : ¬ a ≤ x := by omega
    have hn : ¬ a + bs.length ≤ x := by omega
    have hc : ffind (cellsOf a bs) x = none := by
      by_contra hne
      obtain ⟨v, hv⟩ := Option.ne_none_iff_exists'.mp hne
      have := (mem_cellsOf a bs _ (mem_of_ffind _ _ _ hv)).2.1
      simp only at this
      omega
    simp [ha, this, hn, hc]
  · by_cases hb : x < a + bs.length
    · have h4 : a ≤ x := by omega
      have hn : ¬ a + bs.length ≤ x := by omega
      simp [ha, hb, h4, hn] at *
      simpa using h3
    · have h4 : a ≤ x := by omega
      have hn : a + bs.length ≤ x := by omega
      have hc : ffind (cellsOf a bs) x = none := by
        by_contra hne
        obtain ⟨v, hv⟩ := Option.ne_none_iff_exists'.mp hne
        have := (mem_cellsOf a bs _ (mem_of_ffind _ _ _ hv)).2.2
        simp only at this
        omega
      simp [ha, hb, h4, hn, hc]

/-- A write leaves every other byte alone. -/
theorem readByte_writeBytes_other (m : Memory) (a : Nat) (bs : List Byte) (x : Nat) (h : x < a ∨ a + bs.length ≤ x) :
    readByte (writeBytes m a bs) x = readByte m x := by
  rw [readByte_writeBytes]
  exact if_neg (by omega)

end Sys2Proof.Machine
end

