-- ==== Sys2Proof/Laws/State.lean ====
section
/-! SUPPORT. What every update of the state leaves alone, field by field, and what a read gives after an update. -/

namespace Sys2Proof.Machine

/-! ### Fields of the state that an update leaves alone -/

@[simp] theorem State.setTile_cycle (s : State) (t : Nat) (x : Tile) :
    (s.setTile t x).cycle = s.cycle := rfl

@[simp] theorem State.setTile_turns (s : State) (t : Nat) (x : Tile) :
    (s.setTile t x).turns = s.turns := rfl

@[simp] theorem State.setTile_turnNo (s : State) (t : Nat) (x : Tile) :
    (s.setTile t x).turnNo = s.turnNo := rfl

@[simp] theorem State.setTile_choice (s : State) (t : Nat) (x : Tile) :
    (s.setTile t x).choice = s.choice := rfl

@[simp] theorem State.setTile_nextId (s : State) (t : Nat) (x : Tile) :
    (s.setTile t x).nextId = s.nextId := rfl

@[simp] theorem State.setTile_iss (s : State) (t : Nat) (x : Tile) :
    (s.setTile t x).iss = s.iss := rfl

@[simp] theorem State.setTile_hbm (s : State) (t : Nat) (x : Tile) :
    (s.setTile t x).hbm = s.hbm := rfl

@[simp] theorem State.setTile_clusters (s : State) (t : Nat) (x : Tile) :
    (s.setTile t x).clusters = s.clusters := rfl

@[simp] theorem State.setTile_seqs (s : State) (t : Nat) (x : Tile) :
    (s.setTile t x).seqs = s.seqs := rfl

@[simp] theorem State.setTile_parts (s : State) (t : Nat) (x : Tile) :
    (s.setTile t x).parts = s.parts := rfl

@[simp] theorem State.setTile_flows (s : State) (t : Nat) (x : Tile) :
    (s.setTile t x).flows = s.flows := rfl

@[simp] theorem State.setTile_reqs (s : State) (t : Nat) (x : Tile) :
    (s.setTile t x).reqs = s.reqs := rfl

@[simp] theorem State.setTile_notes (s : State) (t : Nat) (x : Tile) :
    (s.setTile t x).notes = s.notes := rfl

@[simp] theorem State.setTile_ctMsgs (s : State) (t : Nat) (x : Tile) :
    (s.setTile t x).ctMsgs = s.ctMsgs := rfl

@[simp] theorem State.setTile_modl (s : State) (t : Nat) (x : Tile) :
    (s.setTile t x).modl = s.modl := rfl

@[simp] theorem State.modTile_cycle (s : State) (t : Nat) (f : Tile → Tile) :
    (s.modTile t f).cycle = s.cycle := rfl

@[simp] theorem State.modTile_turns (s : State) (t : Nat) (f : Tile → Tile) :
    (s.modTile t f).turns = s.turns := rfl

@[simp] theorem State.modTile_turnNo (s : State) (t : Nat) (f : Tile → Tile) :
    (s.modTile t f).turnNo = s.turnNo := rfl

@[simp] theorem State.modTile_choice (s : State) (t : Nat) (f : Tile → Tile) :
    (s.modTile t f).choice = s.choice := rfl

@[simp] theorem State.modTile_nextId (s : State) (t : Nat) (f : Tile → Tile) :
    (s.modTile t f).nextId = s.nextId := rfl

@[simp] theorem State.modTile_iss (s : State) (t : Nat) (f : Tile → Tile) :
    (s.modTile t f).iss = s.iss := rfl

@[simp] theorem State.modTile_hbm (s : State) (t : Nat) (f : Tile → Tile) :
    (s.modTile t f).hbm = s.hbm := rfl

@[simp] theorem State.modTile_clusters (s : State) (t : Nat) (f : Tile → Tile) :
    (s.modTile t f).clusters = s.clusters := rfl

@[simp] theorem State.modTile_seqs (s : State) (t : Nat) (f : Tile → Tile) :
    (s.modTile t f).seqs = s.seqs := rfl

@[simp] theorem State.modTile_parts (s : State) (t : Nat) (f : Tile → Tile) :
    (s.modTile t f).parts = s.parts := rfl

@[simp] theorem State.modTile_flows (s : State) (t : Nat) (f : Tile → Tile) :
    (s.modTile t f).flows = s.flows := rfl

@[simp] theorem State.modTile_reqs (s : State) (t : Nat) (f : Tile → Tile) :
    (s.modTile t f).reqs = s.reqs := rfl

@[simp] theorem State.modTile_notes (s : State) (t : Nat) (f : Tile → Tile) :
    (s.modTile t f).notes = s.notes := rfl

@[simp] theorem State.modTile_ctMsgs (s : State) (t : Nat) (f : Tile → Tile) :
    (s.modTile t f).ctMsgs = s.ctMsgs := rfl

@[simp] theorem State.modTile_modl (s : State) (t : Nat) (f : Tile → Tile) :
    (s.modTile t f).modl = s.modl := rfl

@[simp] theorem State.modCluster_cycle (s : State) (c : Nat) (f : Cluster → Cluster) :
    (s.modCluster c f).cycle = s.cycle := rfl

@[simp] theorem State.modCluster_turns (s : State) (c : Nat) (f : Cluster → Cluster) :
    (s.modCluster c f).turns = s.turns := rfl

@[simp] theorem State.modCluster_turnNo (s : State) (c : Nat) (f : Cluster → Cluster) :
    (s.modCluster c f).turnNo = s.turnNo := rfl

@[simp] theorem State.modCluster_choice (s : State) (c : Nat) (f : Cluster → Cluster) :
    (s.modCluster c f).choice = s.choice := rfl

@[simp] theorem State.modCluster_nextId (s : State) (c : Nat) (f : Cluster → Cluster) :
    (s.modCluster c f).nextId = s.nextId := rfl

@[simp] theorem State.modCluster_iss (s : State) (c : Nat) (f : Cluster → Cluster) :
    (s.modCluster c f).iss = s.iss := rfl

@[simp] theorem State.modCluster_hbm (s : State) (c : Nat) (f : Cluster → Cluster) :
    (s.modCluster c f).hbm = s.hbm := rfl

@[simp] theorem State.modCluster_tiles (s : State) (c : Nat) (f : Cluster → Cluster) :
    (s.modCluster c f).tiles = s.tiles := rfl

@[simp] theorem State.modCluster_seqs (s : State) (c : Nat) (f : Cluster → Cluster) :
    (s.modCluster c f).seqs = s.seqs := rfl

@[simp] theorem State.modCluster_parts (s : State) (c : Nat) (f : Cluster → Cluster) :
    (s.modCluster c f).parts = s.parts := rfl

@[simp] theorem State.modCluster_flows (s : State) (c : Nat) (f : Cluster → Cluster) :
    (s.modCluster c f).flows = s.flows := rfl

@[simp] theorem State.modCluster_reqs (s : State) (c : Nat) (f : Cluster → Cluster) :
    (s.modCluster c f).reqs = s.reqs := rfl

@[simp] theorem State.modCluster_notes (s : State) (c : Nat) (f : Cluster → Cluster) :
    (s.modCluster c f).notes = s.notes := rfl

@[simp] theorem State.modCluster_ctMsgs (s : State) (c : Nat) (f : Cluster → Cluster) :
    (s.modCluster c f).ctMsgs = s.ctMsgs := rfl

@[simp] theorem State.modCluster_modl (s : State) (c : Nat) (f : Cluster → Cluster) :
    (s.modCluster c f).modl = s.modl := rfl

@[simp] theorem State.modArr_cycle (s : State) (c : Nat) (f : MatArray → MatArray) :
    (s.modArr c f).cycle = s.cycle := rfl

@[simp] theorem State.modArr_turns (s : State) (c : Nat) (f : MatArray → MatArray) :
    (s.modArr c f).turns = s.turns := rfl

@[simp] theorem State.modArr_turnNo (s : State) (c : Nat) (f : MatArray → MatArray) :
    (s.modArr c f).turnNo = s.turnNo := rfl

@[simp] theorem State.modArr_choice (s : State) (c : Nat) (f : MatArray → MatArray) :
    (s.modArr c f).choice = s.choice := rfl

@[simp] theorem State.modArr_nextId (s : State) (c : Nat) (f : MatArray → MatArray) :
    (s.modArr c f).nextId = s.nextId := rfl

@[simp] theorem State.modArr_iss (s : State) (c : Nat) (f : MatArray → MatArray) :
    (s.modArr c f).iss = s.iss := rfl

@[simp] theorem State.modArr_hbm (s : State) (c : Nat) (f : MatArray → MatArray) :
    (s.modArr c f).hbm = s.hbm := rfl

@[simp] theorem State.modArr_tiles (s : State) (c : Nat) (f : MatArray → MatArray) :
    (s.modArr c f).tiles = s.tiles := rfl

@[simp] theorem State.modArr_seqs (s : State) (c : Nat) (f : MatArray → MatArray) :
    (s.modArr c f).seqs = s.seqs := rfl

@[simp] theorem State.modArr_parts (s : State) (c : Nat) (f : MatArray → MatArray) :
    (s.modArr c f).parts = s.parts := rfl

@[simp] theorem State.modArr_flows (s : State) (c : Nat) (f : MatArray → MatArray) :
    (s.modArr c f).flows = s.flows := rfl

@[simp] theorem State.modArr_reqs (s : State) (c : Nat) (f : MatArray → MatArray) :
    (s.modArr c f).reqs = s.reqs := rfl

@[simp] theorem State.modArr_notes (s : State) (c : Nat) (f : MatArray → MatArray) :
    (s.modArr c f).notes = s.notes := rfl

@[simp] theorem State.modArr_ctMsgs (s : State) (c : Nat) (f : MatArray → MatArray) :
    (s.modArr c f).ctMsgs = s.ctMsgs := rfl

@[simp] theorem State.modArr_modl (s : State) (c : Nat) (f : MatArray → MatArray) :
    (s.modArr c f).modl = s.modl := rfl

@[simp] theorem State.modSeq_cycle (s : State) (q : Nat) (f : Seq → Seq) :
    (s.modSeq q f).cycle = s.cycle := rfl

@[simp] theorem State.modSeq_turns (s : State) (q : Nat) (f : Seq → Seq) :
    (s.modSeq q f).turns = s.turns := rfl

@[simp] theorem State.modSeq_turnNo (s : State) (q : Nat) (f : Seq → Seq) :
    (s.modSeq q f).turnNo = s.turnNo := rfl

@[simp] theorem State.modSeq_choice (s : State) (q : Nat) (f : Seq → Seq) :
    (s.modSeq q f).choice = s.choice := rfl

@[simp] theorem State.modSeq_nextId (s : State) (q : Nat) (f : Seq → Seq) :
    (s.modSeq q f).nextId = s.nextId := rfl

@[simp] theorem State.modSeq_iss (s : State) (q : Nat) (f : Seq → Seq) :
    (s.modSeq q f).iss = s.iss := rfl

@[simp] theorem State.modSeq_hbm (s : State) (q : Nat) (f : Seq → Seq) :
    (s.modSeq q f).hbm = s.hbm := rfl

@[simp] theorem State.modSeq_tiles (s : State) (q : Nat) (f : Seq → Seq) :
    (s.modSeq q f).tiles = s.tiles := rfl

@[simp] theorem State.modSeq_clusters (s : State) (q : Nat) (f : Seq → Seq) :
    (s.modSeq q f).clusters = s.clusters := rfl

@[simp] theorem State.modSeq_parts (s : State) (q : Nat) (f : Seq → Seq) :
    (s.modSeq q f).parts = s.parts := rfl

@[simp] theorem State.modSeq_flows (s : State) (q : Nat) (f : Seq → Seq) :
    (s.modSeq q f).flows = s.flows := rfl

@[simp] theorem State.modSeq_reqs (s : State) (q : Nat) (f : Seq → Seq) :
    (s.modSeq q f).reqs = s.reqs := rfl

@[simp] theorem State.modSeq_notes (s : State) (q : Nat) (f : Seq → Seq) :
    (s.modSeq q f).notes = s.notes := rfl

@[simp] theorem State.modSeq_ctMsgs (s : State) (q : Nat) (f : Seq → Seq) :
    (s.modSeq q f).ctMsgs = s.ctMsgs := rfl

@[simp] theorem State.modSeq_modl (s : State) (q : Nat) (f : Seq → Seq) :
    (s.modSeq q f).modl = s.modl := rfl

@[simp] theorem State.modPart_cycle (s : State) (v : Nat) (f : Part → Part) :
    (s.modPart v f).cycle = s.cycle := rfl

@[simp] theorem State.modPart_turns (s : State) (v : Nat) (f : Part → Part) :
    (s.modPart v f).turns = s.turns := rfl

@[simp] theorem State.modPart_turnNo (s : State) (v : Nat) (f : Part → Part) :
    (s.modPart v f).turnNo = s.turnNo := rfl

@[simp] theorem State.modPart_choice (s : State) (v : Nat) (f : Part → Part) :
    (s.modPart v f).choice = s.choice := rfl

@[simp] theorem State.modPart_nextId (s : State) (v : Nat) (f : Part → Part) :
    (s.modPart v f).nextId = s.nextId := rfl

@[simp] theorem State.modPart_iss (s : State) (v : Nat) (f : Part → Part) :
    (s.modPart v f).iss = s.iss := rfl

@[simp] theorem State.modPart_hbm (s : State) (v : Nat) (f : Part → Part) :
    (s.modPart v f).hbm = s.hbm := rfl

@[simp] theorem State.modPart_tiles (s : State) (v : Nat) (f : Part → Part) :
    (s.modPart v f).tiles = s.tiles := rfl

@[simp] theorem State.modPart_clusters (s : State) (v : Nat) (f : Part → Part) :
    (s.modPart v f).clusters = s.clusters := rfl

@[simp] theorem State.modPart_seqs (s : State) (v : Nat) (f : Part → Part) :
    (s.modPart v f).seqs = s.seqs := rfl

@[simp] theorem State.modPart_flows (s : State) (v : Nat) (f : Part → Part) :
    (s.modPart v f).flows = s.flows := rfl

@[simp] theorem State.modPart_reqs (s : State) (v : Nat) (f : Part → Part) :
    (s.modPart v f).reqs = s.reqs := rfl

@[simp] theorem State.modPart_notes (s : State) (v : Nat) (f : Part → Part) :
    (s.modPart v f).notes = s.notes := rfl

@[simp] theorem State.modPart_ctMsgs (s : State) (v : Nat) (f : Part → Part) :
    (s.modPart v f).ctMsgs = s.ctMsgs := rfl

@[simp] theorem State.modPart_modl (s : State) (v : Nat) (f : Part → Part) :
    (s.modPart v f).modl = s.modl := rfl

@[simp] theorem State.modMod_cycle (s : State) (f : Mod → Mod) :
    (s.modMod f).cycle = s.cycle := rfl

@[simp] theorem State.modMod_turns (s : State) (f : Mod → Mod) :
    (s.modMod f).turns = s.turns := rfl

@[simp] theorem State.modMod_turnNo (s : State) (f : Mod → Mod) :
    (s.modMod f).turnNo = s.turnNo := rfl

@[simp] theorem State.modMod_choice (s : State) (f : Mod → Mod) :
    (s.modMod f).choice = s.choice := rfl

@[simp] theorem State.modMod_nextId (s : State) (f : Mod → Mod) :
    (s.modMod f).nextId = s.nextId := rfl

@[simp] theorem State.modMod_iss (s : State) (f : Mod → Mod) :
    (s.modMod f).iss = s.iss := rfl

@[simp] theorem State.modMod_hbm (s : State) (f : Mod → Mod) :
    (s.modMod f).hbm = s.hbm := rfl

@[simp] theorem State.modMod_tiles (s : State) (f : Mod → Mod) :
    (s.modMod f).tiles = s.tiles := rfl

@[simp] theorem State.modMod_clusters (s : State) (f : Mod → Mod) :
    (s.modMod f).clusters = s.clusters := rfl

@[simp] theorem State.modMod_seqs (s : State) (f : Mod → Mod) :
    (s.modMod f).seqs = s.seqs := rfl

@[simp] theorem State.modMod_parts (s : State) (f : Mod → Mod) :
    (s.modMod f).parts = s.parts := rfl

@[simp] theorem State.modMod_flows (s : State) (f : Mod → Mod) :
    (s.modMod f).flows = s.flows := rfl

@[simp] theorem State.modMod_reqs (s : State) (f : Mod → Mod) :
    (s.modMod f).reqs = s.reqs := rfl

@[simp] theorem State.modMod_notes (s : State) (f : Mod → Mod) :
    (s.modMod f).notes = s.notes := rfl

@[simp] theorem State.modMod_ctMsgs (s : State) (f : Mod → Mod) :
    (s.modMod f).ctMsgs = s.ctMsgs := rfl

@[simp] theorem State.modIss_cycle (s : State) (f : Issue → Issue) :
    (s.modIss f).cycle = s.cycle := rfl

@[simp] theorem State.modIss_turns (s : State) (f : Issue → Issue) :
    (s.modIss f).turns = s.turns := rfl

@[simp] theorem State.modIss_turnNo (s : State) (f : Issue → Issue) :
    (s.modIss f).turnNo = s.turnNo := rfl

@[simp] theorem State.modIss_choice (s : State) (f : Issue → Issue) :
    (s.modIss f).choice = s.choice := rfl

@[simp] theorem State.modIss_nextId (s : State) (f : Issue → Issue) :
    (s.modIss f).nextId = s.nextId := rfl

@[simp] theorem State.modIss_hbm (s : State) (f : Issue → Issue) :
    (s.modIss f).hbm = s.hbm := rfl

@[simp] theorem State.modIss_tiles (s : State) (f : Issue → Issue) :
    (s.modIss f).tiles = s.tiles := rfl

@[simp] theorem State.modIss_clusters (s : State) (f : Issue → Issue) :
    (s.modIss f).clusters = s.clusters := rfl

@[simp] theorem State.modIss_seqs (s : State) (f : Issue → Issue) :
    (s.modIss f).seqs = s.seqs := rfl

@[simp] theorem State.modIss_parts (s : State) (f : Issue → Issue) :
    (s.modIss f).parts = s.parts := rfl

@[simp] theorem State.modIss_flows (s : State) (f : Issue → Issue) :
    (s.modIss f).flows = s.flows := rfl

@[simp] theorem State.modIss_reqs (s : State) (f : Issue → Issue) :
    (s.modIss f).reqs = s.reqs := rfl

@[simp] theorem State.modIss_notes (s : State) (f : Issue → Issue) :
    (s.modIss f).notes = s.notes := rfl

@[simp] theorem State.modIss_ctMsgs (s : State) (f : Issue → Issue) :
    (s.modIss f).ctMsgs = s.ctMsgs := rfl

@[simp] theorem State.modIss_modl (s : State) (f : Issue → Issue) :
    (s.modIss f).modl = s.modl := rfl

@[simp] theorem State.modThreadOf_cycle (s : State) (a : Agent) (f : Thread → Thread) :
    (s.modThreadOf a f).cycle = s.cycle := by cases a <;> rfl

@[simp] theorem State.modThreadOf_turns (s : State) (a : Agent) (f : Thread → Thread) :
    (s.modThreadOf a f).turns = s.turns := by cases a <;> rfl

@[simp] theorem State.modThreadOf_turnNo (s : State) (a : Agent) (f : Thread → Thread) :
    (s.modThreadOf a f).turnNo = s.turnNo := by cases a <;> rfl

@[simp] theorem State.modThreadOf_choice (s : State) (a : Agent) (f : Thread → Thread) :
    (s.modThreadOf a f).choice = s.choice := by cases a <;> rfl

@[simp] theorem State.modThreadOf_nextId (s : State) (a : Agent) (f : Thread → Thread) :
    (s.modThreadOf a f).nextId = s.nextId := by cases a <;> rfl

@[simp] theorem State.modThreadOf_iss (s : State) (a : Agent) (f : Thread → Thread) :
    (s.modThreadOf a f).iss = s.iss := by cases a <;> rfl

@[simp] theorem State.modThreadOf_hbm (s : State) (a : Agent) (f : Thread → Thread) :
    (s.modThreadOf a f).hbm = s.hbm := by cases a <;> rfl

@[simp] theorem State.modThreadOf_clusters (s : State) (a : Agent) (f : Thread → Thread) :
    (s.modThreadOf a f).clusters = s.clusters := by cases a <;> rfl

@[simp] theorem State.modThreadOf_parts (s : State) (a : Agent) (f : Thread → Thread) :
    (s.modThreadOf a f).parts = s.parts := by cases a <;> rfl

@[simp] theorem State.modThreadOf_flows (s : State) (a : Agent) (f : Thread → Thread) :
    (s.modThreadOf a f).flows = s.flows := by cases a <;> rfl

@[simp] theorem State.modThreadOf_reqs (s : State) (a : Agent) (f : Thread → Thread) :
    (s.modThreadOf a f).reqs = s.reqs := by cases a <;> rfl

@[simp] theorem State.modThreadOf_notes (s : State) (a : Agent) (f : Thread → Thread) :
    (s.modThreadOf a f).notes = s.notes := by cases a <;> rfl

@[simp] theorem State.modThreadOf_ctMsgs (s : State) (a : Agent) (f : Thread → Thread) :
    (s.modThreadOf a f).ctMsgs = s.ctMsgs := by cases a <;> rfl

@[simp] theorem State.modThreadOf_modl (s : State) (a : Agent) (f : Thread → Thread) :
    (s.modThreadOf a f).modl = s.modl := by cases a <;> rfl

@[simp] theorem State.modThread_cycle (s : State) (f : Thread → Thread) :
    (s.modThread f).cycle = s.cycle := by simp [State.modThread]

@[simp] theorem State.modThread_turns (s : State) (f : Thread → Thread) :
    (s.modThread f).turns = s.turns := by simp [State.modThread]

@[simp] theorem State.modThread_turnNo (s : State) (f : Thread → Thread) :
    (s.modThread f).turnNo = s.turnNo := by simp [State.modThread]

@[simp] theorem State.modThread_choice (s : State) (f : Thread → Thread) :
    (s.modThread f).choice = s.choice := by simp [State.modThread]

@[simp] theorem State.modThread_nextId (s : State) (f : Thread → Thread) :
    (s.modThread f).nextId = s.nextId := by simp [State.modThread]

@[simp] theorem State.modThread_iss (s : State) (f : Thread → Thread) :
    (s.modThread f).iss = s.iss := by simp [State.modThread]

@[simp] theorem State.modThread_hbm (s : State) (f : Thread → Thread) :
    (s.modThread f).hbm = s.hbm := by simp [State.modThread]

@[simp] theorem State.modThread_clusters (s : State) (f : Thread → Thread) :
    (s.modThread f).clusters = s.clusters := by simp [State.modThread]

@[simp] theorem State.modThread_parts (s : State) (f : Thread → Thread) :
    (s.modThread f).parts = s.parts := by simp [State.modThread]

@[simp] theorem State.modThread_flows (s : State) (f : Thread → Thread) :
    (s.modThread f).flows = s.flows := by simp [State.modThread]

@[simp] theorem State.modThread_reqs (s : State) (f : Thread → Thread) :
    (s.modThread f).reqs = s.reqs := by simp [State.modThread]

@[simp] theorem State.modThread_notes (s : State) (f : Thread → Thread) :
    (s.modThread f).notes = s.notes := by simp [State.modThread]

@[simp] theorem State.modThread_ctMsgs (s : State) (f : Thread → Thread) :
    (s.modThread f).ctMsgs = s.ctMsgs := by simp [State.modThread]

@[simp] theorem State.modThread_modl (s : State) (f : Thread → Thread) :
    (s.modThread f).modl = s.modl := by simp [State.modThread]

@[simp] theorem State.modCur_cycle (s : State) (f : Tile → Tile) :
    (s.modCur f).cycle = s.cycle := by
  unfold State.modCur
  split <;> rfl

@[simp] theorem State.modCur_turns (s : State) (f : Tile → Tile) :
    (s.modCur f).turns = s.turns := by
  unfold State.modCur
  split <;> rfl

@[simp] theorem State.modCur_turnNo (s : State) (f : Tile → Tile) :
    (s.modCur f).turnNo = s.turnNo := by
  unfold State.modCur
  split <;> rfl

@[simp] theorem State.modCur_choice (s : State) (f : Tile → Tile) :
    (s.modCur f).choice = s.choice := by
  unfold State.modCur
  split <;> rfl

@[simp] theorem State.modCur_nextId (s : State) (f : Tile → Tile) :
    (s.modCur f).nextId = s.nextId := by
  unfold State.modCur
  split <;> rfl

@[simp] theorem State.modCur_iss (s : State) (f : Tile → Tile) :
    (s.modCur f).iss = s.iss := by
  unfold State.modCur
  split <;> rfl

@[simp] theorem State.modCur_hbm (s : State) (f : Tile → Tile) :
    (s.modCur f).hbm = s.hbm := by
  unfold State.modCur
  split <;> rfl

@[simp] theorem State.modCur_clusters (s : State) (f : Tile → Tile) :
    (s.modCur f).clusters = s.clusters := by
  unfold State.modCur
  split <;> rfl

@[simp] theorem State.modCur_seqs (s : State) (f : Tile → Tile) :
    (s.modCur f).seqs = s.seqs := by
  unfold State.modCur
  split <;> rfl

@[simp] theorem State.modCur_parts (s : State) (f : Tile → Tile) :
    (s.modCur f).parts = s.parts := by
  unfold State.modCur
  split <;> rfl

@[simp] theorem State.modCur_flows (s : State) (f : Tile → Tile) :
    (s.modCur f).flows = s.flows := by
  unfold State.modCur
  split <;> rfl

@[simp] theorem State.modCur_reqs (s : State) (f : Tile → Tile) :
    (s.modCur f).reqs = s.reqs := by
  unfold State.modCur
  split <;> rfl

@[simp] theorem State.modCur_notes (s : State) (f : Tile → Tile) :
    (s.modCur f).notes = s.notes := by
  unfold State.modCur
  split <;> rfl

@[simp] theorem State.modCur_ctMsgs (s : State) (f : Tile → Tile) :
    (s.modCur f).ctMsgs = s.ctMsgs := by
  unfold State.modCur
  split <;> rfl

@[simp] theorem State.modCur_modl (s : State) (f : Tile → Tile) :
    (s.modCur f).modl = s.modl := by
  unfold State.modCur
  split <;> rfl

@[simp] theorem State.push_cycle (s : State) (n : Nat) (a : Act) :
    (s.push n a).cycle = s.cycle := by simp [State.push]

@[simp] theorem State.push_turns (s : State) (n : Nat) (a : Act) :
    (s.push n a).turns = s.turns := by simp [State.push]

@[simp] theorem State.push_turnNo (s : State) (n : Nat) (a : Act) :
    (s.push n a).turnNo = s.turnNo := by simp [State.push]

@[simp] theorem State.push_choice (s : State) (n : Nat) (a : Act) :
    (s.push n a).choice = s.choice := by simp [State.push]

@[simp] theorem State.push_nextId (s : State) (n : Nat) (a : Act) :
    (s.push n a).nextId = s.nextId := by simp [State.push]

@[simp] theorem State.push_iss (s : State) (n : Nat) (a : Act) :
    (s.push n a).iss = s.iss := by simp [State.push]

@[simp] theorem State.push_hbm (s : State) (n : Nat) (a : Act) :
    (s.push n a).hbm = s.hbm := by simp [State.push]

@[simp] theorem State.push_clusters (s : State) (n : Nat) (a : Act) :
    (s.push n a).clusters = s.clusters := by simp [State.push]

@[simp] theorem State.push_parts (s : State) (n : Nat) (a : Act) :
    (s.push n a).parts = s.parts := by simp [State.push]

@[simp] theorem State.push_flows (s : State) (n : Nat) (a : Act) :
    (s.push n a).flows = s.flows := by simp [State.push]

@[simp] theorem State.push_reqs (s : State) (n : Nat) (a : Act) :
    (s.push n a).reqs = s.reqs := by simp [State.push]

@[simp] theorem State.push_notes (s : State) (n : Nat) (a : Act) :
    (s.push n a).notes = s.notes := by simp [State.push]

@[simp] theorem State.push_ctMsgs (s : State) (n : Nat) (a : Act) :
    (s.push n a).ctMsgs = s.ctMsgs := by simp [State.push]

@[simp] theorem State.push_modl (s : State) (n : Nat) (a : Act) :
    (s.push n a).modl = s.modl := by simp [State.push]

/-! ### What a read gives after an update -/

@[simp] theorem State.tile_setTile_self (s : State) (t : Nat) (x : Tile) : (s.setTile t x).tile t = x := by
  simp [State.tile, State.setTile]

@[simp] theorem State.tile_setTile_ne (s : State) (t u : Nat) (x : Tile) (h : u ≠ t) :
    (s.setTile t x).tile u = s.tile u := by
  simp [State.tile, State.setTile, h]

@[simp] theorem State.tile_modTile_self (s : State) (t : Nat) (f : Tile → Tile) :
    (s.modTile t f).tile t = f (s.tile t) := by
  simp [State.modTile]

@[simp] theorem State.tile_modTile_ne (s : State) (t u : Nat) (f : Tile → Tile) (h : u ≠ t) :
    (s.modTile t f).tile u = s.tile u := by
  simp [State.modTile, h]

@[simp] theorem State.cluster_modCluster_self (s : State) (c : Nat) (f : Cluster → Cluster) :
    (s.modCluster c f).cluster c = f (s.cluster c) := by
  simp [State.cluster, State.modCluster]

@[simp] theorem State.cluster_modCluster_ne (s : State) (c d : Nat) (f : Cluster → Cluster) (h : d ≠ c) :
    (s.modCluster c f).cluster d = s.cluster d := by
  simp [State.cluster, State.modCluster, h]

@[simp] theorem State.seqCtx_modSeq_self (s : State) (q : Nat) (f : Seq → Seq) :
    (s.modSeq q f).seqCtx q = f (s.seqCtx q) := by
  simp [State.seqCtx, State.modSeq]

@[simp] theorem State.seqCtx_modSeq_ne (s : State) (q r : Nat) (f : Seq → Seq) (h : r ≠ q) :
    (s.modSeq q f).seqCtx r = s.seqCtx r := by
  simp [State.seqCtx, State.modSeq, h]

@[simp] theorem State.part_modPart_self (s : State) (v : Nat) (f : Part → Part) :
    (s.modPart v f).part v = f (s.part v) := by
  simp [State.part, State.modPart]

@[simp] theorem State.part_modPart_ne (s : State) (v w : Nat) (f : Part → Part) (h : w ≠ v) :
    (s.modPart v f).part w = s.part w := by
  simp [State.part, State.modPart, h]

@[simp] theorem State.threadOf_modThreadOf_self (s : State) (a : Agent) (f : Thread → Thread) :
    (s.modThreadOf a f).threadOf a = f (s.threadOf a) := by
  cases a <;> simp [State.modThreadOf, State.threadOf]

@[simp] theorem State.thread_modThread (s : State) (f : Thread → Thread) :
    (s.modThread f).thread = f s.thread := by
  simp [State.modThread, State.thread]

/-! ### Parts of a thread -/

@[simp] theorem Thread.modBank_s (t : Thread) (f : Bank → Bank) : (t.modBank f).s = t.s := by
  unfold Thread.modBank
  split <;> rfl

@[simp] theorem Thread.modBank_ps (t : Thread) (f : Bank → Bank) : (t.modBank f).ps = t.ps := by
  unfold Thread.modBank
  split <;> rfl

@[simp] theorem Thread.modBank_loops (t : Thread) (f : Bank → Bank) : (t.modBank f).loops = t.loops := by
  unfold Thread.modBank
  split <;> rfl

@[simp] theorem Thread.modBank_li (t : Thread) (f : Bank → Bank) : (t.modBank f).li = t.li := by
  unfold Thread.modBank
  split <;> rfl

@[simp] theorem Thread.modBank_fpctl (t : Thread) (f : Bank → Bank) : (t.modBank f).fpctl = t.fpctl := by
  unfold Thread.modBank
  split <;> rfl

@[simp] theorem Thread.modBank_tr1 (t : Thread) (f : Bank → Bank) : (t.modBank f).tr1 = t.tr1 := by
  unfold Thread.modBank
  split <;> rfl

@[simp] theorem Thread.modBank_tr2 (t : Thread) (f : Bank → Bank) : (t.modBank f).tr2 = t.tr2 := by
  unfold Thread.modBank
  split <;> rfl

@[simp] theorem Thread.modBank_issue (t : Thread) (f : Bank → Bank) : (t.modBank f).issue = t.issue := by
  unfold Thread.modBank
  split <;> rfl

@[simp] theorem Thread.modBank_bundles (t : Thread) (f : Bank → Bank) : (t.modBank f).bundles = t.bundles := by
  unfold Thread.modBank
  split <;> rfl

@[simp] theorem Thread.modBank_posts (t : Thread) (f : Bank → Bank) : (t.modBank f).posts = t.posts := by
  unfold Thread.modBank
  split <;> rfl

@[simp] theorem Thread.modBank_readyAt (t : Thread) (f : Bank → Bank) : (t.modBank f).readyAt = t.readyAt := by
  unfold Thread.modBank
  split <;> rfl

@[simp] theorem Thread.modBank_lvl (t : Thread) (f : Bank → Bank) : (t.modBank f).lvl = t.lvl := by
  unfold Thread.modBank
  split <;> rfl

@[simp] theorem Thread.bank_modBank (t : Thread) (f : Bank → Bank) : (t.modBank f).bank = f t.bank := by
  rcases h : t.lvl <;> simp [Thread.modBank, Thread.bank, h]

@[simp] theorem Thread.push_pend (t : Thread) (n : Nat) (a : Act) :
    (t.push n a).bank.pend = t.bank.pend ++ [⟨n, t.bundles, a⟩] := by
  simp [Thread.push]

@[simp] theorem Thread.getP_zero (t : Thread) : t.getP 0 = true := by
  simp [Thread.getP]

@[simp] theorem Thread.putP_zero (t : Thread) (v : Bool) : t.putP 0 v = t := by
  simp [Thread.putP]

end Sys2Proof.Machine
end

