-- ==== Sys2Proof/Laws/Halt.lean ====
section
/-! SUPPORT. What the records of a halting partition can change, which records its engines write, and what the halt then
discards and ends (R312, R327, R328, R339, R379). -/

namespace Sys2Proof.Machine

/-- A state that differs from another only in HBM, its damaged words and the cached copies of its lines, in the counters of
the fault queues and in the interrupts raised. -/
structure RecordsOnly (s u : State) : Prop where
  tile : ∀ t, ∃ d, u.tile t = { s.tile t with dcache := d }
  listed : u.tiles.map (fun e => (e.1, e.2.run, e.2.part, e.2.slot)) = s.tiles.map fun e => (e.1, e.2.run, e.2.part, e.2.slot)
  part : ∀ v, ∃ a b c, u.part v = { s.part v with fqProd := a, fqDrop := b, isr := c }
  modl : ∃ b m, u.modl = { s.modl with bad := b, msix := m }
  cycle : u.cycle = s.cycle
  clusters : u.clusters = s.clusters
  seqs : u.seqs = s.seqs
  flows : u.flows = s.flows
  reqs : u.reqs = s.reqs
  notes : u.notes = s.notes
  ctMsgs : u.ctMsgs = s.ctMsgs

theorem RecordsOnly.refl (s : State) : RecordsOnly s s :=
  ⟨fun _ => ⟨_, rfl⟩, rfl, fun _ => ⟨_, _, _, rfl⟩, ⟨_, _, rfl⟩, rfl, rfl, rfl, rfl, rfl, rfl, rfl⟩

theorem RecordsOnly.trans {s t u : State} (h : RecordsOnly s t) (k : RecordsOnly t u) : RecordsOnly s u := by
  refine ⟨fun i => ?_, k.listed.trans h.listed, fun v => ?_, ?_, k.cycle.trans h.cycle, k.clusters.trans h.clusters,
    k.seqs.trans h.seqs, k.flows.trans h.flows, k.reqs.trans h.reqs, k.notes.trans h.notes, k.ctMsgs.trans h.ctMsgs⟩
  · obtain ⟨d, hd⟩ := h.tile i
    obtain ⟨e, he⟩ := k.tile i
    exact ⟨e, by rw [he, hd]⟩
  · obtain ⟨a, b, c, hd⟩ := h.part v
    obtain ⟨a', b', c', he⟩ := k.part v
    exact ⟨a', b', c', by rw [he, hd]⟩
  · obtain ⟨b, m, hd⟩ := h.modl
    obtain ⟨b', m', he⟩ := k.modl
    exact ⟨b', m', by rw [he, hd]⟩

theorem fget_map {α β : Type} (d : α) (e : β) (m : FMap α) (f : Nat × α → β) (k : Nat) (h : k ∉ m.map Prod.fst → f (k, d) = e) :
    fget e (m.map fun x => (x.1, f x)) k = f (k, fget d m k) := by
  induction m with
  | nil => simp [fget]; exact (h (by simp)).symm
  | cons x r ih =>
    obtain ⟨k', v⟩ := x
    simp only [List.map_cons, fget]
    split
    · subst k'; rfl
    · exact ih fun hk => h (by simp_all)

theorem recordsOnly_modPart (s : State) (v : Nat) (f : Part → Part)
    (h : ∀ p : Part, ∃ a b c, f p = { p with fqProd := a, fqDrop := b, isr := c }) : RecordsOnly s (s.modPart v f) := by
  refine ⟨fun _ => ⟨_, rfl⟩, rfl, fun w => ?_, ⟨_, _, rfl⟩, rfl, rfl, rfl, rfl, rfl, rfl, rfl⟩
  by_cases hw : w = v
  · subst w; simpa using h (s.part v)
  · exact ⟨_, _, _, State.part_modPart_ne s v w f hw⟩

theorem recordsOnly_raise (s : State) (v k : Nat) : RecordsOnly s (s.raise v k) := by
  unfold State.raise
  split
  · exact .refl s
  · have h := recordsOnly_modPart s v (fun p => { p with isr := p.isr ||| (1#4 <<< k) }) fun p => ⟨_, _, _, rfl⟩
    dsimp only
    split
    · exact h.trans ⟨fun _ => ⟨_, rfl⟩, rfl, fun _ => ⟨_, _, _, rfl⟩, ⟨_, _, rfl⟩, rfl, rfl, rfl, rfl, rfl, rfl, rfl⟩
    · exact h

theorem recordsOnly_hbmWrite (s : State) (a : Nat) (bs : List Byte) : RecordsOnly s (s.hbmWrite a bs) := by
  refine ⟨fun t => ?_, ?_, fun _ => ⟨_, _, _, rfl⟩, ⟨_, _, rfl⟩, rfl, rfl, rfl, rfl, rfl, rfl, rfl⟩
  · show ∃ d, fget Tile.reset (s.dropLines (a / 2 ^ 31) a bs.length).tiles t = _
    have : (s.dropLines (a / 2 ^ 31) a bs.length).tiles = s.tiles.map fun e =>
        (e.1, if e.1 / 4 = a / 2 ^ 31 then e.2.dropLines a bs.length else e.2) := by
      unfold State.dropLines
      exact List.map_congr_left fun e _ => by split <;> rfl
    rw [this, fget_map Tile.reset]
    · simp only [State.tile]
      split
      · exact ⟨_, rfl⟩
      · exact ⟨_, rfl⟩
    · intro _; dsimp only; split <;> rfl
  · show List.map _ (s.dropLines (a / 2 ^ 31) a bs.length).tiles = _
    unfold State.dropLines
    rw [List.map_map]
    exact List.map_congr_left fun e _ => by simp only [Function.comp]; split <;> rfl

theorem recordsOnly_faultRecord (s : State) (v : Nat) (ws : List Word) : RecordsOnly s (s.faultRecord v ws) := by
  unfold State.faultRecord
  dsimp only
  split
  · exact (recordsOnly_modPart s v (fun p => { p with fqDrop := if p.fqDrop = 0xFFFFFFFF then p.fqDrop else p.fqDrop + 1 })
      fun p => ⟨_, _, _, rfl⟩).trans (recordsOnly_raise ..)
  · exact (recordsOnly_hbmWrite s _ _).trans
      ((recordsOnly_modPart _ v (fun p => { p with fqProd := p.fqProd + 1 }) fun p => ⟨_, _, _, rfl⟩).trans (recordsOnly_raise ..))

/-- A state with other clusters. -/
def State.withClusters (s : State) (k : FMap Cluster) : State := { s with clusters := k }

theorem raise_clusters (s : State) (k : FMap Cluster) (v j : Nat) : (s.withClusters k).raise v j = (s.raise v j).withClusters k := by
  unfold State.raise
  by_cases h : (s.part v).isr.getLsbD j = true
  · rw [if_pos h, if_pos (show ((s.withClusters k).part v).isr.getLsbD j = true from h)]
  · rw [if_neg h, if_neg (show ¬((s.withClusters k).part v).isr.getLsbD j = true from h)]
    dsimp only
    by_cases h' : (s.modl.vfEnable && decide (v < s.modl.numVfs.toNat)) = true
    · refine (if_pos h').trans (Eq.trans ?_ (congrArg (State.withClusters · k) (if_pos h').symm))
      rfl
    · refine (if_neg h').trans (Eq.trans ?_ (congrArg (State.withClusters · k) (if_neg h').symm))
      rfl

theorem State.withClusters_part (s : State) (k : FMap Cluster) (v : Nat) : (s.withClusters k).part v = s.part v := rfl
theorem State.withClusters_modPart (s : State) (k : FMap Cluster) (v : Nat) (f : Part → Part) :
    (s.withClusters k).modPart v f = (s.modPart v f).withClusters k := rfl
theorem State.withClusters_hbmWrite (s : State) (k : FMap Cluster) (a : Nat) (bs : List Byte) :
    (s.withClusters k).hbmWrite a bs = (s.hbmWrite a bs).withClusters k := rfl

/-- The same records in a state with other clusters. -/
theorem faultRecord_clusters (s : State) (k : FMap Cluster) (v : Nat) (ws : List Word) :
    (s.withClusters k).faultRecord v ws = (s.faultRecord v ws).withClusters k := by
  simp only [State.faultRecord, State.withClusters_part, State.withClusters_modPart, State.withClusters_hbmWrite, raise_clusters]
  exact (apply_ite (State.withClusters · k) _ _ _).symm

/-- A list of records, partition and words each. -/
def State.records (s : State) : List (Nat × List Word) → State
  | [] => s
  | r :: rs => (s.faultRecord r.1 r.2).records rs

theorem records_foldl (s : State) (rs : List (Nat × List Word)) : rs.foldl (fun u r => u.faultRecord r.1 r.2) s = s.records rs := by
  induction rs generalizing s with
  | nil => rfl
  | cons r rs ih => exact ih _

theorem recordsOnly_foldl {α : Type} (f : State → α → State) (l : List α) (h : ∀ s a, RecordsOnly s (f s a)) (s : State) :
    RecordsOnly s (l.foldl f s) := by
  induction l generalizing s with
  | nil => exact .refl s
  | cons a r ih => exact .trans (h s a) (ih _)

theorem recordsOnly_records (s : State) (rs : List (Nat × List Word)) : RecordsOnly s (s.records rs) := by
  induction rs generalizing s with
  | nil => exact .refl s
  | cons r rs ih => exact .trans (recordsOnly_faultRecord ..) (ih _)

theorem records_clusters (s : State) (k : FMap Cluster) (rs : List (Nat × List Word)) :
    (s.withClusters k).records rs = (s.records rs).withClusters k := by
  induction rs generalizing s with
  | nil => rfl
  | cons r rs ih =>
    rw [State.records, faultRecord_clusters, ih, State.records]

theorem records_append (s : State) (rs qs : List (Nat × List Word)) : s.records (rs ++ qs) = (s.records rs).records qs := by
  simp only [← records_foldl, List.foldl_append]

theorem recordsOnly_engineRecord (s : State) (v k kind unit cause : Nat) (a : Word) :
    RecordsOnly s (s.engineRecord v k kind unit cause a) := recordsOnly_faultRecord _ _ _

theorem recordsOnly_haltSaver (s : State) (v k i : Nat) (ts : List Nat) : RecordsOnly s (s.haltSaver v k i ts) := by
  unfold State.haltSaver
  split
  · exact .refl s
  · dsimp only
    split
    · exact recordsOnly_engineRecord ..
    · exact .trans (recordsOnly_hbmWrite s _ _) (recordsOnly_engineRecord ..)

theorem recordsOnly_haltSave (s : State) (v k : Nat) : RecordsOnly s (s.haltSave v k) := by
  unfold State.haltSave
  split
  · exact recordsOnly_foldl _ _ (fun s c => recordsOnly_haltSaver ..) s
  · exact .refl s

theorem recordsOnly_haltRecord (s : State) (v k kind c unit : Nat) : RecordsOnly s (s.haltRecord v k kind c unit) := by
  unfold State.haltRecord
  generalize (s.cluster c).wrote.contains _ = b
  cases b
  · exact recordsOnly_engineRecord ..
  · exact .refl s

theorem recordsOnly_tileRecord (s : State) (t cause orig : Nat) (a : Word) : RecordsOnly s (s.tileRecord t cause orig a) :=
  recordsOnly_faultRecord _ _ _

/-- What records do not change, in the terms that records are made of. -/
theorem RecordsOnly.stopTail {s u : State} (h : RecordsOnly s u) (v k : Nat) : u.stopTail v k = s.stopTail v k := by
  obtain ⟨a, b, c, hp⟩ := h.part v
  simp [State.stopTail, State.launchHandle, State.lslot, State.seqCtx, Part.seqNo, hp, h.cycle, h.seqs]

theorem RecordsOnly.physId {s u : State} (h : RecordsOnly s u) (t : Nat) : u.physId t = s.physId t := by
  obtain ⟨b, m, hm⟩ := h.modl
  simp [State.physId, hm]

theorem RecordsOnly.lslot {s u : State} (h : RecordsOnly s u) (v k : Nat) : u.lslot v k = s.lslot v k := by
  obtain ⟨a, b, c, hp⟩ := h.part v
  simp [State.lslot, State.seqCtx, Part.seqNo, hp, h.seqs]

theorem RecordsOnly.cluster {s u : State} (h : RecordsOnly s u) (c : Nat) : u.cluster c = s.cluster c := by
  simp [State.cluster, h.clusters]

/-- The record of a tile that the halt stops (R327, R328). -/
def State.tileStop (s : State) (t : Nat) : Nat × List Word :=
  ((s.tile t).part.toNat, [stopHead 1 0 0 (s.tile t).th.lvl.num (s.tile t).rank.toNat (s.physId t), (s.tile t).th.bank.pc, 0,
    s.stopTail (s.tile t).part.toNat (s.tile t).slot.toNat])

theorem RecordsOnly.tileStop {s u : State} (h : RecordsOnly s u) (t : Nat) : u.tileStop t = s.tileStop t := by
  obtain ⟨d, hd⟩ := h.tile t
  simp only [State.tileStop, h.stopTail, h.physId, hd]

theorem tileRecord_eq (s : State) (t : Nat) : s.tileRecord t 0 0 0 = s.records [s.tileStop t] := rfl

/-- A list of steps that write records of a state is a list of records. -/
theorem foldl_records {α : Type} (s : State) (f : State → α → State) (g : α → List (Nat × List Word))
    (h : ∀ u a, RecordsOnly s u → f u a = u.records (g a)) (l : List α) (u : State) (hu : RecordsOnly s u) :
    l.foldl f u = u.records (l.flatMap g) := by
  induction l generalizing u with
  | nil => rfl
  | cons a r ih =>
    rw [List.foldl_cons, List.flatMap_cons, records_append, h u a hu]
    exact ih _ (hu.trans (recordsOnly_records ..))

/-- The records of the tiles that the halt stops. -/
def State.tileStops (s : State) (v : Nat) : List (Nat × List Word) :=
  (s.partTiles v).flatMap fun e => if e.2.run = .stopped then [] else [s.tileStop e.1]

theorem haltTiles_eq (s : State) (v : Nat) : s.haltTiles v = s.records (s.tileStops v) := by
  refine foldl_records s _ _ (fun u e hu => ?_) _ s (.refl s)
  by_cases h : e.2.run = .stopped
  · simp [h, State.records]
  · simp only [if_neg h, tileRecord_eq, hu.tileStop]

/-- The record of an engine of a cluster that the halt stops, unless its kill has written one. -/
def State.engineStop (s : State) (v k kind c unit : Nat) : List (Nat × List Word) :=
  if killKey kind unit k ∈ (s.cluster c).wrote then []
  else [(v, [stopHead kind 0 0 0 0 (s.physId (4 * c + unit)), 0, 0, s.stopTail v k])]

theorem mem_engineStop (s : State) (v k kind c unit : Nat) (r : Nat × List Word) :
    r ∈ s.engineStop v k kind c unit ↔ killKey kind unit k ∉ (s.cluster c).wrote ∧
      r = (v, [stopHead kind 0 0 0 0 (s.physId (4 * c + unit)), 0, 0, s.stopTail v k]) := by
  unfold State.engineStop
  by_cases h : killKey kind unit k ∈ (s.cluster c).wrote
  · rw [if_pos h]; simp [h]
  · rw [if_neg h]; simp [h]

theorem haltRecord_eq (s u : State) (h : RecordsOnly s u) (v k kind c unit : Nat) :
    u.haltRecord v k kind c unit = u.records (s.engineStop v k kind c unit) := by
  unfold State.haltRecord State.engineStop
  simp only [h.cluster, List.contains_iff_mem]
  by_cases hm : killKey kind unit k ∈ (s.cluster c).wrote
  · rw [if_pos hm, if_pos hm, State.records]
  · rw [if_neg hm, if_neg hm, ← h.physId, ← h.stopTail]; rfl

/-! ### The engines of a cluster -/

/-- A table of clusters that differs from a state's in the arrays that a halt has stopped. -/
def ArraysStopped (s : State) (k : FMap Cluster) : Prop :=
  ∀ c, fget Cluster.reset k c = s.cluster c ∨ ∃ h, (s.cluster c).arr.holder = some h ∧
    fget Cluster.reset k c = { s.cluster c with arr := { MatArray.reset with last := h } }

theorem ArraysStopped.refl (s : State) : ArraysStopped s s.clusters := fun _ => .inl rfl

theorem ArraysStopped.same {s : State} {k : FMap Cluster} (h : ArraysStopped s k) (c : Nat) :
    ∃ a, fget Cluster.reset k c = { s.cluster c with arr := a } := by
  obtain h | ⟨_, _, h⟩ := h c
  · exact ⟨_, h⟩
  · exact ⟨_, h⟩

theorem foldl_records_with {α : Type} (s : State) (k : FMap Cluster) (f : State → α → State) (g : α → List (Nat × List Word))
    (h : ∀ u a, RecordsOnly s u → f (u.withClusters k) a = (u.records (g a)).withClusters k) (l : List α) (u : State)
    (hu : RecordsOnly s u) : l.foldl f (u.withClusters k) = (u.records (l.flatMap g)).withClusters k := by
  induction l generalizing u with
  | nil => rfl
  | cons a r ih =>
    rw [List.foldl_cons, List.flatMap_cons, records_append, h u a hu]
    exact ih _ (hu.trans (recordsOnly_records ..))

theorem haltRecord_with (s u : State) (k : FMap Cluster) (hu : RecordsOnly s u) (hk : ArraysStopped s k) (v m kind c unit : Nat) :
    (u.withClusters k).haltRecord v m kind c unit = (u.records (s.engineStop v m kind c unit)).withClusters k := by
  rw [← haltRecord_eq s u hu]
  obtain ⟨a, ha⟩ := hk.same c
  have h1 : ((u.withClusters k).cluster c).wrote = (u.cluster c).wrote := by
    rw [hu.cluster, show (u.withClusters k).cluster c = _ from ha]
  unfold State.haltRecord
  simp only [h1]
  by_cases h : (u.cluster c).wrote.contains (killKey kind unit m) = true
  · rw [if_pos h, if_pos h]
  · rw [if_neg h, if_neg h]
    exact faultRecord_clusters ..

theorem RecordsOnly.slot {s u : State} (h : RecordsOnly s u) (t : Nat) : (u.tile t).slot = (s.tile t).slot := by
  obtain ⟨d, hd⟩ := h.tile t
  rw [hd]

/-- The records of the copy channels of a cluster. -/
def State.channelStops (s : State) (v c : Nat) : List (Nat × List Word) :=
  ([0, 1, 2, 3] : List Nat).flatMap fun n =>
    match vget (s.cluster c).chans n with
    | none => []
    | some id =>
      match s.op? c id with
      | none => []
      | some o => s.engineStop v (s.tile o.tile.toNat).slot.toNat 3 c n

theorem haltChannels_with (s u : State) (k : FMap Cluster) (hu : RecordsOnly s u) (hk : ArraysStopped s k) (v c : Nat) :
    (u.withClusters k).haltChannels v c = (u.records (s.channelStops v c)).withClusters k := by
  refine foldl_records_with s k _ _ (fun u n hu => ?_) _ u hu
  obtain ⟨a, ha⟩ := hk.same c
  have hc : (u.withClusters k).cluster c = { s.cluster c with arr := a } := ha
  rw [show vget ((u.withClusters k).cluster c).chans n = vget (s.cluster c).chans n by rw [hc]]
  cases vget (s.cluster c).chans n with
  | none => rfl
  | some id =>
    have ho : (u.withClusters k).op? c id = s.op? c id := by
      unfold State.op?; rw [hc]
    dsimp only
    rw [ho]
    cases s.op? c id with
    | none => rfl
    | some o =>
      dsimp only
      rw [show ((u.withClusters k).tile o.tile.toNat).slot = (s.tile o.tile.toNat).slot from hu.slot _]
      exact haltRecord_with s u k hu hk ..

/-- The records of the port of a cluster. -/
def State.portStops (s : State) (v c : Nat) : List (Nat × List Word) :=
  (s.portLaunches c).flatMap fun m => s.engineStop v m 4 c 0

theorem haltPort_with (s u : State) (k : FMap Cluster) (hu : RecordsOnly s u) (hk : ArraysStopped s k) (v c : Nat) :
    (u.withClusters k).haltPort v c = (u.records (s.portStops v c)).withClusters k := by
  obtain ⟨a, ha⟩ := hk.same c
  have hc : (u.withClusters k).cluster c = { s.cluster c with arr := a } := ha
  have hp : (u.withClusters k).portLaunches c = s.portLaunches c := by
    unfold State.portLaunches
    rw [hc]
    simp only [show ∀ t, ((u.withClusters k).tile t).slot = (s.tile t).slot from fun t => hu.slot t]
  unfold State.haltPort
  rw [hp]
  exact foldl_records_with s k _ _ (fun u n hu => haltRecord_with s u k hu hk ..) _ u hu

/-- The records of the array of a cluster, for a table of clusters in which it may have been stopped. -/
def State.arrayStops (s : State) (k : FMap Cluster) (v c : Nat) : List (Nat × List Word) :=
  match (fget Cluster.reset k c).arr.holder with
  | none => []
  | some h => s.engineStop v (s.tile (4 * c + h.toNat)).slot.toNat 2 c 0

/-- The table of clusters after the halt of one array. -/
def stopArray (k : FMap Cluster) (c : Nat) : FMap Cluster :=
  match (fget Cluster.reset k c).arr.holder with
  | none => k
  | some h => fput k c { fget Cluster.reset k c with arr := { MatArray.reset with last := h } }

theorem haltArray_with (s u : State) (k : FMap Cluster) (hu : RecordsOnly s u) (hk : ArraysStopped s k) (v c : Nat) :
    (u.withClusters k).haltArray v c = (u.records (s.arrayStops k v c)).withClusters (stopArray k c) := by
  unfold State.haltArray State.arrayStops stopArray
  rw [show (u.withClusters k).cluster c = fget Cluster.reset k c from rfl]
  cases (fget Cluster.reset k c).arr.holder with
  | none => rfl
  | some h =>
    dsimp only
    rw [show ((u.withClusters k).tile (4 * c + h.toNat)).slot = (s.tile (4 * c + h.toNat)).slot from hu.slot _,
      haltRecord_with s u k hu hk]
    rfl

theorem ArraysStopped.stop {s : State} {k : FMap Cluster} (h : ArraysStopped s k) (c : Nat) : ArraysStopped s (stopArray k c) := by
  intro d
  unfold stopArray
  cases hh : (fget Cluster.reset k c).arr.holder with
  | none => exact h d
  | some m =>
    by_cases hd : d = c
    · subst d
      rw [fget_fput_self]
      obtain hc | ⟨_, _, hc⟩ := h c
      · exact .inr ⟨m, hc ▸ hh, by rw [hc]⟩
      · rw [hc] at hh; exact absurd hh (by simp [MatArray.reset])
    · rw [fget_fput_ne _ _ _ _ _ hd]; exact h d

theorem arrayStops_stop_self (s : State) (k : FMap Cluster) (v c : Nat) : s.arrayStops (stopArray k c) v c = [] := by
  unfold State.arrayStops stopArray
  cases hh : (fget Cluster.reset k c).arr.holder with
  | none => simp [hh]
  | some m => simp [MatArray.reset]

theorem arrayStops_stop_ne (s : State) (k : FMap Cluster) (v c d : Nat) (h : d ≠ c) :
    s.arrayStops (stopArray k c) v d = s.arrayStops k v d := by
  unfold State.arrayStops stopArray
  cases (fget Cluster.reset k c).arr.holder with
  | none => rfl
  | some m => simp [h]

/-- The records of the engines of a list of clusters, from a table of clusters. -/
def State.clusterStops (s : State) (v : Nat) : FMap Cluster → List Nat → List (Nat × List Word)
  | _, [] => []
  | k, c :: r => s.arrayStops k v c ++ s.channelStops v c ++ s.portStops v c ++ s.clusterStops v (stopArray k c) r

/-- Which records those are: of every array held, every channel at work and every launch with entries at a port. -/
theorem mem_clusterStops (s : State) (v : Nat) (k : FMap Cluster) (cs : List Nat) (r : Nat × List Word) :
    r ∈ s.clusterStops v k cs ↔
      ∃ c ∈ cs, r ∈ s.arrayStops k v c ∨ r ∈ s.channelStops v c ∨ r ∈ s.portStops v c := by
  induction cs generalizing k with
  | nil => simp [State.clusterStops]
  | cons c cs ih =>
    simp only [State.clusterStops, List.mem_append, List.mem_cons, ih]
    constructor
    · rintro (((h | h) | h) | ⟨d, hd, h⟩)
      · exact ⟨c, .inl rfl, .inl h⟩
      · exact ⟨c, .inl rfl, .inr (.inl h)⟩
      · exact ⟨c, .inl rfl, .inr (.inr h)⟩
      · by_cases e : d = c
        · subst d; rw [arrayStops_stop_self] at h
          exact ⟨c, .inl rfl, .inr (by simpa using h)⟩
        · rw [arrayStops_stop_ne _ _ _ _ _ e] at h
          exact ⟨d, .inr hd, h⟩
    · rintro ⟨d, hd, h⟩
      by_cases e : d = c
      · subst d; obtain h | h | h := h
        · exact .inl (.inl (.inl h))
        · exact .inl (.inl (.inr h))
        · exact .inl (.inr h)
      · refine .inr ⟨d, hd.resolve_left e, ?_⟩
        rwa [arrayStops_stop_ne _ _ _ _ _ e]

/-- The clusters of a halting partition: their records are written, their arrays stopped. -/
theorem haltClusters_with (s : State) (v : Nat) (cs : List Nat) (k : FMap Cluster) (hk : ArraysStopped s k) (u : State)
    (hu : RecordsOnly s u) :
    cs.foldl (fun u c => ((u.haltArray v c).haltChannels v c).haltPort v c) (u.withClusters k) =
      (u.records (s.clusterStops v k cs)).withClusters (cs.foldl stopArray k) := by
  induction cs generalizing k u with
  | nil => rfl
  | cons c cs ih =>
    have h1 := hu.trans (recordsOnly_records u (s.arrayStops k v c))
    have h2 := h1.trans (recordsOnly_records _ (s.channelStops v c))
    have h3 := h2.trans (recordsOnly_records _ (s.portStops v c))
    rw [List.foldl_cons, haltArray_with s u k hu hk, haltChannels_with s _ _ h1 (hk.stop c),
      haltPort_with s _ _ h2 (hk.stop c), ih _ (hk.stop c) _ h3, State.clusterStops, records_append, records_append,
      records_append]
    rfl

theorem ArraysStopped.foldl {s : State} {k : FMap Cluster} (h : ArraysStopped s k) (cs : List Nat) :
    ArraysStopped s (cs.foldl stopArray k) := by
  induction cs generalizing k with
  | nil => exact h
  | cons c cs ih => exact ih (h.stop c)

theorem stopArray_holder (k : FMap Cluster) (c d : Nat) (h : (fget Cluster.reset k d).arr.holder = none ∨ d = c) :
    (fget Cluster.reset (stopArray k c) d).arr.holder = none := by
  unfold stopArray
  cases hh : (fget Cluster.reset k c).arr.holder with
  | none => obtain h | h := h
            · exact h
            · subst d; exact hh
  | some m =>
    by_cases e : d = c
    · subst d; rw [fget_fput_self]; rfl
    · rw [fget_fput_ne _ _ _ _ _ e]; exact h.resolve_right e

theorem foldl_stopArray_holder (cs : List Nat) (k : FMap Cluster) (d : Nat)
    (h : (fget Cluster.reset k d).arr.holder = none ∨ d ∈ cs) :
    (fget Cluster.reset (cs.foldl stopArray k) d).arr.holder = none := by
  induction cs generalizing k with
  | nil => simpa using h
  | cons c cs ih =>
    refine ih _ ?_
    by_cases hd : d ∈ cs
    · exact .inr hd
    · refine .inl (stopArray_holder k c d ?_)
      simp only [List.mem_cons, hd, or_false] at h
      exact h

/-! ### The save engine -/

theorem engineRecord_with (u : State) (k : FMap Cluster) (v m kind unit cause : Nat) (a : Word) :
    (u.withClusters k).engineRecord v m kind unit cause a = (u.engineRecord v m kind unit cause a).withClusters k :=
  faultRecord_clusters u k v [stopHead kind cause 0 0 0 (u.physId unit), 0, a, u.stopTail v m]

theorem haltSaver_with (u : State) (k : FMap Cluster) (v m i : Nat) (ts : List Nat) :
    (u.withClusters k).haltSaver v m i ts = (u.haltSaver v m i ts).withClusters k := by
  unfold State.haltSaver
  rw [show (fun t => !(u.withClusters k).imageWhole v m t) = fun t => !u.imageWhole v m t from rfl]
  cases (ts.find? fun t => !u.imageWhole v m t).or ts.getLast? with
  | none => rfl
  | some t =>
    dsimp only
    rw [show (u.withClusters k).imageWhole v m t = u.imageWhole v m t from rfl]
    cases u.imageWhole v m t
    · exact engineRecord_with (u.hbmWrite ((u.part v).saveBase t i) (leBytes 8 0)) k v m 5 (t / 4 * 4) 0
        (BitVec.ofNat 64 ((u.part v).saveBase t i + fget 0 (u.lslot v m).saving t))
    · exact engineRecord_with u k v m 5 (t / 4 * 4) 0 (BitVec.ofNat 64 ((u.part v).saveBase t i + fget 0 (u.lslot v m).saving t))

theorem haltSave_with (u : State) (k : FMap Cluster) (v m : Nat) :
    (u.withClusters k).haltSave v m = (u.haltSave v m).withClusters k := by
  unfold State.haltSave
  rw [show (u.withClusters k).lslot v m = u.lslot v m from rfl, show (u.withClusters k).ranks v m = u.ranks v m from rfl]
  split
  · dsimp only
    generalize (((u.ranks v m).map Prod.fst).map (· / 4)).dedup = l
    rename_i i _ _
    suffices ∀ w : State, l.foldl (fun s c => s.haltSaver v m i (((u.ranks v m).map Prod.fst).filter fun t => t / 4 == c)) (w.withClusters k) =
        (l.foldl (fun s c => s.haltSaver v m i (((u.ranks v m).map Prod.fst).filter fun t => t / 4 == c)) w).withClusters k from this u
    intro w
    induction l generalizing w with
    | nil => rfl
    | cons c l ih => rw [List.foldl_cons, List.foldl_cons, haltSaver_with, ih]
  · rfl

/-- The saves that a halt finds under way. -/
def State.haltSaves (s : State) (v : Nat) : State :=
  (List.range 16).foldl (fun u k => if (u.lslot v k).st = .running then u.haltSave v k else u) s

theorem recordsOnly_haltSaves (s : State) (v : Nat) : RecordsOnly s (s.haltSaves v) :=
  recordsOnly_foldl (fun u k => if (u.lslot v k).st = .running then u.haltSave v k else u) _ (fun u k => by
    split
    · exact recordsOnly_haltSave ..
    · exact .refl u) s

theorem haltSaves_with (u : State) (k : FMap Cluster) (v : Nat) :
    (u.withClusters k).haltSaves v = (u.haltSaves v).withClusters k := by
  unfold State.haltSaves
  generalize List.range 16 = l
  induction l generalizing u with
  | nil => rfl
  | cons m l ih =>
    rw [List.foldl_cons, List.foldl_cons, show (u.withClusters k).lslot v m = u.lslot v m from rfl]
    split
    · rw [haltSave_with, ih]
    · exact ih u

/-- Everything that a halt writes before it discards: the records of the tiles and of the clusters, then those of the saves
under way. -/
def State.haltStops (s : State) (v : Nat) : List (Nat × List Word) :=
  s.tileStops v ++ s.clusterStops v s.clusters ((s.part v).map.map BitVec.toNat)

theorem haltPartition_eq (s : State) (v : Nat) :
    s.haltPartition v = ((((((s.records (s.haltStops v)).haltSaves v).withClusters
      (((s.part v).map.map BitVec.toNat).foldl stopArray s.clusters)).discard v).killLaunches v).raise v 1) := by
  have h : RecordsOnly s (s.haltTiles v) := haltTiles_eq s v ▸ recordsOnly_records ..
  have hc : s.haltTiles v = (s.haltTiles v).withClusters s.clusters :=
    (show s.haltTiles v = (s.haltTiles v).withClusters (s.haltTiles v).clusters from rfl).trans (by rw [h.clusters])
  have := haltClusters_with s v ((s.part v).map.map BitVec.toNat) s.clusters (.refl s) (s.haltTiles v) h
  rw [← hc] at this
  unfold State.haltPartition
  simp only [this]
  rw [haltTiles_eq, ← records_append, ← haltSaves_with]
  rfl

/-! ### What the halt discards -/

/-- A state that differs from another only in a context, but for its posted writes, and in what a done record changes. -/
structure ContextOnly (s u : State) : Prop where
  hbm : u.hbm = s.hbm
  tiles : u.tiles = s.tiles
  clusters : u.clusters = s.clusters
  cycle : u.cycle = s.cycle
  flows : u.flows = s.flows
  reqs : u.reqs = s.reqs
  notes : u.notes = s.notes
  ctMsgs : u.ctMsgs = s.ctMsgs
  part : ∀ v, ∃ o i, u.part v = { s.part v with outbox := o, isr := i }
  modl : ∃ m, u.modl = { s.modl with msix := m }
  posts : ∀ q, (u.seqCtx q).th.posts = (s.seqCtx q).th.posts
  slot : ∀ q k, k < 16 → ((s.seqCtx q).slot k).st ≠ .complete → ((s.seqCtx q).slot k).st ≠ .killed →
    ((u.seqCtx q).slot k).st = ((s.seqCtx q).slot k).st

theorem ContextOnly.refl (s : State) : ContextOnly s s :=
  ⟨rfl, rfl, rfl, rfl, rfl, rfl, rfl, rfl, fun _ => ⟨_, _, rfl⟩, ⟨_, rfl⟩, fun _ => rfl, fun _ _ _ _ _ => rfl⟩

theorem ContextOnly.trans {s t u : State} (h : ContextOnly s t) (k : ContextOnly t u) : ContextOnly s u := by
  refine ⟨k.hbm.trans h.hbm, k.tiles.trans h.tiles, k.clusters.trans h.clusters, k.cycle.trans h.cycle, k.flows.trans h.flows,
    k.reqs.trans h.reqs, k.notes.trans h.notes, k.ctMsgs.trans h.ctMsgs, fun v => ?_, ?_, fun q => (k.posts q).trans (h.posts q),
    fun q i hi h1 h2 => ?_⟩
  · obtain ⟨a, b, hd⟩ := h.part v
    obtain ⟨a', b', he⟩ := k.part v
    exact ⟨a', b', by rw [he, hd]⟩
  · obtain ⟨m, hd⟩ := h.modl
    obtain ⟨m', he⟩ := k.modl
    exact ⟨m', by rw [he, hd]⟩
  · have e := h.slot q i hi h1 h2
    rw [k.slot q i hi (e ▸ h1) (e ▸ h2), e]

/-- A change of a context that keeps its posted writes and the states of its live launches. -/
theorem contextOnly_modSeq (s : State) (q : Nat) (f : Seq → Seq) (hp : (f (s.seqCtx q)).th.posts = (s.seqCtx q).th.posts)
    (hs : ∀ k, k < 16 → ((s.seqCtx q).slot k).st ≠ .complete → ((s.seqCtx q).slot k).st ≠ .killed →
      ((f (s.seqCtx q)).slot k).st = ((s.seqCtx q).slot k).st) : ContextOnly s (s.modSeq q f) := by
  refine ⟨rfl, rfl, rfl, rfl, rfl, rfl, rfl, rfl, fun _ => ⟨_, _, rfl⟩, ⟨_, rfl⟩, fun r => ?_, fun r k hk h1 h2 => ?_⟩
  · by_cases h : r = q
    · subst h; rw [State.seqCtx_modSeq_self]; exact hp
    · rw [State.seqCtx_modSeq_ne _ _ _ _ h]
  · by_cases h : r = q
    · subst h; rw [State.seqCtx_modSeq_self]; exact hs k hk h1 h2
    · rw [State.seqCtx_modSeq_ne _ _ _ _ h]

theorem contextOnly_modPart (s : State) (v : Nat) (f : Part → Part)
    (h : ∀ p : Part, ∃ o i, f p = { p with outbox := o, isr := i }) : ContextOnly s (s.modPart v f) := by
  refine ⟨rfl, rfl, rfl, rfl, rfl, rfl, rfl, rfl, fun w => ?_, ⟨_, rfl⟩, fun _ => rfl, fun _ _ _ _ _ => rfl⟩
  by_cases hw : w = v
  · subst w; simpa using h (s.part v)
  · exact ⟨_, _, State.part_modPart_ne s v w f hw⟩

theorem contextOnly_raise (s : State) (v k : Nat) : ContextOnly s (s.raise v k) := by
  unfold State.raise
  split
  · exact .refl s
  · have h := contextOnly_modPart s v (fun p => { p with isr := p.isr ||| (1#4 <<< k) }) fun p => ⟨_, _, rfl⟩
    dsimp only
    split
    · exact h.trans ⟨rfl, rfl, rfl, rfl, rfl, rfl, rfl, rfl, fun _ => ⟨_, _, rfl⟩, ⟨_, rfl⟩, fun _ => rfl, fun _ _ _ _ _ => rfl⟩
    · exact h

theorem contextOnly_doneRecord (s : State) (q : Nat) (d : DoneRec) : ContextOnly s (s.doneRecord q d) := by
  unfold State.doneRecord
  split
  · exact contextOnly_modSeq s q _ rfl fun _ _ _ _ => rfl
  · split
    · rename_i v _ _
      exact ((contextOnly_modPart s v (fun p => { p with outbox := p.outbox ++ [d] }) fun p => ⟨_, _, rfl⟩).trans
        (contextOnly_raise _ v 0)).trans (contextOnly_modSeq _ q _ rfl fun _ _ _ _ => rfl)
    · exact contextOnly_modSeq s q _ rfl fun _ _ _ _ => rfl

theorem LSlot.leave_st (l : LSlot) (h1 : l.st ≠ .complete) (h2 : l.st ≠ .killed) : l.leave.st = l.st := by
  unfold LSlot.leave
  split <;> simp_all

theorem slot_ofFn (x : Seq) (f : Nat → LSlot) (k : Nat) (h : k < 16) :
    ({ x with slots := Vector.ofFn fun i => f i.val } : Seq).slot k = f k := by
  simp [Seq.slot, vget, h]

theorem contextOnly_seqStop (s : State) (q : Nat) (c : BitVec 8) (pc : Word) : ContextOnly s (s.seqStop q c pc) := by
  unfold State.seqStop
  refine .trans (contextOnly_modSeq s q (fun x => { x with
    running := false
    ending := none
    slots := Vector.ofFn fun k => (x.slot k.val).leave
    th := { x.th.dropLoops with b0 := { x.th.b0 with pend := [], loads := [] } } }) rfl fun k hk h1 h2 => ?_) (contextOnly_doneRecord ..)
  rw [← LSlot.leave_st _ h1 h2]
  exact congrArg LSlot.st (slot_ofFn (s.seqCtx q) (fun i => ((s.seqCtx q).slot i).leave) k hk)

theorem contextOnly_readLoad (s : State) (q : BitVec 6) (l : Load) : ContextOnly s (s.readLoad (.seq q) l) := by
  unfold State.readLoad
  split
  · unfold State.loadDamage
    dsimp only
    split
    · exact contextOnly_seqStop ..
    · exact .refl s
  · exact contextOnly_modSeq s q.toNat
      (fun x => { x with th := x.th.performed l.id (extend l.signed l.size (readLe s.hbm l.pa l.size)) }) rfl fun _ _ _ _ => rfl

theorem contextOnly_foldl {α : Type} (f : State → α → State) (l : List α) (h : ∀ s a, ContextOnly s (f s a)) (s : State) :
    ContextOnly s (l.foldl f s) := by
  induction l generalizing s with
  | nil => exact .refl s
  | cons a r ih => exact .trans (h s a) (ih _)

/-- The posted writes of a context are gone, and the atomics among them have read the word as it stands. -/
theorem contextOnly_discardPosts (s : State) (q : Nat) :
    ContextOnly (s.modThreadOf (.seq (BitVec.ofNat 6 q)) fun t => { t with posts := [] }) (s.discardPosts q) :=
  contextOnly_foldl _ _ (fun s l => contextOnly_readLoad ..) _

/-- Where no atomic is among them nothing else changes. -/
theorem discardPosts_stores (s : State) (q : Nat) (hq : q < 64) (h : ∀ p ∈ (s.seqCtx q).th.posts, ∃ bs, p.op = .store bs) :
    s.discardPosts q = s.modSeq q fun x => { x with th := { x.th with posts := [] } } := by
  have hq : (BitVec.ofNat 6 q).toNat = q := by simp; omega
  unfold State.discardPosts
  simp only [State.threadOf, hq]
  rw [List.filterMap_eq_nil_iff.2]
  · simp only [State.modThreadOf, hq]; rfl
  · intro p hp
    obtain ⟨bs, hb⟩ := h p hp
    rw [hb]

/-! ### Tiles freed and launches killed -/

theorem foldl_releaseTile (l : List (Nat × Tile)) (s : State) :
    let u := l.foldl (fun s e => s.releaseTile e.1) s
    u = { s with tiles := u.tiles } ∧ (∀ t, (∃ e ∈ l, e.1 = t) → ∃ x, u.tile t = Tile.release x) ∧
      ∀ t, (∀ e ∈ l, e.1 ≠ t) → u.tile t = s.tile t := by
  induction l generalizing s with
  | nil => exact ⟨rfl, by simp, by simp⟩
  | cons e l ih =>
    obtain ⟨h1, h2, h3⟩ := ih (s.releaseTile e.1)
    refine ⟨h1, fun t ht => ?_, fun t ht => ?_⟩
    · by_cases hl : ∃ d ∈ l, d.1 = t
      · exact h2 t hl
      · obtain ⟨d, hd, rfl⟩ := ht
        have : d = e := by
          rcases List.mem_cons.1 hd with h | h
          · exact h
          · exact absurd ⟨d, h, rfl⟩ hl
        subst this
        exact ⟨s.tile d.1, (h3 d.1 fun e he hh => hl ⟨e, he, hh⟩).trans (State.tile_modTile_self ..)⟩
    · rw [List.foldl_cons, h3 t fun d hd => ht d (List.mem_cons_of_mem _ hd)]
      exact State.tile_modTile_ne _ _ _ _ fun h => ht e (List.mem_cons_self ..) h.symm

theorem slot_setSlot (q : Seq) (k j : Nat) (l : LSlot) (h : k < 16) : (q.setSlot k l).slot j = if j = k then l else q.slot j := by
  unfold Seq.setSlot Seq.slot
  dsimp only
  split
  · subst j; exact @vget_vset_self _ ⟨LSlot.reset⟩ _ _ _ _ h
  · rename_i hj; exact @vget_vset_ne _ ⟨LSlot.reset⟩ _ _ _ _ _ hj

theorem lslot_modLslot (s : State) (v k j : Nat) (f : LSlot → LSlot) (h : k < 16) :
    (s.modLslot v k f).lslot v j = if j = k then f (s.lslot v k) else s.lslot v j := by
  show ((s.modSeq (s.part v).seqNo fun q => q.setSlot k (f (q.slot k))).seqCtx (s.part v).seqNo).slot j = _
  rw [State.seqCtx_modSeq_self, slot_setSlot _ _ _ _ h]
  rfl

/-- The running launches of a list of slots end KILLED; the others stay. -/
theorem foldl_kill (l : List Nat) (hl : l.Nodup) (h16 : ∀ k ∈ l, k < 16) (s : State) (v : Nat) :
    let u := l.foldl (fun s k => if (s.lslot v k).st = .running then s.modLslot v k fun l => l.retire .killed else s) s
    u = { s with seqs := u.seqs } ∧ (∀ q, (u.seqCtx q).th = (s.seqCtx q).th) ∧
      ∀ k, u.lslot v k = if k ∈ l ∧ (s.lslot v k).st = .running then (s.lslot v k).retire .killed else s.lslot v k := by
  induction l generalizing s with
  | nil => exact ⟨rfl, by simp, by simp⟩
  | cons k l ih =>
    obtain ⟨hk, hl⟩ := List.nodup_cons.1 hl
    have hk16 := h16 k (List.mem_cons_self ..)
    rw [List.foldl_cons]
    by_cases hr : (s.lslot v k).st = .running
    · rw [if_pos hr]
      obtain ⟨h1, h2, h3⟩ := ih hl (fun j hj => h16 j (List.mem_cons_of_mem _ hj)) (s.modLslot v k fun l => l.retire .killed)
      refine ⟨h1, fun q => (h2 q).trans ?_, fun j => ?_⟩
      · unfold State.modLslot
        by_cases hq : q = (s.part v).seqNo
        · subst q; rw [State.seqCtx_modSeq_self]
        · rw [State.seqCtx_modSeq_ne _ _ _ _ hq]
      · rw [h3, lslot_modLslot _ _ _ _ _ hk16]
        by_cases hj : j = k
        · subst j; simp [hk, hr]
        · simp [hj]
    · rw [if_neg hr]
      obtain ⟨h1, h2, h3⟩ := ih hl (fun j hj => h16 j (List.mem_cons_of_mem _ hj)) s
      refine ⟨h1, h2, fun j => ?_⟩
      rw [h3]
      by_cases hj : j = k
      · subst j; simp [hk, hr]
      · simp [hj]

theorem foldl_emptied (cs : List (BitVec 9)) (s : State) :
    let u := cs.foldl (fun s c => s.modCluster c.toNat Cluster.emptied) s
    u = { s with clusters := u.clusters } ∧
      ∀ d, u.cluster d = if d ∈ cs.map BitVec.toNat then (s.cluster d).emptied else s.cluster d := by
  induction cs generalizing s with
  | nil => exact ⟨rfl, by simp⟩
  | cons c cs ih =>
    obtain ⟨h1, h2⟩ := ih (s.modCluster c.toNat Cluster.emptied)
    refine ⟨h1, fun d => ?_⟩
    rw [List.foldl_cons, h2, List.map_cons]
    by_cases hd : d = c.toNat
    · subst hd; simp [State.cluster_modCluster_self, Cluster.emptied]
    · rw [State.cluster_modCluster_ne _ _ _ _ hd]; simp [hd]

/-- What the end of the running launches of a partition does: its tiles are free, its running launches KILLED (R312, R327). -/
theorem killLaunches_spec (s : State) (v : Nat) :
   let u := s.killLaunches v
   (∃ T S, u = { s with tiles := T, seqs := S }) ∧
   (∀ t, (∃ e ∈ s.partTiles v, e.1 = t) → ∃ x, u.tile t = Tile.release x) ∧
   (∀ t, (∀ e ∈ s.partTiles v, e.1 ≠ t) → u.tile t = s.tile t) ∧
   (∀ q, (u.seqCtx q).th = (s.seqCtx q).th) ∧
   ∀ k, k < 16 → u.lslot v k = if (s.lslot v k).st = .running then (s.lslot v k).retire .killed else s.lslot v k := by
  intro u
  obtain ⟨a1, a2, a3⟩ := foldl_releaseTile (s.partTiles v) s
  generalize hm : (s.partTiles v).foldl (fun s e => s.releaseTile e.1) s = m at a1 a2 a3
  obtain ⟨b1, b2, b3⟩ := foldl_kill (List.range 16) List.nodup_range (fun k hk => List.mem_range.1 hk) m v
  have hu : u = (List.range 16).foldl (fun s k => if (s.lslot v k).st = .running then s.modLslot v k fun l => l.retire .killed else s) m := by
    show s.killLaunches v = _
    unfold State.killLaunches
    rw [hm]
  rw [← hu] at b1 b2 b3
  clear_value u
  have ht : ∀ t, u.tile t = m.tile t := fun t => by rw [b1]; rfl
  have hs : ∀ q, m.seqCtx q = s.seqCtx q := fun q => by rw [a1]; rfl
  have hl : ∀ k, m.lslot v k = s.lslot v k := fun q => by rw [a1]; rfl
  refine ⟨⟨m.tiles, u.seqs, ?_⟩, fun t h => ?_, fun t h => ?_, fun q => ?_, fun k hk => ?_⟩
  · rw [b1]
    conv => lhs; rw [a1]
  · rw [ht]; exact a2 t h
  · rw [ht]; exact a3 t h
  · rw [b2, hs]
  · rw [b3, hl]; simp [hk]

/-- What the halt discards of a partition (R327), and what of its context and its launches it leaves. -/
theorem discard_spec (s : State) (v : Nat) :
   let u := s.discard v
   let p := s.part v
   u.hbm = s.hbm ∧ u.tiles = s.tiles ∧ u.cycle = s.cycle ∧
   (∀ d, u.cluster d = if d ∈ p.map.map BitVec.toNat then (s.cluster d).emptied else s.cluster d) ∧
   u.flows = s.flows.filter (fun f => !p.hasTile (f.1 / 2048)) ∧
   u.reqs = s.reqs.filter (fun m => !p.hasTile m.origin.toNat) ∧
   u.notes = s.notes.filter (fun n => !p.hasTile n.owner.toNat) ∧
   u.ctMsgs = s.ctMsgs.filter (fun m => !s.ownsPeer v m.src && !s.ownsPeer v m.dst) ∧
   (∃ m, u.modl = { s.modl.dropPackets (fun m => s.ownsPeer v m.src) with msix := m }) ∧
   (∀ v, ∃ o i, u.part v = { s.part v with outbox := o, isr := i }) ∧
   (u.seqCtx p.seqNo).th.posts = [] ∧
   (∀ k, k < 16 → (s.lslot v k).st ≠ .complete → (s.lslot v k).st ≠ .killed → (u.lslot v k).st = (s.lslot v k).st) ∧
   ((∀ q ∈ (s.seqCtx p.seqNo).th.posts, ∃ bs, q.op = .store bs) → ∀ k, u.lslot v k = s.lslot v k) := by
  intro u p
  have hq : p.seqNo < 64 := by unfold Part.seqNo; have := (p.seqsel.extractLsb' 4 3).isLt; have := (p.seqsel.extractLsb' 0 3).isLt; omega
  have hqn : (BitVec.ofNat 6 p.seqNo).toNat = p.seqNo := by simp; omega
  let x0 : State := { s with
    flows := s.flows.filter fun f => !p.hasTile (f.1 / 2048)
    reqs := s.reqs.filter fun m => !p.hasTile m.origin.toNat
    notes := s.notes.filter fun n => !p.hasTile n.owner.toNat
    ctMsgs := s.ctMsgs.filter fun m => !s.ownsPeer v m.src && !s.ownsPeer v m.dst
    modl := s.modl.dropPackets fun m => s.ownsPeer v m.src }
  obtain ⟨a1, a2⟩ := foldl_emptied p.map (x0.discardPosts p.seqNo)
  have hu : u = p.map.foldl (fun s c => s.modCluster c.toNat Cluster.emptied) (x0.discardPosts p.seqNo) := rfl
  rw [← hu] at a1 a2
  clear_value u
  have C := contextOnly_discardPosts x0 p.seqNo
  generalize hd : x0.discardPosts p.seqNo = d at C a1 a2
  obtain ⟨o, i, hpv⟩ := C.part v
  have hseq : ∀ w : State, (∃ o i, w.part v = { s.part v with outbox := o, isr := i }) → ∀ k, w.lslot v k = (w.seqCtx p.seqNo).slot k := by
    rintro w ⟨o, i, h⟩ k
    simp [State.lslot, Seq.slot, Part.seqNo, h, p]
  have hpu : ∀ v, ∃ o i, u.part v = { s.part v with outbox := o, isr := i } := by
    intro v
    obtain ⟨o, i, h⟩ := C.part v
    exact ⟨o, i, by rw [a1]; exact h⟩
  have hus : ∀ q, u.seqCtx q = d.seqCtx q := fun q => by rw [a1]; rfl
  refine ⟨?_, ?_, ?_, ?_, ?_, ?_, ?_, ?_, ?_, hpu, ?_, fun k hk h1 h2 => ?_, fun hs k => ?_⟩
  · rw [a1]; exact C.hbm
  · rw [a1]; exact C.tiles
  · rw [a1]; exact C.cycle
  · intro e; rw [a2]
    have : d.cluster e = s.cluster e := by simp only [State.cluster, C.clusters]; rfl
    rw [this]
  · rw [a1]; exact C.flows
  · rw [a1]; exact C.reqs
  · rw [a1]; exact C.notes
  · rw [a1]; exact C.ctMsgs
  · obtain ⟨m, h⟩ := C.modl; exact ⟨m, by rw [a1]; exact h⟩
  · rw [hus, C.posts]
    simp [State.modThreadOf, hqn]
  · rw [hseq u (hpu v), hus, hseq s ⟨_, _, rfl⟩]
    have e0 : ((x0.modThreadOf (.seq (BitVec.ofNat 6 p.seqNo)) fun t => { t with posts := [] }).seqCtx p.seqNo).slot k = (s.seqCtx p.seqNo).slot k := by
      simp [State.modThreadOf, hqn]; rfl
    have := C.slot p.seqNo k hk (by rw [e0, ← hseq s ⟨_, _, rfl⟩]; exact h1) (by rw [e0, ← hseq s ⟨_, _, rfl⟩]; exact h2)
    rw [this, e0]
  · rw [hseq u (hpu v), hus, hseq s ⟨_, _, rfl⟩, ← hd, discardPosts_stores x0 _ hq hs]
    simp; rfl

/-- The fault vector that has been raised stands in ISR. -/
theorem raise_isr (k : State) (n : Nat) : ((k.raise n 1).part n).isr.getLsbD 1 = true := by
  by_cases h : (k.part n).isr.getLsbD 1 = true
  · rw [State.raise, if_pos h]; exact h
  · rw [State.raise, if_neg h]
    dsimp only
    have e : ((k.modPart n fun p => { p with isr := p.isr ||| (1#4 <<< 1) }).part n).isr.getLsbD 1 = true := by
      rw [State.part_modPart_self]; simp
    generalize (k.modPart n fun p => { p with isr := p.isr ||| (1#4 <<< 1) }) = u at e ⊢
    split
    · exact e
    · exact e

/-- Records leave the tiles of a partition bound. -/
theorem mem_partTiles_iff (s u : State) (h : RecordsOnly s u) (v t : Nat) :
    (∃ e ∈ u.partTiles v, e.1 = t) ↔ ∃ e ∈ s.partTiles v, e.1 = t := by
  have key : ∀ w : State, (∃ e ∈ w.partTiles v, e.1 = t) ↔
      ∃ e ∈ w.tiles.map (fun e => (e.1, e.2.run, e.2.part, e.2.slot)), e.1 = t ∧ e.2.1 ≠ .free ∧ e.2.2.1.toNat = v := by
    intro w
    simp only [State.partTiles, List.mem_filter, List.mem_map, Bool.and_eq_true, bne_iff_ne, beq_iff_eq]
    constructor
    · rintro ⟨e, ⟨h1, h2, h3⟩, rfl⟩; exact ⟨_, ⟨e, h1, rfl⟩, rfl, h2, h3⟩
    · rintro ⟨_, ⟨e, h1, rfl⟩, rfl, h2, h3⟩; exact ⟨e, ⟨h1, h2, h3⟩, rfl⟩
  rw [key, key, h.listed]

end Sys2Proof.Machine
end

