-- ==== Sys2Proof/Laws/Issue.lean ====
section
/-! SUPPORT. What the frame of a slot's meaning does, phase by phase: the check, the commit, and the bundle that holds the slot alone. -/

namespace Sys2Proof.Machine

theorem andThen_go_left (v : Verdict) : Verdict.go.andThen v = v := rfl

theorem andThen_eq_go {a b : Verdict} (ha : a = .go) : a.andThen b = b := by rw [ha]; rfl

theorem checkThat_true {b : Bool} (f : Verdict) (h : b = true) : checkThat b f = .go := by rw [h]; rfl

theorem checkThat_false {b : Bool} (f : Verdict) (h : b = false) : checkThat b f = f := by rw [h]; rfl

theorem checkThat_eq_go {b : Bool} {f : Verdict} (hf : f ≠ .go) : checkThat b f = .go ↔ b = true := by
  cases b <;> simp [checkThat, hf]

theorem faultAt_ne_go (s : State) (c : BitVec 8) (a : Word) : s.faultAt c a ≠ .go := by simp [State.faultAt]

theorem faultWr_ne_go (s : State) (c : BitVec 8) (a : Word) : s.faultWr c a ≠ .go := by simp [State.faultWr]

theorem faultPc_ne_go (s : State) (c : BitVec 8) : s.faultPc c ≠ .go := by simp [State.faultPc, State.faultAt]

/-- The check of a slot inside a bundle. -/
theorem issueSlot_check (i : Instr) (check : State → Verdict) (effect : State → State) (s : State)
    (h : s.iss.phase = .check) :
    issueSlot i check effect s = .next (s.modIss fun k => { k with verdict := (s.rowCheck i).andThen (check s) }) := by
  simp [issueSlot, h]

/-- The effect of a slot at commit. -/
theorem issueSlot_commit (i : Instr) (check : State → Verdict) (effect : State → State) (s : State)
    (h : s.iss.phase = .commit) : issueSlot i check effect s = .next (effect (s.marks i)) := by
  simp [issueSlot, h]

/-- A slot alone in its bundle whose checks all pass. -/
theorem issueSlot_go (i : Instr) (check : State → Verdict) (effect : State → State) (s : State)
    (h : s.iss.phase = .alone) (hs : s.aloneBundle.soleCheck i = .go) (hc : check s.aloneBundle = .go) :
    issueSlot i check effect s = .next (effect (s.aloneBundle.marks i)).finishBundle := by
  simp [issueSlot, h, hs, hc, Verdict.andThen]

/-- A slot alone in its bundle that its own check makes wait. -/
theorem issueSlot_wait (i : Instr) (check : State → Verdict) (effect : State → State) (s : State) (r : Option WaitReq)
    (h : s.iss.phase = .alone) (hs : s.aloneBundle.soleCheck i = .go) (hc : check s.aloneBundle = .wait r) :
    issueSlot i check effect s = .next (s.aloneBundle.register r) := by
  simp [issueSlot, h, hs, hc, Verdict.andThen]

/-- A slot alone in its bundle that its own check stops. -/
theorem issueSlot_trap (i : Instr) (check : State → Verdict) (effect : State → State) (s : State) (f : FaultInfo)
    (h : s.iss.phase = .alone) (hs : s.aloneBundle.soleCheck i = .go) (hc : check s.aloneBundle = .trap f) :
    issueSlot i check effect s = .next (s.aloneBundle.takeTrap s.aloneBundle.iss.pc f) := by
  simp [issueSlot, h, hs, hc, Verdict.andThen]

/-- Every slot's meaning answers a next state. -/
theorem issueSlot_next (i : Instr) (check : State → Verdict) (effect : State → State) (s : State) :
    ∃ t, issueSlot i check effect s = .next t := ⟨_, rfl⟩

end Sys2Proof.Machine
end

