-- ==== Sys2Proof/Laws/Sound.lean ====
section
/-! SUPPORT. An invariant of states, and that the updates of single parts keep it: the clock has reached k, and every byte memory is in canonical form. -/

namespace Sys2Proof.Machine

/-- The clock has reached k, and HBM, every scratchpad and every command memory are in canonical form. -/
def Sound (k : Nat) (s : State) : Prop :=
  k ≤ s.cycle ∧ Memory.wf s.hbm = true ∧ (∀ e ∈ s.tiles, Memory.wf e.2.spad = true) ∧
    ∀ e ∈ s.seqs, Memory.wf e.2.cmd = true

/-- An outcome whose next state, if it is one, is sound. -/
def SoundR (k : Nat) (r : Host.Outcome State Fault Refusal) : Prop := ∀ t, r = .next t → Sound k t

theorem SoundR_next {k : Nat} {t : State} (h : Sound k t) : SoundR k (.next t) := by
  intro u hu
  cases hu
  exact h

theorem foldl_sound {α : Type} {k : Nat} (l : List α) (f : State → α → State) (s : State) (h : Sound k s)
    (hf : ∀ s x, Sound k s → Sound k (f s x)) : Sound k (l.foldl f s) := by
  induction l generalizing s with
  | nil => exact h
  | cons x r ih => exact ih (f s x) (hf s x h)

/-- Every tile's scratchpad is in canonical form, the unlisted tiles' among them. -/
theorem Sound.spad {k : Nat} {s : State} (h : Sound k s) (t : Nat) : Memory.wf (s.tile t).spad = true := by
  rcases fget_mem Tile.reset s.tiles t with e | e
  · have : s.tile t = Tile.reset := e
    rw [this]
    rfl
  · exact h.2.2.1 _ e

/-- Every context's command memory is in canonical form. -/
theorem Sound.cmd {k : Nat} {s : State} (h : Sound k s) (q : Nat) : Memory.wf (s.seqCtx q).cmd = true := by
  rcases fget_mem Seq.reset s.seqs q with e | e
  · have : s.seqCtx q = Seq.reset := e
    rw [this]
    rfl
  · exact h.2.2.2 _ e

theorem State.setTile_sound {k : Nat} (s : State) (t : Nat) (x : Tile) (h : Sound k s)
    (hx : Memory.wf x.spad = true) : Sound k (s.setTile t x) := by
  refine ⟨h.1, h.2.1, fun e he => ?_, h.2.2.2⟩
  rcases mem_fput _ _ _ _ he with rfl | he
  · exact hx
  · exact h.2.2.1 e he

theorem State.modTile_sound {k : Nat} (s : State) (t : Nat) (f : Tile → Tile) (h : Sound k s)
    (hf : ∀ x, Memory.wf x.spad = true → Memory.wf (f x).spad = true) : Sound k (s.modTile t f) :=
  State.setTile_sound s t _ h (hf _ (h.spad t))

theorem State.modCluster_sound {k : Nat} (s : State) (c : Nat) (f : Cluster → Cluster) (h : Sound k s) :
    Sound k (s.modCluster c f) := h

theorem State.modArr_sound {k : Nat} (s : State) (c : Nat) (f : MatArray → MatArray) (h : Sound k s) :
    Sound k (s.modArr c f) := h

theorem State.modPart_sound {k : Nat} (s : State) (v : Nat) (f : Part → Part) (h : Sound k s) :
    Sound k (s.modPart v f) := h

theorem State.modMod_sound {k : Nat} (s : State) (f : Mod → Mod) (h : Sound k s) : Sound k (s.modMod f) := h

theorem State.modIss_sound {k : Nat} (s : State) (f : Issue → Issue) (h : Sound k s) : Sound k (s.modIss f) := h

theorem State.modSeq_sound {k : Nat} (s : State) (q : Nat) (f : Seq → Seq) (h : Sound k s)
    (hf : ∀ x, Memory.wf x.cmd = true → Memory.wf (f x).cmd = true) : Sound k (s.modSeq q f) := by
  refine ⟨h.1, h.2.1, h.2.2.1, fun e he => ?_⟩
  rcases mem_fput _ _ _ _ he with rfl | he
  · exact hf _ (h.cmd q)
  · exact h.2.2.2 e he

theorem State.modThreadOf_sound {k : Nat} (s : State) (a : Agent) (f : Thread → Thread) (h : Sound k s) :
    Sound k (s.modThreadOf a f) := by
  cases a
  · exact State.modTile_sound s _ _ h fun x hx => hx
  · exact State.modSeq_sound s _ _ h fun x hx => hx

theorem State.modThread_sound {k : Nat} (s : State) (f : Thread → Thread) (h : Sound k s) : Sound k (s.modThread f) :=
  State.modThreadOf_sound s _ f h

theorem State.modCur_sound {k : Nat} (s : State) (f : Tile → Tile) (h : Sound k s)
    (hf : ∀ x, Memory.wf x.spad = true → Memory.wf (f x).spad = true) : Sound k (s.modCur f) := by
  unfold State.modCur
  split
  · exact State.modTile_sound s _ f h hf
  · exact h

theorem State.push_sound {k : Nat} (s : State) (n : Nat) (a : Act) (h : Sound k s) : Sound k (s.push n a) :=
  State.modThread_sound s _ h

end Sys2Proof.Machine
end

