-- ==== Sys2Proof/Laws/Stride.lean ====
section
/-! SUPPORT. The element addresses of VLDS and VSTS, and what their check answers at the first element at fault. -/

namespace Sys2Proof.Machine

theorem strideAddrs_get (a b : Word) (k : Nat) (h : k < 128) :
    (strideAddrs a b)[k]? = some (a + BitVec.ofNat 64 k * b) := by
  simp [strideAddrs, h]

theorem mem_take_strideAddrs (a b : Word) (k : Nat) (x : Word) (h : x ∈ (strideAddrs a b).take k) :
    ∃ j < k, x = a + BitVec.ofNat 64 j * b := by
  simp only [strideAddrs, ← List.map_take, List.take_range, List.mem_map, List.mem_range] at h
  obtain ⟨j, hj, rfl⟩ := h
  exact ⟨j, by omega, rfl⟩

/-- The check passes over the elements before the first one at fault, and answers ALIGN before VIEW_RANGE for that one. -/
theorem strideCheck_first (s : State) (wr : Bool) (xs : List Word) (k : Nat) (x : Word) (h : xs[k]? = some x)
    (good : ∀ y ∈ xs.take k, y.toNat % 4 = 0 ∧ outsideSpad y.toNat 4 = none) :
    (x.toNat % 4 ≠ 0 → s.strideCheck wr xs = s.faultAcc wr cALIGN x) ∧
    (x.toNat % 4 = 0 → outsideSpad x.toNat 4 ≠ none → s.strideCheck wr xs = s.faultAcc wr cVIEW_RANGE x) := by
  induction xs generalizing k with
  | nil => simp at h
  | cons y r ih =>
    cases k with
    | zero =>
      simp only [List.getElem?_cons_zero, Option.some.injEq] at h
      subst h
      exact ⟨fun e => by simp [State.strideCheck, e],
        fun e o => by simp [State.strideCheck, e, Option.isSome_iff_ne_none, o]⟩
    | succ k =>
      have hy := good y (by simp)
      simpa [State.strideCheck, hy.1, hy.2] using
        ih k (by simpa using h) fun z hz => good z (by simp [hz])

/-- Every element aligned and in a view: the check finds nothing. -/
theorem strideCheck_go (s : State) (wr : Bool) (xs : List Word)
    (good : ∀ y ∈ xs, y.toNat % 4 = 0 ∧ outsideSpad y.toNat 4 = none) : s.strideCheck wr xs = .go := by
  induction xs with
  | nil => rfl
  | cons y r ih =>
    have hy := good y (by simp)
    simpa [State.strideCheck, hy.1, hy.2] using ih fun z hz => good z (by simp [hz])

end Sys2Proof.Machine
end

