-- ==== Sys2Proof/Laws/Turn.lean ====
section
/-! SUPPORT. What a turn of an agent leaves of the bundle in issue, and the order in which the slots of a bundle commit. -/

namespace Sys2Proof.Machine

theorem slotTurn_cases (i : Instr) : slotTurn i = 0 ∨ slotTurn i = 1 ∨ slotTurn i = 2 ∨ slotTurn i = 3 := by
  unfold slotTurn
  split
  · exact .inl rfl
  · split
    · exact .inr (.inl rfl)
    · split
      · exact .inr (.inr (.inl rfl))
      · exact .inr (.inr (.inr rfl))

/-- One instruction and three NOPs commit in slot order, whatever the instruction. -/
theorem commitAll_alone (s : State) (i : Instr) :
    s.commitAll [i, .nop, .nop, .nop] = (((s.commitSlot 0 i).commitSlot 1 .nop).commitSlot 2 .nop).commitSlot 3 .nop := by
  have n : slotTurn .nop = 3 := rfl
  unfold State.commitAll
  rcases slotTurn_cases i with h | h | h | h <;> simp [h, n]

theorem begin_iss (s : State) (a : Agent) : (s.begin_ a).iss = { Issue.reset with agent := a } := rfl

/-- The array of a sequencer context: none, so no stall of one holds it. -/
theorem arrayHeld_seq (s : State) (q : BitVec 6) : s.arrayHeld (.seq q) = false := rfl

theorem tretDrains_iff (s : State) (is : List Instr) :
    s.tretDrains is = true ↔ Instr.tret ∈ is ∧ s.thread.lvl ≠ .tl0 ∧
      ¬(s.thread.bank.pend = [] ∧ s.thread.bank.loads = []) := by
  simp [State.tretDrains]
  tauto

/-- Slots that all go raise no trap. -/
theorem firstTrap_go {vs : List Verdict} (h : ∀ v ∈ vs, v = .go) : firstTrap vs = none := by
  induction vs with
  | nil => rfl
  | cons v r ih =>
    rw [h v (by simp)]
    exact ih fun w hw => h w (by simp [hw])

/-- A landing write does not touch the bundle in issue. -/
theorem applyAct_iss (s : State) (a : Agent) (n : Nat) (x : Act) : (s.applyAct a n x).iss = s.iss := by
  cases x <;> cases a <;> simp [State.applyAct, State.onAgentTile, State.clean]

/-- A fold of changes that each leave the bundle in issue leaves it. -/
theorem foldl_iss {α : Type} (f : State → α → State) (hf : ∀ s x, (f s x).iss = s.iss) (l : List α) (s : State) :
    (l.foldl f s).iss = s.iss := by
  induction l generalizing s with
  | nil => rfl
  | cons x r ih => rw [List.foldl_cons, ih, hf]

theorem landKind_iss (s : State) (a : Agent) (kind : Act → Bool) : (s.landKind a kind).iss = s.iss := by
  simp only [State.landKind]
  rw [foldl_iss _ fun s (p : Pend) => applyAct_iss s a _ p.act]
  simp

/-! ### What acts at a landing leaves the bundle in issue -/

theorem modLslot_iss (s : State) (v k : Nat) (f : LSlot → LSlot) : (s.modLslot v k f).iss = s.iss := rfl

theorem raise_iss (s : State) (v k : Nat) : (s.raise v k).iss = s.iss := by
  simp only [State.raise]; split <;> try split
  all_goals rfl

theorem hbmWrite_iss (s : State) (a : Nat) (bs : List Byte) : (s.hbmWrite a bs).iss = s.iss := by
  simp only [State.hbmWrite, State.dropLines]

theorem faultRecord_iss (s : State) (v : Nat) (ws : List Word) : (s.faultRecord v ws).iss = s.iss := by
  simp only [State.faultRecord]
  split <;> simp [raise_iss, hbmWrite_iss]

theorem killAt_iss (s : State) (t c kind chan : Nat) (cause : BitVec 8) : (s.killAt t c kind chan cause).iss = s.iss := by
  simp only [State.killAt]
  split <;> simp [faultRecord_iss, modLslot_iss]

theorem launchError_iss (s : State) (t n : Nat) : (s.launchError t n).iss = s.iss := by
  simp only [State.launchError]
  split <;> try split
  all_goals simp [faultRecord_iss, modLslot_iss]

theorem readGran_iss (s : State) (t : Nat) (w : Bool) (g : Nat) : (s.readGran t w g).2.iss = s.iss := by
  simp only [State.readGran]; split <;> rfl

theorem readGrans_iss (s : State) (t : Nat) (w : Bool) (k n : Nat) : (s.readGrans t w k n).2.iss = s.iss := by
  induction n generalizing s k with
  | zero => rfl
  | succ n ih => simp [State.readGrans, ih, readGran_iss]

theorem readView_iss (s : State) (t : Nat) (w : Bool) (o n : Nat) : (s.readView t w o n).2.iss = s.iss := by
  simp [State.readView, readGrans_iss]
  try (split <;> simp [readGrans_iss])

theorem countEvent_iss (s : State) (t : Nat) (c : BitVec 8) (b : BitVec 5) (e : Bool) (r : ARec) :
    (s.countEvent t c b e r).iss = s.iss := by
  unfold State.countEvent
  have ha : (s.astatOr t b).iss = s.iss := rfl
  generalize s.astatOr t b = u at ha
  rw [← ha]
  by_cases h : e <;> by_cases g : (u.tile t).hasEnded <;> simp [h, g, launchError_iss]

theorem foldEvent_iss (s : State) (t : Nat) (e : Bool) (r : ARec) : (s.foldEvent t e r).iss = s.iss := by
  simp only [State.foldEvent]; split <;> simp [countEvent_iss]

theorem satEvent_iss (s : State) (t : Nat) (e : Bool) (r : ARec) : (s.satEvent t e r).iss = s.iss := by
  simp only [State.satEvent]; split <;> simp [countEvent_iss]

theorem readSlice_iss (s : State) (c : Nat) (d : OperDesc) (n k : Nat) : (s.readSlice c d n k).2.iss = s.iss := by
  unfold State.readSlice
  extract_lets o off u
  have hu : u.iss = s.iss := by
    simp only [u, State.killByEngine]
    split
    · exact killAt_iss _ _ _ _ _ _
    · rfl
  split
  · rw [readView_iss, hu]
  · exact hu

theorem accCheck_iss (s : State) (t : Nat) (d : BitVec 4) (m n : Nat) : (s.accCheck t d m n).iss = s.iss := by
  simp only [State.accCheck, State.killByEngine]
  split
  · exact killAt_iss _ _ _ _ _ _
  · rfl

theorem applyPost_iss (s : State) (a : Agent) (p : Post) : (s.applyPost a p).iss = s.iss := by
  simp only [State.applyPost]; split <;> simp [hbmWrite_iss]

theorem killTile_iss (s : State) (t : Nat) (c o : BitVec 8) (a : Word) : (s.killTile t c o a).iss = s.iss := by
  simp only [State.killTile, State.tileRecord]; split <;> simp [faultRecord_iss, modLslot_iss]

theorem seqStop_iss (s : State) (q : Nat) (c : BitVec 8) (pc : Word) : (s.seqStop q c pc).iss = s.iss := by
  simp only [State.seqStop, State.doneRecord]
  repeat' split
  all_goals simp [raise_iss]

theorem loadDamage_iss (s : State) (a : Agent) (l : Load) : (s.loadDamage a l).iss = s.iss := by
  cases a
  · exact killTile_iss _ _ _ _ _
  · simp only [State.loadDamage, apply_ite State.iss, seqStop_iss, ite_self]

theorem performPost_iss (s : State) (a : Agent) (p : Post) : (s.performPost a p).iss = s.iss := by
  simp only [State.performPost]
  repeat' split
  all_goals simp [loadDamage_iss, applyPost_iss]

theorem cacheLine_iss (s : State) (a : Agent) (l : Load) : (s.cacheLine a l).iss = s.iss := by
  cases a <;> simp only [State.cacheLine, apply_ite State.iss, State.modTile_iss, ite_self]

theorem readLoad_iss (s : State) (a : Agent) (l : Load) : (s.readLoad a l).iss = s.iss := by
  simp only [State.readLoad, apply_ite State.iss, loadDamage_iss, cacheLine_iss, State.modThreadOf_iss, ite_self]

theorem performPosts_iss (s : State) (a : Agent) (need : Post → Bool) : (s.performPosts a need).iss = s.iss :=
  foldl_iss _ (fun s p => performPost_iss s a p) _ _

theorem performLoad_iss (s : State) (a : Agent) (l : Load) : (s.performLoad a l).iss = s.iss := by
  simp only [State.performLoad, apply_ite State.iss, readLoad_iss, performPosts_iss, ite_self]

theorem performEarlier_iss (s : State) (a : Agent) (n k : Nat) : (s.performEarlier a n k).iss = s.iss := by
  rw [State.performEarlier, performPosts_iss]
  exact foldl_iss _ (fun s l => performLoad_iss s a l) _ _

theorem writeView_iss (s : State) (t : Nat) (w : Bool) (a : Nat) (bs : List Byte) : (s.writeView t w a bs).iss = s.iss := by
  rw [State.writeView, foldl_iss]
  intro s p
  simp [State.cleanPiece, State.clean]

theorem performOne_iss (s : State) (c : Nat) (p : APerf) : (s.performOne c p).iss = s.iss := by
  simp only [State.performOne, State.readSlices, State.writePoint, State.readPoint, State.killByEngine, State.loadImage, State.onCells,
    State.writeBlock, State.writeMma, State.drain, State.cleanAcc, State.clean, State.modRec, State.astatOr]
  repeat' split
  all_goals simp [readSlice_iss, accCheck_iss, foldEvent_iss, satEvent_iss, readView_iss, killAt_iss, writeView_iss, performEarlier_iss]

theorem landArray_iss (s : State) (a : Agent) (c n : Nat) (rows : List Pend) : (s.landArray a c n rows).iss = s.iss := by
  have acts (l : List Pend) (s : State) : (l.foldl (fun s w => s.applyAct a n w.act) s).iss = s.iss :=
    foldl_iss _ (fun s (w : Pend) => applyAct_iss s a n w.act) l s
  have points (f : State × List Pend → APerf → State × List Pend) (hf : ∀ x p, (f x p).1.iss = x.1.iss) (l : List APerf)
      (x : State × List Pend) : (l.foldl f x).1.iss = x.1.iss := by
    induction l generalizing x with
    | nil => rfl
    | cons p r ih => rw [List.foldl_cons, ih, hf]
  simp only [State.landArray]
  rw [acts, points]
  · rfl
  · intro x p
    simp only
    rw [performOne_iss, acts]

theorem endRun_iss (s : State) (c : Nat) : (s.endRun c).iss = s.iss := rfl

/-- The perform points of an array leave the bundle in issue. -/
theorem landPoints_iss (s : State) (a : Agent) : (s.landPoints a).iss = s.iss := by
  unfold State.landPoints
  split
  · rfl
  · simp only [endRun_iss, landArray_iss, State.modThreadOf_iss]

/-- What lands leaves the bundle in issue. -/
theorem land_iss (s : State) (a : Agent) : (s.land a).iss = s.iss := by
  unfold State.land
  extract_lets u w
  have hu : u.iss = s.iss := by
    simp only [u]
    split <;> rfl
  have hw : w.iss = s.iss := by simp only [w, landKind_iss, hu]
  split
  · exact hw
  · split
    · rw [landKind_iss, hw]
    · rw [landPoints_iss, hw]

end Sys2Proof.Machine
end

