-- ==== Sys2Proof/Tests/Slice0.lean ====
section
/-! SUPPORT. Tests: ill-formed terms refused, words of the spec decoded, single steps checked against values worked out by hand, and states and operands that meet the hypotheses of every statement. -/

namespace Sys2Proof.Tests

open Sys2Proof.Machine Sys2Proof.Claims

set_option maxRecDepth 20000

/-! ### Well-formedness: one ill-formed term for each check -/

theorem test_wf_refuses :
    ∀ i ∈ [Instr.cselk false ⟨0, 0, false⟩ (.file 0) (.imm 1), .mmcE3m0Cb0 0 (.imm 3) (.row 0 0 false),
        .mmcE3m0Cb1 0 (.row 0 0 false) (.imm 5), .fence .tile 0, .loopp 7 (.imm 1) 4,
        .fcvtW .rne false (.reg 0) (.reg 0) .e8m0 .fp32, .fcvtW .rne false (.reg 0) (.reg 0) .fp32 .cnt,
        .fcvtW .rne false (.reg 0) (.imm 5) .fp32 .uint8, .fcmpW false 1 (.reg 0) (.reg 0) .int32 .eq,
        .vaddW .rne false (.file 0) (.file 0) (.file 0) .fp32 true, .vsubW .rup false (.file 0) (.file 0) (.file 0) .int8 false,
        .vmulW .rne false (.file 0) (.file 0) (.file 0) .e4m3 false, .vfmaW .rne false (.file 0) (.file 0) (.file 0) .int32,
        .vmaxW .rtz false (.file 0) (.file 0) (.file 0) .int16, .vminW .rne false (.file 0) (.file 0) (.file 0) .cnt,
        .vcvt .rne false (.file 0) (.file 0) .int64 .fp32 0, .vcvt .rne false (.file 0) (.file 0) .fp32 .e4m3 4,
        .vcvt .rne false (.file 0) (.file 0) .bf16 .cnt 0, .vrsumW .rne false (.file 0) (.file 0) .int32,
        .vrmaxW false (.file 0) (.file 0) .e2m1, .cselkW false (.file 0) (.file 0) .fp32 4,
        .cselkW false (.file 0) (.row 0 0 false) .fp32 0, .cselkW false (.file 0) (.row 0 0 false) .int8 4,
        .mmaW 0 (.file 0) (.file 0) ⟨.bf16, .e4m3, 16, 0, 0, false, .none⟩,
        .mmaW 0 (.file 0) (.file 0) ⟨.bf16, .bf16, 0, 0, 0, false, .none⟩,
        .mmaW 0 (.file 0) (.file 0) ⟨.bf16, .bf16, 24, 0, 0, false, .b16⟩,
        .mmcW 0 (.file 0) (.file 0) ⟨.e2m1, .rne, false, 64, .b32, false, 0, false, false, 0, 0⟩,
        .mmcW 0 (.file 0) (.file 0) ⟨.e2m1, .rne, false, 32, .b32, false, 0, true, false, 0, 0⟩,
        .mmcW 0 (.file 0) (.file 0) ⟨.int4, .rne, false, 32, .none, false, 1, false, false, 0, 0⟩,
        .mmcW 0 (.file 0) (.file 0) ⟨.fp32, .rne, false, 32, .none, false, 0, false, false, 0, 0⟩,
        .cpyW (.reg 0) (.reg 0) 0 (some ⟨.int64, .fp32, .rne⟩), .cpyrW (.reg 0) (.reg 0) ⟨0, false, .repl, .fp32, .fp32, .rne⟩,
        .cpyrW (.reg 0) (.reg 0) ⟨0, false, .sum, .bf16, .fp32, .rne⟩, .waccW (.reg 0) (.reg 4) .e4m3 .sum .rne,
        .wgacW (.reg 0) (.reg 4) .fld .max .rne, .wgacW (.reg 0) (.reg 4) .int32 .sum .rtz, .loopW (.reg 0) 0,
        .looppW 7 (.reg 0) 4, .sldW false true .none (.reg 0) (.reg 1)], i.wf = false := by decide

/-- Words of undefined encodings: a kind 3, a header with a reserved bit, an opcode not assigned, a field that must be
zero, a reserved rounding mode, a FENCE with kind bits 0. -/
theorem test_words_refused :
    ([0x60000000, 0x40000001, 0x03F00000, 0x18000001, 0x14418001, 0x0C080000, 0x12000000] : List (BitVec 32)).all
      (fun w => !(decodeSlot w).isOk) = true := by decide

/-! ### Words written out from the encodings of the spec -/

/-- Bit fields S, K, U, OP, N, D, A, B of a native slot (R49). -/
def word (u : BitVec 3) (op : BitVec 6) (n : BitVec 1) (d : BitVec 5) (a b : BitVec 7) : BitVec 32 :=
  0#1 ++ 0#2 ++ u ++ op ++ n ++ d ++ a ++ b

/-- One word of every family of the native map: level-00, level-01, level-10 and level-11 operands among them. -/
theorem test_decode_families :
    ∀ e ∈ [(word 0 0x00 0 3 0b0000001 0b0000010, Instr.add false 3 (.reg 1) (.reg 2)),
        (word 0 0x01 1 3 0b0100001 0b1000010, .sub true 3 (.based 1) (.file 2)),
        (word 1 0x00 0 4 0b1100101 0b1110111, .fadd .rne false 4 (.latch 5) (.imm 7)),
        (word 2 0x00 0 0b00101 0b1101010 0b1000000, .vadd false ⟨1, 0, true⟩ (.queue 2) (.file 0)),
        (word 3 0x00 0 0 0 0, .mlease), (word 4 0x04 0 4 0b0000010 3, .ldW false 4 (.reg 2) 3),
        (word 5 0x04 0 6 0 0, .halloc false 6), (word 5 0x06 0 9 0b0000110 0, .hwaitR false 9 (.reg 6)),
        (word 6 0x06 0 1 0b1110011 8, .loopp 1 (.imm 3) 8), (word 7 0x08 0 1 0b0000011 0, .lyset 1 (.reg 3)),
        (0x9200003F, .fence .module 15), (0x0C800818, .mmcE2m1Cb0 0 (.row 4 0 false) (.row 6 0 false)),
        (0x20002418, .dictionarySlot 0 2 0x10 0x18), (0x49C00000, .hdr 4 7), (0x19000001, .dsel true),
        (0x15D00185, .wlockSh (.reg 3) (.reg 5))], decodeSlot e.1 = .ok e.2 := by decide


/-! ### Small states -/

/-- A tile that runs, alone in a launch of one rank. -/
def tile0 : Tile := { Tile.reset with run := .running, nrank := 1 }

/-- The tile 0 running, changed by f. -/
def onTile0 (f : Tile → Tile) : State := { State.reset with tiles := [(0, f tile0)] }

/-- The tile 0 running. -/
def base : State := onTile0 id

/-- The tile 0 running with scalars set. -/
def withS (l : List (Nat × Word)) : State :=
  onTile0 fun x => { x with th := { x.th with s := l.foldl (fun v e => vset v e.1 e.2) x.th.s } }

/-- The context 0 running. -/
def baseSeq (f : Seq → Seq) : State :=
  { State.reset with
    seqs := [(0, f { Seq.reset with running := true })]
    iss := { Issue.reset with agent := .seq 0 } }

/-- A state changed into one that commits. -/
def committing (s : State) : State := { s with iss := { s.iss with phase := .commit } }

/-- A slot and a state that meet the hypotheses of a statement about the slot alone in its bundle. -/
abbrev Meets (i : Instr) (s : State) (c : State → Prop) : Prop := Ready i s ∧ c s.aloneBundle

/-! ### Hypotheses met: slots without a check of their own (the statements of ScalarIntegerSlots to VectorRowSlots) -/

/-- One slot of each of these forms stands ready in the base state. -/
def samples : List Instr :=
  [.add false 3 (.reg 1) (.based 2), .sub true 3 (.file 1) (.latch 2), .addi false 3 (.imm 7) 5, .lui false 3 9,
    .mul false 3 (.reg 1) (.reg 2), .movsb (.reg 1), .movc 2 (.imm 1), .movo false 1 (.reg 2), .sel 2 false 3 (.reg 1) (.reg 2),
    .li false (.file 1) 77, .muliW false (.based 3) (.reg 1) 9, .pset false 1 (.reg 2), .pand false 1 2 3, .pnot false 0 0,
    .nop, .br 5, .brp true 1 8, .jal false 3 8, .jr (.reg 1), .lbrk 1, .end_, .trap 3, .dsel true, .ffence, .vjoin, .halloc false 6,
    .mlease, .lyset 1 (.reg 3), .lysetW 2 5, .hdr 0 7, .fence .module 15, .sysr false 3 0x020, .sysw 3 0]

/-- One float or row slot of each mould; the reset value of FPCTL has IVM = 1. -/
def floats : List Instr :=
  [.fadd .rne false 3 (.reg 1) (.reg 2), .fcvt .rtz false 3 (.reg 1) .int32 .fp32, .fcmpLt false 2 (.reg 1) (.imm 1),
    .fcvtW .rne false (.reg 3) (.reg 1) .bf16 .fp32, .fcmpW false 1 (.reg 1) (.reg 2) .fp16 .ne,
    .vadd false ⟨1, 0, true⟩ (.row 2 3 true) (.file 0), .vsel false ⟨1, 0, false⟩ (.row 1 1 false) (.imm 1),
    .vexp2 false ⟨1, 0, true⟩ (.latch 1), .vmovo false 2 (.row 2 0 false), .vperm true ⟨0, 1, false⟩ (.file 1) (.row 3 0 false),
    .vbcast false ⟨0, 0, false⟩ (.reg 4), .vaddW .rne false (.file 1) (.row 0 0 false) (.file 2) .int8 true,
    .vcvt .rne false (.row 2 3 false) (.file 1) .e4m3 .fp32 3, .vrsumW .rup true (.file 1) (.row 1 0 false) .bf16,
    .cselk false ⟨4, 0, false⟩ (.row 3 0 false) (.reg 9), .cselkW false (.file 1) (.row 3 0 false) .int32 32,
    .cselkW false (.row 3 2 true) (.row 3 0 false) .fp16 1, .vst ⟨1, 0, false⟩ (.reg 1) 0, .vmova false ⟨1, 0, false⟩ (.reg 1) (.reg 2),
    .vmovt ⟨1, 0, false⟩ (.reg 1) (.imm 1)]

theorem test_samples_ready : (samples ++ floats).all (fun i => decide (base.aloneBundle.soleCheck i = .go)) = true := by decide

theorem test_valid (f : State → Flags) : valid f base.aloneBundle := Or.inl (by decide)

theorem test_fields_met : base.iss.phase = .alone ∧ base.iss.agent = .tile 0 := by decide

/-! ### Hypotheses met: slots with checks -/

/-- FPCTL with IVM = 0; s1, s2 and element 0 of row 0 of t0 a signaling NaN. -/
def noIvm : State := onTile0 fun x =>
  { x with t := [(0, 0x7F800001)], th := { x.th with fpctl := 0, s := vset (vset x.th.s 1 0x7F800001) 2 0x7F800001 } }

/-- A slot whose flags raise an invalid operation there. -/
abbrev Invalid (i : Instr) (fl : State → Flags) : Prop := Meets i noIvm fun u => u.ivm = false ∧ fl u &&& fIV ≠ 0

theorem test_meets_ScalarFloatSlots :
    Invalid (.fadd .rne false 3 (.reg 1) (.reg 2)) (fun u => (fAdd .fp32 .rne (u.readF .fp32 (.reg 1)) (u.readF .fp32 (.reg 2))).2) ∧
    Invalid (.fsub .rtz false 3 (.reg 1) (.reg 2)) (fun u => (fSub .fp32 .rtz (u.readF .fp32 (.reg 1)) (u.readF .fp32 (.reg 2))).2) ∧
    Invalid (.fmul .rne false 3 (.reg 1) (.reg 0)) (fun u => (fMul .fp32 .rne (u.readF .fp32 (.reg 1)) (u.readF .fp32 (.reg 0))).2) ∧
    Invalid (.ffma .rne false 3 (.reg 1) (.reg 0)) (fun u =>
      (fFma .fp32 .rne (u.readF .fp32 (.reg 1)) (u.readF .fp32 (.reg 0)) (u.readF .fp32 (.reg 3))).2) ∧
    Invalid (.fcvt .rtz false 3 (.reg 1) .int32 .fp32) (fun u => (scalarCvt .fp32 .int32 .rtz (u.readF .fp32 (.reg 1))).2) ∧
    Invalid (.fmin false 3 (.reg 1) (.reg 0)) (fun u => (fMinMax false .fp32 (u.readF .fp32 (.reg 1)) (u.readF .fp32 (.reg 0))).2) ∧
    Invalid (.fmax false 3 (.reg 1) (.reg 0)) (fun u => (fMinMax true .fp32 (u.readF .fp32 (.reg 1)) (u.readF .fp32 (.reg 0))).2) ∧
    Invalid (.fcmpEq false 1 (.reg 1) (.reg 0)) (fun u => (fCmp .eq .fp32 (u.readF .fp32 (.reg 1)) (u.readF .fp32 (.reg 0))).2) ∧
    Invalid (.fcmpUn false 1 (.reg 1) (.reg 0)) (fun u => (fCmp .un .fp32 (u.readF .fp32 (.reg 1)) (u.readF .fp32 (.reg 0))).2) ∧
    Invalid (.fcmpW false 1 (.reg 1) (.reg 0) .fp32 .ne) (fun u => (fCmp .ne .fp32 (u.readF .fp32 (.reg 1)) (u.readF .fp32 (.reg 0))).2) := by
  unfold Invalid Meets Ready; decide

theorem test_meets_invalid_rows :
    Invalid (.vmul false ⟨1, 0, true⟩ (.row 0 0 false) (.file 0)) (fun u => (u.zipV .fp32 (fMul .fp32 .rne) (.row 0 0 false) (.file 0)).2) ∧
    Invalid (.vabs false ⟨1, 0, true⟩ (.row 0 0 false)) (fun u => (u.mapV .fp32 (fSign false) (.row 0 0 false)).2) ∧
    Invalid (.vrcp false ⟨1, 0, true⟩ (.row 0 0 false)) (fun u => (u.mapV .fp32 fRcp (.row 0 0 false)).2) ∧
    Invalid (.vrmax false ⟨1, 0, true⟩ (.row 0 0 false)) (fun u => (reduceRow .fp32 (fMinMax true .fp32) (u.readV .fp32 (.row 0 0 false))).2) ∧
    Invalid (.vminW .rne false (.file 1) (.row 0 0 false) (.file 0) .fp32)
      (fun u => (u.zipV .fp32 (pickElem false .fp32) (.row 0 0 false) (.file 0)).2) ∧
    Invalid (.vcvt .rne false (.file 1) (.row 0 0 false) .int32 .fp32 0)
      (fun u => (vcvtRow .fp32 .int32 .rne 0 (u.readV .fp32 (.row 0 0 false))).2) ∧
    Invalid (.cselk false ⟨4, 0, false⟩ (.row 0 0 false) (.reg 9)) (fun u => cselkFlags .fp32 (u.cselkSource (.row 0 0 false))) := by
  unfold Invalid Meets Ready; decide

theorem test_meets_DivideGroup :
    Meets (.div false 3 (.reg 1) (.reg 2)) (withS [(1, 7), (2, -2)]) (fun u => u.readS (.reg 2) ≠ 0) ∧
    Meets (.divu false 3 (.reg 1) (.reg 2)) (withS [(1, 7), (2, 2)]) (fun u => u.readS (.reg 2) ≠ 0) ∧
    Meets (.rem true 3 (.reg 1) (.imm 7)) base (fun u => u.readS (.imm 7) ≠ 0) ∧
    Meets (.div false 3 (.reg 1) (.reg 2)) base (fun u => u.readS (.reg 2) = 0) ∧
    Meets (.divu false 3 (.reg 1) (.reg 2)) base (fun u => u.readS (.reg 2) = 0) ∧
    Meets (.rem true 3 (.reg 1) (.reg 2)) base (fun u => u.readS (.reg 2) = 0) ∧
    (let s := onTile0 fun x => { x with th := { x.th with tr1 := { x.th.tr1 with hbase := 64 } } };
      s.iss.agent = .tile 0 ∧ ((s.tile 0).th.route 0x05).isSome = true) := by
  unfold Meets Ready; decide

theorem test_meets_VectorMemorySlots :
    Meets (.vld false ⟨1, 0, false⟩ (.reg 1) 1) (withS [(1, 0x2FFC00)])
      (fun u => u.vldCheck (u.rowAddr (.reg 1) 1) false = .go) ∧
    Meets (.vst ⟨1, 0, false⟩ (.reg 1) 0) (withS [(1, 0x400040)])
      (fun u => (u.rowAddr (.reg 1) 0).toNat % 64 = 0 ∧ outsideSpad (u.rowAddr (.reg 1) 0).toNat 512 = none) ∧
    Meets (.vlds false ⟨1, 0, false⟩ (.reg 1) (.reg 2)) (withS [(2, 4)])
      (fun u => u.vldsCheck false (strideAddrs (u.readS (.reg 1)) (u.readS (.reg 2))) = .go) ∧
    Meets (.vsts ⟨1, 0, false⟩ (.reg 1) (.reg 2)) (withS [(2, 1024)])
      (fun u => u.vldsCheck true (strideAddrs (u.readS (.reg 1)) (u.readS (.reg 2))) = .go) ∧
    Meets (.vmova false ⟨1, 0, false⟩ (.reg 1) (.reg 2)) (withS [(1, 15), (2, 127)])
      (fun u => u.accBad u.curId (u.accIndex (.reg 1) (.reg 2)) 128 = false) ∧
    Meets (.vld false ⟨1, 0, false⟩ (.reg 1) 0) (withS [(1, 32)]) (fun u => (u.rowAddr (.reg 1) 0).toNat % 64 ≠ 0) ∧
    Meets (.vld false ⟨1, 0, false⟩ (.reg 1) 0) (withS [(1, 0x2FFE40)])
      (fun u => (u.rowAddr (.reg 1) 0).toNat % 64 = 0 ∧ outsideSpad (u.rowAddr (.reg 1) 0).toNat 512 ≠ none) ∧
    Meets (.vst ⟨1, 0, false⟩ (.reg 1) 0) (withS [(1, 32)]) (fun u => (u.rowAddr (.reg 1) 0).toNat % 64 ≠ 0) ∧
    Meets (.vst ⟨1, 0, false⟩ (.reg 1) 0) (withS [(1, 0x300000)])
      (fun u => (u.rowAddr (.reg 1) 0).toNat % 64 = 0 ∧ outsideSpad (u.rowAddr (.reg 1) 0).toNat 512 ≠ none) := by
  unfold Meets Ready; decide

/-- Strided rows whose first element, or whose second after a good first, is the first at fault. -/
theorem reaches_first (a b : SOp) (x : Word) (u : State) (h : u.readS a + BitVec.ofNat 64 0 * u.readS b = x) :
    reaches a b 0 x u := ⟨by rw [strideAddrs_get _ _ _ (by omega), h], by simp⟩

theorem reaches_second (a b : SOp) (x : Word) (u : State) (h : u.readS a + BitVec.ofNat 64 1 * u.readS b = x)
    (g : (u.readS a + BitVec.ofNat 64 0 * u.readS b).toNat % 4 = 0 ∧
      outsideSpad (u.readS a + BitVec.ofNat 64 0 * u.readS b).toNat 4 = none) : reaches a b 1 x u := by
  refine ⟨by rw [strideAddrs_get _ _ _ (by omega), h], fun y hy => ?_⟩
  obtain ⟨j, hj, rfl⟩ := mem_take_strideAddrs _ _ _ _ hy
  obtain rfl : j = 0 := by omega
  exact g

theorem test_meets_VectorMemorySlots_strided :
    Meets (.vlds false ⟨1, 0, false⟩ (.reg 1) (.reg 2)) (withS [(1, 4), (2, 3)]) (reaches (.reg 1) (.reg 2) 1 7) ∧
    Meets (.vsts ⟨1, 0, false⟩ (.reg 1) (.reg 2)) (withS [(1, 2)]) (reaches (.reg 1) (.reg 2) 0 2) ∧
    Meets (.vlds false ⟨1, 0, false⟩ (.reg 1) (.reg 2)) (withS [(1, 0x2FFFFC), (2, 4)]) (reaches (.reg 1) (.reg 2) 1 0x300000) ∧
    Meets (.vsts ⟨1, 0, false⟩ (.reg 1) (.reg 2)) (withS [(1, 0x100000000)]) (reaches (.reg 1) (.reg 2) 0 0x100000000) ∧
    7 % 4 ≠ 0 ∧ 2 % 4 ≠ 0 ∧ outsideSpad 0x300000 4 ≠ none ∧ outsideSpad 0x100000000 4 ≠ none := by
  refine ⟨⟨by unfold Ready; decide, reaches_second _ _ _ _ (by decide) (by decide)⟩,
    ⟨by unfold Ready; decide, reaches_first _ _ _ _ (by decide)⟩,
    ⟨by unfold Ready; decide, reaches_second _ _ _ _ (by decide) (by decide)⟩,
    ⟨by unfold Ready; decide, reaches_first _ _ _ _ (by decide)⟩, by decide⟩

/-- A tile whose slice page 0 is mapped with every right. -/
def mapped (f : Tile → Tile) : State :=
  { onTile0 f with clusters := [(0, { Cluster.reset with tlb := [(0, 0xF)] })] }

/-- The same with s1 the first address of the slice. -/
def inSlice : State := mapped fun x => { x with th := { x.th with s := vset x.th.s 1 0x100000000 } }

theorem test_meets_ScalarMemorySlots :
    (∀ i ∈ [(Instr.ldB false 3 (.reg 1) 127, 1), (.ldBu false 3 (.reg 1) 5, 1)],
      Meets i.1 (withS [(1, 1)]) (fun u => u.accessCheck (u.readS (.reg 1)) i.2 rRD false = .go)) ∧
    Meets (.ldH false 3 (.reg 1) 1) inSlice (fun u => u.accessCheck (u.readS (.reg 1) + 2) 2 rRD false = .go) ∧
    Meets (.ldHu true 3 (.reg 1) 0) base (fun u => u.accessCheck (u.readS (.reg 1)) 2 rRD false = .go) ∧
    Meets (.ldW false 3 (.reg 1) 0) (withS [(1, 0x2FFFFC)]) (fun u => u.accessCheck (u.readS (.reg 1)) 4 rRD false = .go) ∧
    Meets (.ldWu false 3 (.reg 1) 0) (withS [(1, 0x6FFFFC)]) (fun u => u.accessCheck (u.readS (.reg 1)) 4 rRD false = .go) ∧
    Meets (.ldD false 3 (.reg 1) 0) inSlice (fun u => u.accessCheck (u.readS (.reg 1)) 8 rRD false = .go) ∧
    Meets (.ldx false (.file 1) (.reg 1) .d false 0xFFFFFFF8) (withS [(1, 8)])
      (fun u => u.accessCheck (u.readS (.reg 1) + (0xFFFFFFF8#32).signExtend 64) 8 rRD false = .go) ∧
    Meets (.stB 3 (.reg 1) 0) (withS [(1, 0x2FFFFF)]) (fun u => u.accessCheck (u.readS (.reg 1)) 1 rW true = .go) ∧
    Meets (.stH 3 (.reg 1) 0) base (fun u => u.accessCheck (u.readS (.reg 1)) 2 rW true = .go) ∧
    Meets (.stW 3 (.reg 1) 0) inSlice (fun u => u.accessCheck (u.readS (.reg 1)) 4 rW true = .go) ∧
    Meets (.stD 3 (.reg 1) 0) (withS [(1, 0x400000)]) (fun u => u.accessCheck (u.readS (.reg 1)) 8 rW true = .go) ∧
    Meets (.stx (.reg 2) (.reg 1) .h 6) base (fun u => u.accessCheck (u.readS (.reg 1) + 6) 2 rW true = .go) ∧
    Meets (.aaddW false 3 (.reg 1) (.reg 2)) inSlice (fun u => u.accessCheck (u.readS (.reg 1)) 4 (rRD + rW) true = .go) ∧
    Meets (.acasD false 3 (.reg 1) (.reg 2)) base (fun u => u.accessCheck (u.readS (.reg 1)) 8 (rRD + rW) true = .go) ∧
    Meets (.afaddW true 3 (.reg 1) (.reg 2)) inSlice (fun u => u.accessCheck (u.readS (.reg 1)) 4 (rRD + rW) true = .go) := by
  unfold Meets Ready; decide

theorem test_meets_ScalarAccessChecks :
    base.iss.agent = .tile 0 ∧ base.accessCheck 0x2FFFFC 4 rRD false = .go ∧ rangeOf 0x300000 = none ∧
    rangeOf 0x3FFFFF = none ∧ rangeOf 0x700000 = none ∧ rangeOf 0x180000000 = none ∧ outside 0x2FFFFE 2 = none ∧
    outside 0x6FFFFD 2 = none ∧ (0x6FFFFD % 2 : Nat) ≠ 0 ∧ rangeOf 0x17FFFFFFF = some (0x100000000, 0x17FFFFFFF) ∧
    rangeOf 0x2FFFFC = some (0x0, 0x2FFFFF) ∧ (0x2FFFFF : Nat) + 1 < 0x2FFFFC + 8 ∧ (0x2FFFF8 : Nat) + 8 ≤ 0x2FFFFF + 1 ∧
    rangeOf 0x17FFFFFF8 = some (0x100000000, 0x17FFFFFFF) ∧ (0x17FFFFFF8 % 8 : Nat) = 0 ∧
    (base.translate 0 0x7FFFFFF8 rRD).isOk = false ∧ (inSlice.translate 0 0 rRD).isOk = true ∧
    ({ base with modl := { base.modl with bad := [.scratch 0 0] } } : State).spadBad 0 0 4 = true ∧
    base.spadBad 0 0x2FFFFC 4 = false := by decide

/-- R193: 8 bytes at 0x2FFFFC pass the end of the linear view. -/
theorem test_access_past_a_view :
    base.accessCheck 0x2FFFFC 8 rRD false = base.faultAcc false 0x17 0x300000 := by decide

/-- A tile with a store of cluster scope still posted. -/
def posting : State := onTile0 fun x => { x with th := { x.th with posts := [⟨0, 64, .cluster, .store [1], none⟩] } }

theorem test_meets_FenceAndJoin :
    Meets (.fence .tile 15) posting (fun u => u.fenceDone .tile 15 = true) ∧
    Meets (.fence .cluster 4) posting (fun u => u.fenceDone .cluster 4 = false) ∧
    posting.fenceDone .system 2 = true ∧ posting.fenceDone .system 8 = false := by
  unfold Meets Ready; decide

/-- The same, its byte taken by load 3. -/
def taken : State := onTile0 fun x => { x with th := { x.th with posts := [⟨0, 64, .cluster, .store [1], some 3⟩] } }

/-- R270, R274, R275 (assumption 20): the store stands before a later store of another scope, a scratchpad store and a load
behind a FENCE. -/
theorem test_forwarded_load :
    (taken.threadOf (.tile 0)).mayApply ⟨5, 0x80000000, .module, .store [2], none⟩ = false ∧
    taken.fenceDone .cluster 2 = false ∧ readByte (taken.performEarlier (.tile 0) 0 0).hbm 64 = 1 := by decide

/-- The tile 0 holding its cluster's lease at array cycle 9, with one group of scales in each queue and descriptors of
256-byte strides in row 0 of t0 and in vo1. -/
def leased (f : Tile → Tile) : State :=
  { onTile0 fun x => f { x with t := [(0, 0x10000000000)], vo := vset x.vo 1 0x10000000000 } with
    clusters := [(0, { Cluster.reset with
      arr := { MatArray.reset with
        holder := some 0
        age := 9
        sa := [⟨5, .b32, List.replicate 128 127⟩]
        sb := [⟨5, .b32, List.replicate 128 127⟩] } })] }

/-- The multiply-mode fields of native MMA. -/
def mmaFields (f : Fmt) : MmaF := ⟨f, f, 128, 0, 0, true, .none⟩

theorem test_meets_MatrixSlots :
    Meets .mlease (leased fun x => { x with lease := some true }) hasLease ∧
    (∀ s ∈ [base, leased id, onTile0 fun x => { x with lease := some true }], Meets .mlease s fun u => ¬hasLease u) ∧
    (∀ i ∈ [Instr.mmaBf16 3 (.row 0 0 false) (.file 1), .mmcW 3 (.row 0 0 false) (.file 1) (nativeCount .e2m1 false),
        .cfoldCb1 (.imm 1), .csave .fold (.reg 1), .sldA (.reg 1) (.imm 1)],
      Meets i base (fun u => u.arr.holder ≠ some (BitVec.ofNat 2 u.curId) ∨ u.arr.spent = true)) ∧
    Meets .mrel (leased id) (fun u => u.arr.holder = some (BitVec.ofNat 2 u.curId)) ∧
    Meets .mrel base (fun u => u.arr.holder ≠ some (BitVec.ofNat 2 u.curId)) ∧
    Meets (.mmaBf16 3 (.row 0 0 false) (.file 1)) (leased id)
      (fun u => u.mmaCheck (mmaFields .bf16) (.row 0 0 false) (.file 1) = .go) ∧
    Meets (.mmaFp16 3 (.row 0 0 false) (.file 1)) (leased id)
      (fun u => u.mmaCheck (mmaFields .fp16) (.row 0 0 false) (.file 1) = .go) ∧
    Meets (.mmaE4m3 3 (.row 0 0 false) (.file 1)) (leased id)
      (fun u => u.mmaCheck (mmaFields .e4m3) (.row 0 0 false) (.file 1) = .go) ∧
    Meets (.mmaE5m2 3 (.row 0 0 false) (.file 1)) (leased id)
      (fun u => u.mmaCheck (mmaFields .e5m2) (.row 0 0 false) (.file 1) = .go) ∧
    Meets (.mmaW 3 (.row 0 0 false) (.file 1) ⟨.bf16, .fp16, 32, 5, 127, false, .b32⟩) (leased id)
      (fun u => u.mmaCheck ⟨.bf16, .fp16, 32, 5, 127, false, .b32⟩ (.row 0 0 false) (.file 1) = .go) := by
  unfold Meets Ready hasLease; decide

theorem test_meets_counts :
    Meets (.mmcE2m1Cb0 3 (.row 0 0 false) (.file 1)) (leased id)
      (fun u => u.mmcCheck (nativeCount .e2m1 false) (.row 0 0 false) (.file 1) = .go) ∧
    Meets (.mmcE3m0Cb1 3 (.row 0 0 false) (.file 1)) (leased id)
      (fun u => u.mmcCheck (nativeCount .e3m0 true) (.row 0 0 false) (.file 1) = .go) ∧
    Meets (.mmcInt4Cb0 3 (.row 0 0 false) (.file 1)) (leased id)
      (fun u => u.mmcCheck (nativeCount .int4 false) (.row 0 0 false) (.file 1) = .go) ∧
    Meets (.mmcW 3 (.row 0 0 false) (.file 1) ⟨.e2m1, .rup, true, 64, .none, true, 9, true, true, 8, 0⟩) (leased id)
      (fun u => u.mmcCheck ⟨.e2m1, .rup, true, 64, .none, true, 9, true, true, 8, 0⟩ (.row 0 0 false) (.file 1) = .go) ∧
    (∀ i ∈ [Instr.cfoldCb0 (.reg 1), .cfoldCb1 (.imm 1), .cfoldW true 9, .cmergeCb0, .cmergeCb1, .cclr, .aclr 3,
        .cdrain .rne 2, .cdrainAdd .rto 2, .cdrainW .rdn 2 true], (leased id).aloneBundle.soleCheck i = .go) ∧
    (leased id).arr.holder = some (BitVec.ofNat 2 (leased id).curId) ∧ (leased id).arr.spent = false ∧
    (leased id).arr.cellStart + 4 ≤ 32768 := by
  unfold Meets Ready; decide

theorem test_meets_scales :
    Meets (.csave .fold (.reg 1)) (leased id) (fun u =>
      u.leaseCheck (u.arr.cellStart + imgCycles .fold + 1) = .go ∧ u.imageCheck .fold (u.readS (.reg 1)) true = .go) ∧
    Meets (.cload .cb1 (.reg 1)) (leased id) (fun u =>
      u.leaseCheck (u.arr.cellStart + imgCycles .cb1 + 1) = .go ∧ u.imageCheck .cb1 (u.readS (.reg 1)) false = .go) ∧
    Meets (.sldA (.reg 1) (.imm 1)) (leased fun x => { x with spad := writeBytes [] 0 (List.replicate 128 1) })
      (fun u => u.sldCheck false true (u.readS (.reg 1)) (u.readS (.imm 1)) = .go) ∧
    Meets (.sldB (.reg 1) (.imm 0)) (leased id) (fun u => u.sldCheck true true (u.readS (.reg 1)) (u.readS (.imm 0)) = .go) ∧
    Meets (.sldW true false .b16 (.reg 1) (.imm 2)) (leased id)
      (fun u => u.sldCheck true false (u.readS (.reg 1)) (u.readS (.imm 2)) = .go) := by
  unfold Meets Ready; decide

/-- A tile with the template of the spec's example at entry 0 of bank 0. -/
def withDict : State := onTile0 fun x => { x with bank0 := ⟨[(0, 0x60550000002810200000000000000000)], 0, none⟩ }

theorem test_meets_DictionarySlots :
    Meets (.dload true (.reg 1) (.reg 2)) (withS [(1, 0x2FFFC0), (2, 4)])
      (fun u => u.dloadCheck true (u.readS (.reg 1)) (u.readS (.reg 2)) = .go) ∧
    Meets (.dload true (.reg 1) (.reg 2)) (withS [(2, 2049)]) (fun u => 2048 < (u.readS (.reg 2)).toNat) ∧
    Meets (.dload false (.reg 1) (.reg 2)) (withS [(1, 16), (2, 1)])
      (fun u => 0 < (u.readS (.reg 2)).toNat ∧ (u.readS (.reg 2)).toNat ≤ 2048 ∧ (u.readS (.reg 1)).toNat % 64 ≠ 0) ∧
    withDict.iss.phase = .alone ∧
    withDict.aloneBundle.expand withDict.iss.pos 0 2 0x10 0x18 = .ok (.mmcW 2 (.row 4 0 false) (.row 6 0 false)
      ⟨.e2m1, .rne, false, 32, .b32, false, 0, false, false, 0, 0⟩) ∧
    (Instr.mmcW 2 (.row 4 0 false) (.row 6 0 false)
      ⟨.e2m1, .rne, false, 32, .b32, false, 0, false, false, 0, 0⟩).wide.isSome = true ∧
    (withDict.aloneBundle.expand withDict.iss.pos 1 0 0 0).toOption = none ∧
    ((committing withDict).expand 0 0 2 0x10 0x18).isOk = true := by
  unfold Meets Ready; decide

/-- A tile with wide templates: LI, VADD, BR and LOOP at entries 0 to 3 (R50, R77). -/
def withTemplates : State := onTile0 fun x =>
  { x with bank0 := ⟨([.li false (.reg 3) 5, .vaddW .rne false (.file 1) (.row 0 0 false) (.file 2) .int8 true, .brW 8,
      .loopW (.imm 3) 8] : List Instr).zipIdx.filterMap fun e => (encodeTemplate e.1).map fun t => (e.2, t), 0, none⟩ }

theorem test_meets_dictionary_forms :
    ∀ e ∈ ([.li false (.reg 3) 5, .vaddW .rne false (.file 1) (.row 0 0 false) (.file 2) .int8 true, .brW 8,
        .loopW (.imm 3) 8] : List Instr).zipIdx,
      (withTemplates.aloneBundle.expand withTemplates.iss.pos (BitVec.ofNat 11 e.2) 0 0 0).toOption = some e.1 ∧
      withTemplates.iss.phase = .alone ∧ withTemplates.aloneBundle.soleCheck e.1 = .go := by decide

/-- A tile whose handle slots up to k are BUSY. -/
def busyTo (k : Nat) : State := onTile0 fun x =>
  { x with handles := (List.range k).map fun i => (i, ⟨.busy, 7, none, false, false, 0, false⟩) }

/-- A tile with slot 3 allocated in generation 5, and slot 4 an orphan of generation 1; s1 and s2 name them. -/
def twoHandles (loc : Bool) : State := onTile0 fun x =>
  { x with
    handles := [(3, ⟨.alloc, 5, none, loc, loc, 2, false⟩), (4, ⟨.orphan, 2, some 1, false, false, 0, false⟩)]
    th := { x.th with s := vset (vset x.th.s 1 0x503) 2 0x104 } }

theorem test_meets_HandleSlots :
    Meets (.halloc false 6) (busyTo 2) (fun u => (u.cur.hslot 2).st = .free ∧ 2 < 256 ∧ ∀ j < 2, (u.cur.hslot j).st ≠ .free) ∧
    Meets (.hwaitL false 6 (.reg 1)) (twoHandles true) (fun u =>
      u.cur.handleMatch (u.readS (.reg 1)) = .slot ∧ (u.cur.hslot (slotNo (u.readS (.reg 1)))).loc = true) ∧
    Meets (.hwaitR false 6 (.reg 1)) (twoHandles true) (fun u =>
      u.cur.handleMatch (u.readS (.reg 1)) = .slot ∧ (u.cur.hslot (slotNo (u.readS (.reg 1)))).rem = true) ∧
    Meets (.hwaitL false 6 (.reg 2)) (twoHandles true) (fun u => u.cur.handleMatch (u.readS (.reg 2)) = .orphan) ∧
    Meets (.hwaitR false 6 (.reg 2)) (twoHandles true) (fun u => u.cur.handleMatch (u.readS (.reg 2)) = .orphan) ∧
    Meets (.hwaitL false 6 (.reg 1)) (twoHandles false) (fun u =>
      u.cur.handleMatch (u.readS (.reg 1)) = .slot ∧ (u.cur.hslot (slotNo (u.readS (.reg 1)))).loc = false) ∧
    Meets (.hwaitR false 6 (.reg 1)) (twoHandles false) (fun u =>
      u.cur.handleMatch (u.readS (.reg 1)) = .slot ∧ (u.cur.hslot (slotNo (u.readS (.reg 1)))).rem = false) ∧
    Meets (.htest false 6 (.reg 1)) (twoHandles false) (fun u => u.cur.handleMatch (u.readS (.reg 1)) ≠ .stale) ∧
    Meets (.hfree (.reg 1)) (twoHandles false) (fun u => u.cur.handleMatch (u.readS (.reg 1)) = .slot) ∧
    Meets (.hfree (.reg 2)) (twoHandles false) (fun u => u.cur.handleMatch (u.readS (.reg 2)) ≠ .slot) ∧
    Meets (.hwaitL false 6 (.reg 3)) (twoHandles true) (fun u => u.cur.handleMatch (u.readS (.reg 3)) = .stale) ∧
    Meets (.hwaitR false 6 (.reg 3)) (twoHandles true) (fun u => u.cur.handleMatch (u.readS (.reg 3)) = .stale) ∧
    Meets (.htest false 6 (.reg 3)) (twoHandles true) (fun u => u.cur.handleMatch (u.readS (.reg 3)) = .stale) := by
  unfold Meets Ready; decide

theorem test_meets_halloc_exhausted :
    Meets (.halloc false 6) (busyTo 256) (fun u => ∀ k < 256, (u.cur.hslot k).st ≠ .free) := by
  unfold Meets Ready; decide

/-- Tile 0 with handle slot 3 allocated in generation 5 (s1), a copy descriptor in s4 to s7 (source 0, destination
0x1000, second source 0x2000, layout ly0), 2 rows of 64 bytes in ly0, and window 7 open in generation 2 (s2, its value). -/
def moving (f : Tile → Tile) : State := onTile0 fun x =>
  f { x with
    handles := [(3, ⟨.alloc, 5, none, true, true, 0, false⟩)]
    ly := vset x.ly 0 0x0001000100020001
    dirs := [(7, { WDir.reset with isOpen := true, gen := 2 })]
    th := { x.th with
      s := [(1, 0x503), (2, 0x10207), (5, 0x1000), (6, 0x2000), (8, 0x200000), (9, 0x102070000), (10, 64), (11, 64)].foldl
        (fun v (e : Nat × Word) => vset v e.1 e.2) x.th.s } }

/-- What a start of an operation asks of the handle table and the copy queue. -/
def startable (u : State) : Prop :=
  u.cur.handleMatch (u.readS (.reg 1)) = .slot ∧ (u.cur.hslot (slotNo (u.readS (.reg 1)))).st ≠ .busy ∧
    (u.cluster u.curCluster).queue.length < 64

theorem test_meets_CopySlots :
    Meets (.cpy 1 (.reg 4)) (moving id) (fun u => startable u ∧ (u.copyP (.reg 4) (u.copyLy (.reg 4)) none none).fault = none ∧
      (u.copyP (.reg 4) (u.copyLy (.reg 4)) none none).empty = false) ∧
    Meets (.cpyr 1 (.reg 4)) (moving id) (fun u => startable u ∧
      (u.copyP (.reg 4) (u.copyLy (.reg 4)) none (some (.fp32, .sum, .rne))).fault = none) ∧
    Meets (.cpyW (.reg 1) (.reg 4) 0 (some ⟨.bf16, .fp32, .rne⟩)) (moving id) (fun u => startable u ∧
      (u.copyP (.reg 4) 0 (some ⟨.bf16, .fp32, .rne⟩) none).fault = none) ∧
    Meets (.cpyrW (.reg 1) (.reg 4) ⟨1, false, .max, .fp32, .int32, .rne⟩) (moving id) (fun u => startable u ∧
      (u.copyP (.reg 4) 1 none (some (.int32, .max, .rne))).fault = none) := by
  unfold Meets Ready startable; decide

theorem test_meets_WindowTransferSlots :
    Meets (.wget 1 (.reg 8)) (moving id)
      (fun u => u.winCheck (u.thread.getS 1) (.reg 8) (u.winP (.reg 8) .get 1 .fp32 .repl .rne) = .go) ∧
    Meets (.wstr 1 (.reg 8)) (moving id)
      (fun u => u.winCheck (u.thread.getS 1) (.reg 8) (u.winP (.reg 8) .str 1 .fp32 .repl .rne) = .go) ∧
    Meets (.wstrn 1 (.reg 8)) (moving id)
      (fun u => u.winCheck (u.thread.getS 1) (.reg 8) (u.winP (.reg 8) .strn 1 .fp32 .repl .rne) = .go) ∧
    Meets (.wacc 1 (.reg 8)) (moving id)
      (fun u => u.winCheck (u.thread.getS 1) (.reg 8) (u.winP (.reg 8) .acc 4 .fp32 .sum .rne) = .go) ∧
    Meets (.wgac 1 (.reg 8)) (moving id)
      (fun u => u.winCheck (u.thread.getS 1) (.reg 8) (u.winP (.reg 8) .gac 4 .int32 .sum .rne) = .go) ∧
    Meets (.wcas 1 (.reg 8)) (moving id) (fun u => u.winCheck (u.thread.getS 1) (.reg 8)
      (u.winP (.reg 8) .cas (if (u.readD (.reg 8) 3).getLsbD 33 then 8 else 4) .fp32 .repl .rne) = .go) ∧
    Meets (.waccW (.reg 1) (.reg 8) .bf16 .max .rne) (moving id)
      (fun u => u.winCheck (u.readD (.reg 1) 0) (.reg 8) (u.winP (.reg 8) .acc 2 .bf16 .max .rne) = .go) ∧
    Meets (.wgacW (.reg 1) (.reg 8) .fld .sum .rne) (moving id)
      (fun u => u.winCheck (u.readD (.reg 1) 0) (.reg 8) (u.winP (.reg 8) .gac 16 .fld .sum .rne) = .go) := by
  unfold Meets Ready; decide

/-- A window directory entry that is open in generation 2, changed. -/
def dir7 (f : WDir → WDir) (x : Tile) : Tile := { x with dirs := [(7, f { WDir.reset with isOpen := true, gen := 2 })] }

/-- The tile waits with a request that has been answered with v. -/
def answered (q : WaitReq) (v : Word) : State := moving fun x => { x with req := some q, grant := some v }

theorem test_meets_window_requests :
    Meets (.wopen 3 (.reg 5)) (answered (.wopen 0x1000 0x2000) 0x10207) (fun u => u.granted (u.wopenReq (.reg 5)) = some 0x10207 ∧ u.thread.quiet = true) ∧
    Meets (.wdrop (.reg 2)) (answered (.wdrop 7) 0) (fun u => (u.granted (.wdrop (widOf (u.readS (.reg 2))))).isSome = true ∧ u.thread.quiet = true) ∧
    Meets (.wfen (.reg 2)) (answered (.wfen 7 false) 0) (fun u => (u.granted (wfenReq (u.readS (.reg 2)))).isSome = true ∧ u.thread.quiet = true) ∧
    Meets (.wlockSh (.reg 2) (.reg 3)) (answered (.wlock 7 0 false) 1)
      (fun u => (u.granted (wlockReq (u.readS (.reg 2)) (u.readS (.reg 3)) false)).isSome = true ∧ u.thread.quiet = true) ∧
    Meets (.wlockEx (.reg 2) (.reg 3)) (answered (.wlock 7 0 true) 1)
      (fun u => (u.granted (wlockReq (u.readS (.reg 2)) (u.readS (.reg 3)) true)).isSome = true ∧ u.thread.quiet = true) := by
  unfold Meets Ready; decide

/-- The entry of window 7 at the port of tile 0, in exposure to the empty group. -/
def exposed : State :=
  { moving (dir7 fun d => { d with posted := true }) with
    clusters := [(0, { Cluster.reset with wins := [(entryKey 0 0 7, ⟨0, 2, 0, 64, true, true, true, false, .posted 0 [], []⟩)] })] }

theorem test_meets_WindowSyncSlots :
    Meets (.wpost (.reg 2) (.reg 3)) (moving id) (fun u => u.cur.windowOk (u.readS (.reg 2)) = true ∧
      (u.dirOf (u.readS (.reg 2))).posted = false ∧ groupOk (u.readS (.reg 3)) u.cur.nrank.toNat = true) ∧
    Meets (.wstart (.reg 2) (.reg 3)) (moving id) (fun u => u.cur.windowOk (u.readS (.reg 2)) = true ∧
      (u.dirOf (u.readS (.reg 2))).started = none ∧ groupOk (u.readS (.reg 3)) u.cur.nrank.toNat = true ∧
      u.thread.quiet = true ∧ u.postsHeld (u.dirOf (u.readS (.reg 2))) (u.readS (.reg 3)) = true) ∧
    Meets (.wcomp (.reg 2)) (moving (dir7 fun d => { d with started := some 0x10000 })) (fun u =>
      u.cur.windowOk (u.readS (.reg 2)) = true ∧ (u.dirOf (u.readS (.reg 2))).started.isSome = true ∧ u.thread.quiet = true ∧
      u.busyOn u.curId (widOf (u.readS (.reg 2))) ((u.readS (.reg 2)).extractLsb' 8 8)
        (fun r => (groupMembers (u.startedGroup (u.readS (.reg 2)))).contains r) = false) ∧
    Meets (.wunlk (.reg 2) (.reg 3)) (moving (dir7 fun d => { d with locks := [(0, .held)] })) (fun u =>
      u.cur.windowOk (u.readS (.reg 2)) = true ∧ lockRank (u.readS (.reg 3)) < u.cur.nrank.toNat ∧
      ((u.dirOf (u.readS (.reg 2))).lock (lockRank (u.readS (.reg 3))) = some .held ∨
        (u.dirOf (u.readS (.reg 2))).lock (lockRank (u.readS (.reg 3))) = some .refused) ∧ u.thread.quiet = true ∧
      u.busyOn u.curId (widOf (u.readS (.reg 2))) ((u.readS (.reg 2)).extractLsb' 8 8)
        (fun r => r == lockRank (u.readS (.reg 3))) = false) ∧
    Meets (.wflsh (.reg 2) (.reg 3)) (moving id) (fun u => u.cur.windowOk (u.readS (.reg 2)) = true ∧
      ((u.readS (.reg 3)).getLsbD 16 = true ∨ lockRank (u.readS (.reg 3)) < u.cur.nrank.toNat) ∧
      u.busyOn u.curId (widOf (u.readS (.reg 2))) ((u.readS (.reg 2)).extractLsb' 8 8)
        (fun r => (u.readS (.reg 3)).getLsbD 16 || r == lockRank (u.readS (.reg 3))) = false) ∧
    Meets (.wpost (.reg 3) (.reg 3)) (moving id) (fun u => u.cur.windowOk (u.readS (.reg 3)) = false) ∧
    Meets (.wunlk (.reg 2) (.reg 3)) (moving (dir7 fun d => { d with locks := [(0, .requested)] })) (fun u =>
      u.cur.windowOk (u.readS (.reg 2)) = true ∧ lockRank (u.readS (.reg 3)) < u.cur.nrank.toNat ∧
      (u.dirOf (u.readS (.reg 2))).lock (lockRank (u.readS (.reg 3))) = some .requested) := by
  unfold Meets Ready; decide

theorem test_meets_wwait :
    Meets (.wwait (.reg 2)) exposed (fun u => u.cur.windowOk (u.readS (.reg 2)) = true ∧
      (u.dirOf (u.readS (.reg 2))).posted = true ∧ u.thread.quiet = true ∧
      ∃ e, u.entryFrom u.curId u.curId (widOf (u.readS (.reg 2))).toNat = some e ∧ u.exposureDone u.cur (widOf (u.readS (.reg 2))) e = true) :=
  ⟨⟨by decide, by decide⟩, by decide, by decide, by decide, _, rfl, by decide⟩

/-- A collective descriptor at 0x40 and its list of two peers, the tile 0 (entry 0) first. -/
def ctMem : Memory :=
  writeBytes (writeBytes [] 0x40
    ([0x1000, 0x2000, 0x3000, 0x4000, 64, 0x5000, 2, 0].flatMap (leBytes 8))) 0x5000 ([0, 4].flatMap (leBytes 4))

/-- The tile with that descriptor (s8), an entry 0 that is IDLE and a handle in s1. -/
def collective (st : CtState) : State :=
  { moving (fun x => { x with spad := ctMem, th := { x.th with s := vset x.th.s 8 0x40 } }) with
    clusters := [(0, { Cluster.reset with cts := [(0, { CtEntry.reset with st := st })] })] }

theorem test_meets_CollectiveSlots :
    Meets (.ctset (.reg 8)) (onTile0 fun x => { x with spad := ctMem, th := { x.th with s := vset x.th.s 8 0x40 } }) (fun u =>
      (u.readD (.reg 8) 0).toNat % 64 = 0 ∧ outside (u.readD (.reg 8) 0).toNat 64 = none ∧ u.thread.quiet = true ∧
      u.ctLoad u.curId (u.readD (.reg 8) 0) (u.readD (.reg 8) 1) =
        .ok (⟨0x1000, 0x2000, 0x3000, 0x4000, 64, 0x5000, 2, 0⟩, [0, 4]) ∧
      (u.ct u.curCluster (ctIndex u.curId (u.readD (.reg 8) 1))).st ≠ .active) ∧
    Meets (.ctready (.reg 1)) (collective .idle) (fun u => u.cur.handleMatch (u.readS (.reg 1) &&& 0xFFFF) = .slot ∧
      (u.cur.hslot (slotNo (u.readS (.reg 1) &&& 0xFFFF))).st ≠ .busy ∧ (u.ctOf (u.readS (.reg 1))).st = .idle) ∧
    Meets (.ctwait (.reg 3)) (collective .idle) (fun u => (u.ctOf (u.readS (.reg 3))).st = .idle) ∧
    Meets (.ctabort (.reg 3)) (collective .active) (fun u => (u.ctOf (u.readS (.reg 3))).st ≠ .free) ∧
    Meets (.ctwait (.reg 3)) (collective .active) (fun u => (u.ctOf (u.readS (.reg 3))).st = .active) ∧
    Meets (.ctready (.reg 1)) (collective .free) (fun u => u.cur.handleMatch (u.readS (.reg 1) &&& 0xFFFF) = .slot ∧
      (u.cur.hslot (slotNo (u.readS (.reg 1) &&& 0xFFFF))).st ≠ .busy ∧ (u.ctOf (u.readS (.reg 1))).st = .free) ∧
    Meets (.ctready (.reg 3)) (collective .idle) (fun u => u.cur.handleMatch (u.readS (.reg 3) &&& 0xFFFF) ≠ .slot) ∧
    Meets (.ctwait (.reg 3)) base (fun u => (u.ctOf (u.readS (.reg 3))).st = .free) ∧
    Meets (.ctabort (.reg 3)) base (fun u => (u.ctOf (u.readS (.reg 3))).st = .free) := by
  unfold Meets Ready; decide

/-- One cluster, one tile, one rank (R294). -/
def oneTile : Word := 0x11001010101

/-- The partition 0, enabled on clusters 0 to 7 and served by context 0; its part, its context and tile 0. -/
def sys (p : Part → Part) (q : Seq → Seq) (t : Tile → Tile) : State :=
  { State.reset with
    parts := [(0, p { Part.reset with en := true, map := (List.range 8).map (BitVec.ofNat 9) })]
    seqs := [(0, q Seq.reset)]
    tiles := [(0, t Tile.reset)]
    modl := { Mod.reset with up := true, vfEnable := true, numVfs := 64 } }

/-- The launch slot 2 of the context, in generation 3. -/
def launch2 (f : LSlot → LSlot) (q : Seq) : Seq :=
  { q with slots := vset q.slots 2 (f { LSlot.reset with gen := 3, shape := oneTile }) }

/-- The context 0 issuing, with an image header at the start of its command memory, a descriptor of it in s4 to s7, and
launch handle 2 in s1. -/
def issuing (f : LSlot → LSlot) : State :=
  { sys id (fun q => launch2 f { q with
      running := true
      cmd := writeBytes [] 0 ([1, 0x100000000, 0, 0].flatMap (leBytes 8))
      th := { q.th with s := [(1, 0x302), (6, oneTile), (7, 1)].foldl (fun v (e : Nat × Word) => vset v e.1 e.2) q.th.s } }) id with
    iss := { Issue.reset with agent := .seq 0 } }

theorem test_meets_LaunchSlots :
    Meets (.launch 3 (.reg 4)) (issuing id) (fun u => u.launchCheck (.reg 4) = .go) ∧
    Meets (.waitl 3 (.reg 1)) (issuing fun l => { l with st := .complete })
      (fun u => u.launchOf (u.readS (.reg 1)) = some { LSlot.reset with gen := 3, shape := oneTile, st := .complete }) ∧
    Meets (.lstat 3 (.reg 1)) (issuing fun l => { l with st := .running })
      (fun u => u.launchOf (u.readS (.reg 1)) = some { LSlot.reset with gen := 3, shape := oneTile, st := .running }) ∧
    Meets (.waitl 3 (.reg 2)) (issuing id) (fun u => u.launchOf (u.readS (.reg 2)) = none) ∧
    Meets (.lstat 3 (.reg 2)) (issuing id) (fun u => u.launchOf (u.readS (.reg 2)) = none) := by
  unfold Meets Ready; decide

/-- The context 0 about to launch with other scalars. -/
def launching (l : List (Nat × Word)) : State :=
  { issuing id with seqs := (issuing id).seqs.map fun e =>
      (e.1, { e.2 with th := { e.2.th with s := l.foldl (fun v (e : Nat × Word) => vset v e.1 e.2) e.2.th.s } }) }

theorem test_meets_launch_faults :
    (∀ st ∈ [LState.queued, .running, .saved], Meets (.waitl 3 (.reg 1)) (issuing fun l => { l with st := st })
      (fun u => u.launchOf (u.readS (.reg 1)) = some { LSlot.reset with gen := 3, shape := oneTile, st := st })) ∧
    Meets (.launch 3 (.reg 4))
      { issuing id with seqs := (issuing id).seqs.map fun e =>
          (e.1, { e.2 with slots := Vector.replicate 16 { LSlot.reset with st := .running } }) }
      (fun u => ∀ k < 16, ((u.seqCtx u.curSeq).slot k).st ≠ .free) ∧
    Meets (.launch 3 (.reg 1)) (issuing id)
      (fun u => ((u.seqCtx u.curSeq).slot 0).st = .free ∧ (u.readD (.reg 1) 0).toNat % 32 ≠ 0) ∧
    Meets (.launch 3 (.reg 4))
      { issuing id with seqs := (issuing id).seqs.map fun e =>
          (e.1, { e.2 with th := { e.2.th with posts := [⟨0, 64, .die, .store [1], none⟩] } }) }
      (fun u => ((u.seqCtx u.curSeq).slot 0).st = .free ∧ (u.readD (.reg 4) 0).toNat % 32 = 0 ∧ u.thread.quiet = false) ∧
    Meets (.launch 3 (.reg 4)) (launching [(4, 0x20000)]) (fun u => ((u.seqCtx u.curSeq).slot 0).st = .free ∧
      (u.readD (.reg 4) 0).toNat % 32 = 0 ∧ u.thread.quiet = true ∧
      u.seqRead u.curSeq (u.readD (.reg 4) 0).toNat 32 = .error (0x17, 0x20000)) ∧
    Meets (.launch 3 (.reg 4)) (launching [(4, 32)]) (fun u => u.thread.quiet = true ∧
      u.seqRead u.curSeq (u.readD (.reg 4) 0).toNat 32 = .ok (List.replicate 32 0) ∧
      (wordAt (List.replicate 32 0) 0).extractLsb' 0 32 = 0) ∧
    Meets (.launch 3 (.reg 4)) (launching [(6, 0)]) (fun u => u.thread.quiet = true ∧
      (match u.seqRead u.curSeq (u.readD (.reg 4) 0).toNat 32 with
        | .ok bs => (imageHdr bs).isSome
        | .error _ => false) = true ∧ shapeOk (u.readD (.reg 4) 2) (u.readD (.reg 4) 3) (u.pcl u.curSeq) = false) ∧
    shapeOk oneTile 1 8 = true := by
  unfold Meets Ready; decide

/-- Bundles of four words at the first addresses of the slice. -/
def withCode (f : Tile → Tile) (ws : List Nat) : State :=
  { mapped fun x => f { x with th := { x.th with b0 := { x.th.b0 with pc := 0x100000000 } } } with
    hbm := writeBytes [] 0 (ws.flatMap (leBytes 4)) }

/-- Two bundles of NOPs. -/
def nops : List Nat := [0x18000000, 0x18000000, 0x18000000, 0x98000000, 0x18000000, 0x18000000, 0x18000000, 0x98000000]

theorem test_meets_Branches :
    Meets (.brp false 0 8) base (fun u => u.thread.getP 0 ≠ false) ∧ Meets (.brp true 0 8) base (fun u => u.thread.getP 0 = true) ∧
    Meets (.brpW true 3 8) base (fun u => u.thread.getP 3 ≠ true) ∧ Meets (.brpW false 3 8) base (fun u => u.thread.getP 3 = false) ∧
    Meets (.jr (.reg 1)) (withS [(1, 0x100000004)]) (fun u => (u.readS (.reg 1)).toNat % 4 = 0) ∧
    Meets (.jr (.reg 1)) (withS [(1, 0x100000002)]) (fun u => (u.readS (.reg 1)).toNat % 4 ≠ 0) := by
  unfold Meets Ready; decide

/-- A loop entry with its end at the second bundle. -/
def entry1 : LoopEntry := ⟨0x100000000, 0x100000010, 5, true, 2, 9⟩

/-- A thread with loop entries and p1 set. -/
def looping (n : Nat) (x : Tile) : Tile :=
  { x with th := { x.th with loops := List.replicate n entry1, b0 := { x.th.b0 with p := 3 } } }

theorem test_meets_Loops :
    Meets (.loop (.imm 3) 8) (withCode (looping 5) nops) (fun u =>
      (u.readS (.imm 3)).setWidth 32 ≠ 0#32 ∧ u.thread.loops.length < 6) ∧
    Meets (.looppW 2 (.reg 1) 4) (withCode (looping 0) nops) (fun u =>
      (u.readS (.reg 1)).setWidth 32 = 0#32 ∧ u.pcAfter (u.iss.pc + 4 * (4#16).setWidth 64) = .ok 0x100000020) ∧
    Meets (.loopp 1 (.imm 3) 8) (withCode (looping 6) nops) (fun u =>
      (u.readS (.imm 3)).setWidth 32 ≠ 0#32 ∧ 6 ≤ u.thread.loops.length) ∧
    Meets (.lbrk 1) (withCode (looping 1) nops) (fun u =>
      u.thread.getP 1 = true ∧ u.thread.loops = [entry1] ∧ u.pcAfter entry1.endPc = .ok 0x100000020) ∧
    Meets (.lbrk 2) (withCode (looping 1) nops) (fun u => u.thread.getP 2 = false) ∧
    Meets (.lbrk 1) (withCode (looping 0) nops) (fun u => u.thread.getP 1 = true ∧ u.thread.loops = []) := by
  unfold Meets Ready; decide

theorem test_meets_ControlSlots :
    Meets (.step 5) base (fun u => u.arr.holder ≠ some (BitVec.ofNat 2 u.curId) ∧ u.cur.unquiet = none) ∧
    Meets (.evpop false 3) (onTile0 fun x => { x with q0 := [5] }) (fun _ => True) ∧
    Meets .tret (onTile0 fun x => { x with th := { x.th with lvl := .tl1 } }) (fun _ => True) ∧
    Meets .sleep (onTile0 fun x => { x with q1 := [5] }) (fun u =>
      u.onTile = true ∧ (u.cur.q0 ≠ [] ∨ u.cur.q1 ≠ [] ∨ u.cur.cutPending = true)) ∧
    Meets .sleep base (fun u => u.onTile = true ∧ u.cur.q0 = [] ∧ u.cur.q1 = [] ∧ u.cur.cutPending = false) ∧
    Meets .sleep (issuing fun l => { l with st := .killed }) (fun u => u.iss.agent = .seq 0 ∧
      ∃ l ∈ (u.seqCtx 0).slots.toList, l.st = .complete ∨ l.st = .killed) ∧
    Meets .sleep (issuing id) (fun u => u.iss.agent = .seq 0 ∧ u.partOfSeq 0 = some 0 ∧ (u.part 0).inbox = [] ∧
      ∀ l ∈ (u.seqCtx 0).slots.toList, l.st ≠ .complete ∧ l.st ≠ .killed) ∧
    Meets (.step 5) (onTile0 fun x => { x with handles := [(3, ⟨.busy, 5, none, false, false, 0, false⟩)] })
      (fun u => u.arr.holder ≠ some (BitVec.ofNat 2 u.curId) ∧ u.cur.unquiet = some 0x503) ∧
    (onTile0 fun x => { x with handles := [(3, ⟨.busy, 5, none, false, false, 0, false⟩)] }).cur.unquiet = some 0x503 ∧
    (onTile0 fun x => { x with dirs := [(7, { WDir.reset with gen := 2, posted := true })] }).cur.unquiet = some 0x10207 ∧
    (onTile0 fun x => { x with
      handles := [(9, ⟨.busy, 5, none, false, false, 0, false⟩), (3, ⟨.orphan, 6, none, true, false, 0, false⟩)]
      dirs := [(1, { WDir.reset with posted := true })] }).cur.unquiet = some 0x603 ∧
    Meets (.step 5) (leased id) (fun u => u.arr.holder = some (BitVec.ofNat 2 u.curId)) ∧
    Meets (.sysr false 3 0x105) (onTile0 fun x => { x with th := { x.th with lvl := .tl1 } }) (fun u => u.sysDenied 0x105 = false) ∧
    Meets (.sysw 3 0x114) (onTile0 fun x => { x with th := { x.th with lvl := .tl2 } }) (fun u => u.sysDenied 0x114 = false) ∧
    Meets (.sysr false 3 0x100) base (fun u => u.sysDenied 0x100 = true) ∧
    Meets (.sysw 3 0x110) (onTile0 fun x => { x with th := { x.th with lvl := .tl1 } }) (fun u => u.sysDenied 0x110 = true) := by
  unfold Meets Ready; decide

/-! ### Hypotheses met: events -/

/-- The array of cluster 0, held by tile 0 or asked for by it. -/
def arrayState (f : MatArray → MatArray) (g : Tile → Tile) : State :=
  { onTile0 g with clusters := [(0, { Cluster.reset with arr := f { MatArray.reset with holder := some 0 } })] }

theorem test_meets_ArrayEvents :
    (let s := arrayState (fun m => { m with free := true }) id;
      (s.cluster 0).arr.holder = some 0 ∧ (s.cluster 0).arr.free = true ∧ (s.tile 0).run ≠ .ended) ∧
    ((arrayState id id).cluster 0).arr.free = false ∧
    (let s := arrayState (fun m => { m with holder := none }) (fun x => { x with lease := some false });
      (s.cluster 0).arr.holder = none ∧ nextHolder (s.cluster 0).arr.last (s.leaseWaiters 0) = some 0) ∧
    (let s := arrayState (fun m => { m with spent := true }) id;
      (s.cluster 0).arr.holder = some 0 ∧ (s.cluster 0).arr.spent = true ∧ (s.cluster 0).arr.perfs = []) ∧
    (let s := arrayState (fun m => { m with age := 32768 }) id;
      (s.cluster 0).arr.holder = some 0 ∧ 32768 ≤ (s.cluster 0).arr.age ∧ (s.cluster 0).arr.perfs = []) ∧
    (let s := onTile0 (fun x => { x with late := [⟨7, 0x0D, 64, 1⟩] }); let u := (s.atBoundary (.tile 0)).land (.tile 0);
      (s.tile 0).run = .running ∧ (s.tile 0).fill = none ∧ (s.tile 0).th.late = false ∧ (u.tile 0).run = .running ∧
        (u.tile 0).th.lvl = .tl0 ∧ (u.tile 0).late = [⟨7, 0x0D, 64, 1⟩]) ∧
    (base.threadOf (.tile 0)).late = false ∧
    (let s := onTile0 (fun x => { x with fill := some ⟨true, 0, 4, 9, [(0, 5)], true⟩ });
      (s.tile 0).fill = some ⟨true, 0, 4, 9, [(0, 5)], true⟩ ∧ (s.tile 0).alive = true ∧
        ∀ g < (⟨true, 0, 4, 9, [(0, 5)], true⟩ : Fill).granules, (ffind [(0, (5 : Granule))] g).isSome = true) := by decide

/-- A load of tile 0 under way. -/
def load1 (atomic : Bool) (v : Option Word) : Load :=
  { id := 4, due := 9, seq := 0, pos := 1, dest := none, va := 0x100000000, pa := 64, size := 4, signed := true,
    cached := true, atomic := atomic, value := v }

/-- The tile 0 with that load. -/
def loading (l : Load) : State := onTile0 fun x => { x with th := { x.th with b0 := { x.th.b0 with loads := [l] } } }

theorem test_meets_resultLanding_late : ((loading { load1 false none with due := 0 }).threadOf (.tile 0)).late = true := by decide

theorem test_meets_AccessEvents :
    ((loading (load1 true (some 7))).threadOf (.tile 0)).findLoad 4 = some (load1 true (some 7)) ∧
    ((loading (load1 false none)).threadOf (.tile 0)).findLoad 4 = some (load1 false none) ∧
    ((loading (load1 false none)).threadOf (.tile 0)).mayLoad (load1 false none) = true ∧
    (loading (load1 false none)).hbmBad 64 4 = false ∧
    (posting.threadOf (.tile 0)).posts.find? (fun q => q.id == 0) = some ⟨0, 64, .cluster, .store [1], none⟩ ∧
    (posting.threadOf (.tile 0)).mayApply ⟨0, 64, .cluster, .store [1], none⟩ = true ∧
    posting.postDamage ⟨0, 64, .cluster, .store [1], none⟩ = false ∧
    (posting.threadOf (.tile 0)).forward { load1 false none with size := 1 } =
      some (⟨0, 64, .cluster, .store [1], none⟩, [1]) := by decide

/-- The slice of cluster 0 mapped by the partition's level-1 table in HBM. -/
def walking : State :=
  { sys (fun p => { p with ptbase := 0x1000 }) id id with
    clusters := [(0, { Cluster.reset with owner := some 0 })]
    hbm := writeBytes [] 0x1000 (leBytes 8 0x20002F) }

theorem test_meets_translationWalk :
    (walking.cluster 0).owner = some 0 ∧ (walking.part 0).en = true ∧ (walking.walk (walking.part 0) 0 5).isOk = true ∧
    walking.walk (walking.part 0) 0 0x200000 = .error 0x07 ∧ walking.walked (walking.part 0) 0 0x200000 = some (.fault 0x07) ∧
    (let s : State := { walking with hbm := writeBytes [] 0x1000 (leBytes 8 0x20000F) };
      s.walked (s.part 0) 0 5 = some (.hole 0x20000F)) ∧
    (let s := walking.modPart 0 fun p => { p with xlinv := true };
      (s.cluster 0).owner = some 0 ∧ (s.part 0).xlinv = true ∧ 0 ∈ (s.part 0).map) := by decide

/-- A copy of one row of 64 bytes on channel 2, its source read or not, its destination written or not. -/
def copy1 (strm : Option Bool) (src : Nat) : CopyP :=
  ⟨src, 0x1000, 0, 1, 64, 64, 64, 64, none, none, strm⟩

/-- That copy as operation 5 of tile 0. -/
def op5 (loc : Bool) (strm : Option Bool) (src : Nat) (done : List Nat) : Op :=
  { tile := 0, slot := 3, gen := 5, evt := false, kind := .copy (copy1 strm src), chan := some 2, began := 0, loc := loc,
    buf := [(0, 77)], done := done, sent := 0, accepted := none, answers := [], wrote := [], elem := 0, part := [], failed := 0 }

/-- The cluster 0 with it at cycle 100. -/
def copying (o : Op) (bad : List Place) : State :=
  { mapped id with
    cycle := 100
    clusters := [(0, { Cluster.reset with queue := [8], chans := vset (Vector.replicate 4 none) 2 (some 5), ops := [(5, o)] })]
    modl := { Mod.reset with bad := bad } }

theorem test_meets_CopyEvents :
    (let s := copying (op5 false none 0 []) [];
      (s.cluster 0).queue = [8] ∧ vget (s.cluster 0).chans 1 = none ∧
      s.runningCopy 0 5 = some (op5 false none 0 [], copy1 none 0) ∧ s.paced (op5 false none 0 []) 64 = true ∧
      ∀ g < (copy1 none 0).readCount, (ffind [(0, (77 : Granule))] g).isSome = true) ∧
    (let s := copying (op5 true none 0 [0]) [];
      s.runningCopy 0 5 = some (op5 true none 0 [0], copy1 none 0) ∧ s.paced (op5 true none 0 [0]) 64 = true ∧
      (if (copy1 none 0).mem then ∀ g < (copy1 none 0).dstCount, [0].contains g = true
        else (op5 true none 0 [0]).streamLeft = 0)) ∧
    (let o : Op := { op5 false none 0x100000000 [] with buf := [] };
      (copying o []).runningCopy 0 5 = some (o, copy1 none 0x100000000) ∧
      (copying o []).copyFault o (copy1 none 0x100000000) = some 0x07) ∧
    (let o : Op := { op5 false none 0 [] with buf := [] };
      (copying o [.scratch 0 0]).runningCopy 0 5 = some (o, copy1 none 0) ∧
      (copying o [.scratch 0 0]).copyFault o (copy1 none 0) = some 0x12) ∧
    (let o := op5 true (some true) 0 [];
      (copying o []).runningCopy 0 5 = some (o, copy1 (some true) 0) ∧ (copy1 (some true) 0).strm = some true ∧
      o.streamLeft ≠ 0 ∧ (((copying o []).tile o.tile.toNat).streamRows true).length < 8 ∧
      (copying o []).streamFirst 0 5 o true = true ∧ (copying o []).paced o 512 = true ∧
      ∀ g ∈ (copy1 (some true) 0).streamNeeds 0, (ffind o.buf g).isSome = true) := by decide

/-- A tile of launch 2 of partition 0 with a request not yet answered, window 7 open at its port. -/
def ranks1 (q : WaitReq) (e : WEntry) (g : Tile → Tile) : State :=
  { sys id (launch2 fun l => { l with st := .running }) (fun x =>
      g { x with run := .running, slot := 2, nrank := 1, req := some q, dirs := [(7, { WDir.reset with isOpen := true, gen := 2 })] }) with
    clusters := [(0, { Cluster.reset with owner := some 0, wins := [(entryKey 2 0 7, e)] })] }

/-- A part of 64 bytes in an epoch. -/
def part7 (ep : Epoch) (q : List WReq) : WEntry := ⟨0, 2, 0, 64, true, true, true, false, ep, q⟩

theorem test_meets_WindowCollectiveEvents :
    (let s := ranks1 (.wopen 0 64) (part7 .closed []) id;
      s.allWait 0 2 asksOpen = true ∧ (∃ first, s.waiting 0 2 = [first] ∧ (first.2.dir 0).isOpen = false ∧
        ∀ j < 0, (first.2.dir j).isOpen = true) ∧ s.portsHaveRoom 0 2 = true) ∧
    (let s : State := { ranks1 (.wopen 0 64) (part7 .closed []) id with
        clusters := [(0, { Cluster.reset with wins := (List.range 1024).map fun k => (k, part7 .closed []) })] };
      s.allWait 0 2 asksOpen = true ∧ (∃ first, s.waiting 0 2 = [first] ∧ (first.2.dir 0).isOpen = false) ∧
        s.portsHaveRoom 0 2 = false) ∧
    (let s := ranks1 (.wopen 0 64) (part7 .closed []) (fun x =>
        { x with dirs := (List.range 256).map fun k => (k, { WDir.reset with isOpen := true }) });
      s.allWait 0 2 asksOpen = true ∧ ∃ first, s.waiting 0 2 = [first] ∧ ∀ w < 256, (first.2.dir w).isOpen = true) ∧
    (let s := ranks1 (.wdrop 7) (part7 .closed []) id;
      s.allWait 0 2 (fun q => q == .wdrop 7) = true ∧ (∃ first, s.waiting 0 2 = [first] ∧
        s.launchBusyOn 0 2 7 (first.2.dir 7).gen = false) ∧ s.wentry 2 0 7 = some (part7 .closed [])) ∧
    (let s := ranks1 (.wfen 7 true) (part7 .fence [.fence true]) id;
      s.allWait 0 2 (asksFence 7) = true ∧ s.wentry 2 0 7 = some (part7 .fence [.fence true]) ∧
        ∃ first, s.waiting 0 2 = [first] ∧ s.launchBusyOn 0 2 7 (first.2.dir 7).gen = false ∧
          (s.tile first.1).req.isSome = true) :=
  ⟨⟨by decide, ⟨_, rfl, by decide, by decide⟩, by decide⟩, ⟨by decide, ⟨_, rfl, by decide⟩, by decide⟩, ⟨by decide, _, rfl, by decide⟩,
    ⟨by decide, ⟨_, rfl, by decide⟩, by decide⟩, ⟨by decide, by decide, _, rfl, by decide, by decide⟩⟩

/-- A transfer of tile 0 to itself with all its packets sent, and applied n times. -/
def win5 (loc : Bool) (n : Nat) : Op :=
  { tile := 0, slot := 3, gen := 5, evt := false, chan := some 2, began := 0, loc := loc, buf := [],
    kind := .win ⟨.str, 0, 0, 0, 7, 2, 0, 64, 1, 0, .fp32, .repl, .rne⟩
    done := List.range n, sent := 9, accepted := some 0, answers := [], wrote := [], elem := 0, part := [], failed := 0 }

/-- A WGET of tile 0 from itself, the given packets of it answered. -/
def get5 (l : List Nat) : Op :=
  { win5 false 0 with
    kind := .win ⟨.get, 0, 0, 0, 7, 2, 0, 64, 1, 0, .fp32, .repl, .rne⟩
    done := l
    answers := l.map fun k => (k, List.replicate 64 1) }

/-- A flow from tile 0 to itself. -/
def flowing (f : Flow) : State :=
  { ranks1 .lease (part7 .fence []) id with cycle := 100, flows := [(flowKey 0 0, f)] }

/-- A port whose arrival buffer holds 64 records. -/
def fullBuffer (s : State) : State := s.modTile 1 fun x => { x with notify := List.replicate 64 (9, 99) }

/-- A WACC of 64 bytes from a tile to tile 0, with a number of its elements done. -/
def acc5 (t : BitVec 11) (n : Nat) : Op :=
  { win5 false 0 with tile := t, elem := n, kind := .win ⟨.acc, 0, 0, 0, 7, 2, 0, 64, 1, 0, .fp32, .sum, .rne⟩ }

/-- Packets of two of them, from tiles 0 and 1, at the port of tile 0; elements of the second have acted. -/
def meeting : State :=
  let s := ranks1 .lease (part7 .fence []) id
  { s with
    tiles := s.tiles ++ [(1, s.tile 0)]
    clusters := s.clusters.map fun e => (e.1, { e.2 with ops := [(5, acc5 0 0), (6, acc5 1 2)] })
    flows := [(flowKey 0 0, ⟨[.packet 5 0 []], none⟩), (flowKey 1 0, ⟨[.packet 6 0 []], none⟩)] }

theorem test_meets_WindowTransferEvents :
    (let s := flowing ⟨[.packet 5 0 [1]], none⟩;
      s.flow 0 0 = ⟨[.packet 5 0 [1]], none⟩ ∧ s.flowWaits 0 0 = false ∧ s.portHeld 0 0 5 0 = false ∧ s.bufferFull 0 = false) ∧
    (let s := flowing ⟨[.packet 5 0 [1]], some 36⟩;
      s.flow 0 0 = ⟨[.packet 5 0 [1]], some 36⟩ ∧ 36 + 64 ≤ s.cycle ∧ s.flowWaits 0 0 = false ∧ s.portHeld 0 0 5 0 = false ∧
        s.bufferFull 0 = false) ∧
    (let s := fullBuffer (flowing ⟨[.packet 5 0 [1]], none⟩);
      s.flow 0 0 = ⟨[.packet 5 0 [1]], none⟩ ∧ s.flowWaits 0 0 = false ∧ s.portHeld 0 0 5 0 = false ∧ s.bufferFull 0 = true ∧
        s.begun 0 5 = false) ∧
    (meeting.flow 0 0 = ⟨[.packet 5 0 []], none⟩ ∧ meeting.portHeld 0 0 5 0 = true) ∧
    (let s := copying (win5 false 0) [];
      s.op? 0 5 = some (win5 false 0) ∧ ∀ p, (win5 false 0).kind = .win p → p.kind.fetches = false ∧ p.packets ≤ (win5 false 0).sent) ∧
    (let s := copying (win5 true 9) [];
      s.op? 0 5 = some (win5 true 9) ∧ ∀ p, (win5 true 9).kind = .win p → p.packets ≤ (win5 true 9).done.length) ∧
    (let s := copying (get5 [0]) []; let p : WinP := ⟨.get, 0, 0, 0, 7, 2, 0, 64, 1, 0, .fp32, .repl, .rne⟩;
      s.op? 0 5 = some (get5 [0]) ∧ p.kind.fetches = true ∧ p.packets ≤ (get5 [0]).done.length ∧
      (get5 [0]).wrote.contains 0 = false ∧ (granCuts p.dest.1 p.dest.2)[0]? = some (0, 64) ∧
      (∀ q ∈ p.packetsOf 0 64, (ffind (get5 [0]).answers q).isSome = true) ∧
      (s.writeAt 5 0 0 ((fetched p (get5 [0]).answers).take 64)).isOk = true) ∧
    (let s := onTile0 (fun x => { x with notify := [(9, 5)] });
      (s.tile 0).notify = [(9, 5)] ∧ (s.tile 0).run = .running ∧ (s.tile 0).q1.length < 64) := by
  refine ⟨by decide, by decide, by decide, by decide, ⟨by decide, fun p h => ?_⟩, ⟨by decide, fun p h => ?_⟩, by decide, by decide⟩ <;>
    (cases h; decide)

theorem test_meets_WindowSyncEvents :
    (let m : ReqMsg := ⟨4, 0, 0, 7, .lock 0 true, none⟩;
      ({ base with reqs := [m] } : State).reqs[0]? = some m ∧ m.refused = none ∧ ({ base with reqs := [m] } : State).reqReady m = true ∧
      (({ base with reqs := [m] } : State).cluster 0).queued < 64 ∧ base.bufferFull 0 = false) ∧
    (let m : ReqMsg := ⟨4, 0, 0, 7, .lock 0 true, none⟩; let s := fullBuffer { base with reqs := [m] };
      s.reqs[0]? = some m ∧ m.refused = none ∧ s.reqReady m = true ∧ s.bufferFull 0 = true) ∧
    (let s : State := { ranks1 .lease (part7 .fence (List.replicate 64 (.fence true))) id with
        reqs := [⟨4, 0, 0, 7, .lock 0 true, none⟩] };
      s.reqReady ⟨4, 0, 0, 7, .lock 0 true, none⟩ = true ∧ 64 ≤ (s.cluster 0).queued) ∧
    (let s : State := { ranks1 .lease (part7 .fence []) id with notes := [⟨0, 0, 0, 2, 7, none⟩] };
      s.notes[0]? = some ⟨0, 0, 0, 2, 7, none⟩ ∧ s.bufferFull 0 = false ∧ (fullBuffer s).bufferFull 0 = true ∧
        (fullBuffer s).notes = s.notes ∧ (s.tile 0).run ≠ .free ∧ (s.tile 0).slot = 2) ∧
    (let s := flowing ⟨[.completion 9 7 2], none⟩;
      s.flow 0 0 = ⟨[.completion 9 7 2], none⟩ ∧ s.flowWaits 0 0 = false ∧ s.sentBefore 0 0 9 = true ∧ s.bufferFull 0 = false ∧
        s.flowEntry 0 0 7 2 = some (part7 .fence [])) ∧
    (∀ i ∈ [FlowItem.completion 9 7 2, .release 9 7 2], let s := fullBuffer (flowing ⟨[i], none⟩);
      s.flow 0 0 = ⟨[i], none⟩ ∧ s.flowWaits 0 0 = false ∧ s.sentBefore 0 0 9 = true ∧ s.bufferFull 0 = true) ∧
    (let s := flowing ⟨[.release 9 7 2], none⟩;
      s.flow 0 0 = ⟨[.release 9 7 2], none⟩ ∧ s.flowWaits 0 0 = false ∧ s.sentBefore 0 0 9 = true ∧ s.bufferFull 0 = false ∧
        s.flowEntry 0 0 7 2 = some (part7 .fence [])) := by
  decide

theorem test_meets_Binding :
    (let s := sys id (launch2 fun l => { l with st := .queued }) id;
      (s.lslot 0 2).st = .queued ∧ s.mayBind 0 2 = true ∧ (s.part 0).setTiles (s.lslot 0 2).shape = [0]) := by decide

theorem test_meets_LaunchEnds :
    (let s := sys id (launch2 fun l => { l with st := .running }) (fun x => { x with run := .ended, slot := 2 });
      (s.tile 0).run = .ended ∧ s.drained 0 = true ∧ (s.lslot 0 2).cause = 0) ∧
    (let s := sys id (launch2 fun l => { l with st := .running, cause := 0x0D }) (fun x => { x with run := .ended, slot := 2 });
      (s.tile 0).run = .ended ∧ s.drained 0 = true ∧ (s.lslot 0 2).cause ≠ 0) ∧
    (let r : StartRec := ⟨0x200000000, 0x400000008, 5, 9⟩;
      let s := sys (fun p => { p with inbox := [r] }) id id;
      (s.part 0).inbox = [r] ∧ (s.part 0).en = true ∧ (s.seqCtx (s.part 0).seqNo).running = false ∧
        (s.seqCtx (s.part 0).seqNo).done = none ∧ s.partOfSeq (s.part 0).seqNo = some 0) ∧
    (let s := sys id (fun q => { q with running := true, ending := some 64 }) id;
      (s.seqCtx 0).ending = some 64 ∧ ∀ e ∈ (s.seqCtx 0).launches, e.2.over = true) := by decide

theorem test_meets_startProgram :
    ((sys id id id).startProgram 0 ⟨0x41, 8, 0, 0⟩).isOk = false ∧
    walking.startProgram 0 ⟨0x200000000, 0x400000008, 0, 0⟩ = .ok (List.replicate 8 0) := by decide

/-- A running launch 2 of low priority that allows a cut, and a queued launch 4 above it. -/
def contended : State :=
  sys id (fun q => (launch2 (fun l => { l with st := .running, ctl := 4, save := some 0 }) q).setSlot 4
    { LSlot.reset with st := .queued, shape := oneTile, ctl := 1 }) fun x => { x with run := .running, slot := 2 }

/-- A launch in the middle of a cut, its tile parked. -/
def cutting (c : Cut) (reported : Bool) : State :=
  sys id (launch2 fun l => { l with st := .running, save := some 0, cut := some c })
    (fun x => { x with run := .parked, slot := 2, stepCnt := 9, reported := reported })

theorem test_meets_CutsAndSaves :
    ((contended.lslot 0 4).st = .queued ∧ (contended.lslot 0 2).st = .running ∧
      ctlPrio (contended.lslot 0 2).ctl < ctlPrio (contended.lslot 0 4).ctl ∧ ctlCutok (contended.lslot 0 2).ctl = true ∧
      (contended.lslot 0 2).save.isSome = true ∧ (contended.lslot 0 2).cut = none ∧ (contended.part 0).halt = false ∧
      (∃ e ∈ contended.ranks 0 2, e.1 ∈ (contended.part 0).setTiles (contended.lslot 0 4).shape) ∧
      let s := contended.modTile 0 fun x => { x with run := .free }
      ¬∃ e ∈ s.ranks 0 2, e.1 ∈ (s.part 0).setTiles (s.lslot 0 4).shape) ∧
    (let s := cutting ⟨none, false⟩ false; let x := s.tile 0;
      x.run = .parked ∧ x.reported = false ∧ x.th.bank.pend = [] ∧ x.th.bank.loads = [] ∧
        (s.lslot x.part.toNat x.slot.toNat).cut = some ⟨none, false⟩) ∧
    (let s := cutting ⟨some 9, false⟩ true; (s.lslot 0 2).st = .running ∧ s.cutDone 0 2 = true) ∧
    (let s := cutting ⟨some 9, true⟩ true;
      (s.lslot 0 2).st = .running ∧ (s.lslot 0 2).cut = some ⟨some 9, true⟩ ∧ (s.lslot 0 2).save = some 0) ∧
    (let s := sys id (launch2 fun l => { l with st := .saved, save := some 0 }) id;
      (s.lslot 0 2).st = .saved ∧ (s.lslot 0 2).save = some 0 ∧ s.mayBind 0 2 = true ∧
      (s.restoreTiles 0 2 0 (((s.part 0).setTiles (s.lslot 0 2).shape).zipIdx.filter fun e => (s.lslot 0 2).ranks.contains e.2)).2 = none) ∧
    (let s := sys id (launch2 fun l => { l with st := .saved, save := some 0, ranks := [0] }) id;
      (s.lslot 0 2).st = .saved ∧ s.mayBind 0 2 = true ∧
      (s.restoreTiles 0 2 0 (((s.part 0).setTiles (s.lslot 0 2).shape).zipIdx.filter fun e => (s.lslot 0 2).ranks.contains e.2)).2 =
        some 0x14) := by decide

/-- A partition that halts with launch 2 on its tile 0, a matrix array held, channel 1 moving an operation, and tile 32
in another partition. -/
def halting : State :=
  { sys (fun p => { p with halt := true }) (launch2 fun l => { l with st := .running, cause := 0x0D })
      (fun x => { x with run := .running, slot := 2 }) with
    tiles := [(0, { Tile.reset with run := .running, slot := 2 }), (32, { Tile.reset with run := .running, part := 5 })]
    clusters := [(0, { Cluster.reset with
      arr := { MatArray.reset with holder := some 0 }
      ops := [(5, op5 true (some false) 0 [])]
      chans := vset Cluster.reset.chans 1 (some 5)
      wins := [(entryKey 2 0 7, part7 .closed [])] })] }

theorem test_meets_PartitionHalts :
    ((halting.part 0).halt = true ∧ (halting.part 0).haltDone = false ∧ (halting.tile 0).run ≠ .free ∧
      (halting.tile 0).part = 0 ∧ (halting.tile 0).run ≠ .stopped ∧
      (∀ e ∈ halting.tiles, e.1 = 32 → e.2.part ≠ 0) ∧ 0 ∈ (halting.part 0).map ∧
      (halting.cluster 0).arr.holder = some 0 ∧ vget (halting.cluster 0).chans 1 = some 5 ∧
      (halting.op? 0 5).isSome = true ∧ (halting.cluster 0).wrote = [] ∧ halting.portLaunches 0 = [2] ∧
      (halting.lslot 0 2).st = .running ∧ (halting.lslot 0 2).left = false ∧
      (halting.seqCtx (halting.part 0).seqNo).th.posts = []) ∧
    ((sys id (launch2 fun l => { l with st := .queued }) id).lslot 0 2).st = .queued ∧
    (let s := sys (fun p => { p with halt := true }) id id; (s.part 0).halt = true ∧ (s.part 0).haltDone = false) ∧
    ((sys (fun p => { p with halt := true, haltDone := true }) id id).part 0).haltDone = true := by decide

/-- A collective entry 0 of tile 0, ACTIVE at generation 3. -/
def ct1 (f : CtEntry → CtEntry) : State :=
  { mapped id with
    cycle := 5000
    clusters := [(0, { Cluster.reset with cts := [(0, f { CtEntry.reset with
      st := .active, gen := 3, len := 64, stage := 0x3000, peers := [(0, 0), (4, 0)], pos := 0, dstPages := some [], contrib := some (List.replicate 64 0) })] })] }

/-- A packet from the peer at tile 4. -/
def msg1 (k : CtKind) : CtMsg := ⟨4, 0, 0, 0, 3, k, none⟩

/-- That packet alone on its way in the module. -/
def arriving (k : CtKind) (f : State → State) : State := f { ct1 id with ctMsgs := [msg1 k] }

/-- A port whose arrival buffer holds 64 records. -/
def fullPort (s : State) : State := s.modTile 0 fun x => { x with notify := List.replicate 64 (9, 5) }

theorem test_meets_CollectiveEvents :
    (∀ k ∈ [CtKind.partial_ 0 [1], .final 0 [1], .abort], let s := arriving k id
      s.ctTake (.inFlight 0) = some (msg1 k, { s with ctMsgs := [] }, s) ∧ s.ctRefusedHere (.inFlight 0) (msg1 k) = false ∧
      (s.ct (msgCluster (msg1 k)) 0).runs = true ∧
      ((s.ct (msgCluster (msg1 k)) 0).peers.any fun p => p.1 == 4) = true ∧ (s.ct (msgCluster (msg1 k)) 0).gen = 3) ∧
    (let s := arriving (.partial_ 0 [1]) fullPort;
      s.ctTake (.inFlight 0) = some (msg1 (.partial_ 0 [1]), { s with ctMsgs := [] }, s) ∧
      s.ctRefusedHere (.inFlight 0) (msg1 (.partial_ 0 [1])) = true) ∧
    (let s := ct1 (fun x => { x with committed := true });
      (s.ct 0 0).runs = true ∧ (s.ct 0 0).committed = true) ∧
    (let s := ct1 (fun x => { x with timeout := 1 });
      (s.ct 0 0).timeout ≠ 0 ∧ (s.ct 0 0).start + 1050 * (s.ct 0 0).timeout ≤ s.cycle) ∧
    ∀ i ∈ [none, some 0], let s := (ct1 id).modMod fun m => { m with outRack := [⟨0, 0, 2048, 0, 3, .abort, i⟩] }
      s.awaitsAnswer 0 0 3 0 = true ∧ s.awaitsAnswer 0 0 3 1 = false ∧
        s.modl.outRack[0]? = some ⟨0, 0, 2048, 0, 3, .abort, i⟩ ∧ (i = some 0 ↔ i = some (s.ct 0 0).op) := by
  decide

theorem test_meets_no_answer : ∀ j, State.reset.awaitsAnswer 0 0 3 j = false := fun _ => rfl

/-- A launch of tiles 0 and 4 that runs: tile 0 in a collective round with tile 4, which has executed END and been freed. -/
def endedPeer : State :=
  { sys id (launch2 fun l => { l with st := .running, shape := 0x21002010101 }) (fun x => { x with run := .running, slot := 2 }) with
    clusters := (ct1 id).clusters }

theorem test_meets_ended_rank :
    (endedPeer.ct 0 0).peers[1]? = some (4, 0) ∧ endedPeer.ctMayJoin 0 0 4 0 = true ∧
    (endedPeer.ct 1 0).pendAbort = false ∧
    ((endedPeer.micro (.endedRank 0 0 1)).ct 1 0).gen = 3 ∧
    (let x := (endedPeer.micro (.endedRank 0 0 1)).ct 1 0;
      x.proxy ≠ none ∧ x.peers.length = x.pos + 1 ∧ x.sumChunk 0 = none ∧
        ({ x with parts := [(0, List.replicate 64 0)] } : CtEntry).chunks = 1) := by
  decide

theorem test_meets_final_result :
    (let s := ct1 (fun x => { x with pos := 1, parts := [(0, List.replicate 64 0)] }); let x := s.ct 0 0;
      x.runs = true ∧ x.committed = false ∧ x.peers.length = x.pos + 1 ∧
      (∀ k < x.chunks, (x.sumChunk k).isSome = true) ∧ 64 * 0 < x.len ∧ x.staged.contains 0 = false ∧ s.ctQuiet 0 0 = true ∧
      ((x.sumChunk 0).map fun b => granOf (b.take 64)) = some 0 ∧
      (s.writeAt x.op (ctTile 0 0) (x.stage + 64 * 0) (granBytes 0)).isOk = true) ∧
    (let s := ct1 (fun x => { x with stageIn := [(0, 5)] }); ffind (s.ct 0 0).stageIn 0 = some 5) ∧
    (let s := ct1 (fun x => { x with staged := [0] }); let x := s.ct 0 0;
      (∀ n < x.len / 64, x.staged.contains n = true) ∧ (s.readSpan (ctTile 0 0) (granCuts x.stage x.len)).isOk = true) := by
  decide

/-- The module at position 0 of a ring of two, one direction of its links with 3 good lanes. -/
def ring2 (f : Mod → Mod) : State :=
  { State.reset with modl := f { Mod.reset with member := 3, links := [⟨64, 0, 2, true⟩, ⟨64, 0, 0, true⟩] } }

theorem test_meets_FabricEvents :
    ((ring2 id).modl.neighbour 1 = true ∧ (ring2 id).modl.isolated &&& posBit 1 = 0) ∧
    ((ring2 id).modl.lost &&& posBit 1 = 0 ∧ (1 : BitVec 4) ≠ (ring2 id).modl.pos) ∧
    (ring2 fun m => { m with lost := 2 }).modl.lost &&& posBit 1 ≠ 0 ∧
    ((0 : BitVec 4) = (ring2 id).modl.pos ∧ (ring2 id).modl.lost &&& posBit 0 = 0 ∧ (ring2 id).modl.sinceSilent = false) ∧
    (ring2 fun m => { m with sinceSilent := true }).modl.sinceSilent = true ∧
    ((ring2 id).modl.links[dirNo 0 true]?).isSome = true ∧
    (ring2 fun m => { m with rejoining := 2 }).modl.rejoining &&& posBit 1 ≠ 0 := by decide

theorem test_meets_VirtualFunctionEvents :
    (sys id id id).vfUsable 0 = true ∧ ((sys id id id).part 0).inbox.length < 8 ∧
    8 ≤ ((sys (fun p => { p with inbox := List.replicate 8 ⟨0, 0, 0, 0⟩ }) id id).part 0).inbox.length ∧
    ((sys id id id).seqCtx ((sys id id id).part 0).seqNo).done = none ∧
    ((sys id (fun q => { q with done := some ⟨1, 2, 3⟩ }) id).seqCtx 0).done = some ⟨1, 2, 3⟩ ∧
    (sys id id id).partOfSeq ((sys id id id).part 0).seqNo = some 0 ∧
    (((sys id id id).part 0).fqProd - (0 : Word).setWidth 32).toNat ≤ ((sys id id id).part 0).fqSize ∧
    (let s := sys id (launch2 fun l => { l with st := .running, save := some 1 }) id; let x : Word := 0x10302;
      x.toNat / 2 ^ 16 = 1 ∧ slotNo x < 16 ∧ (s.lslot 0 (slotNo x)).st = .running ∧
        (s.lslot 0 (slotNo x)).gen = x.extractLsb' 8 8 ∧ (s.lslot 0 (slotNo x)).save.isSome = true ∧
        (s.lslot 0 (slotNo x)).cut = none ∧ s.isServed 0 = true ∧ (s.lslot 0 3).st ≠ .running ∧
        (s.lslot 0 2).gen ≠ (0x10402 : Word).extractLsb' 8 8 ∧ (0x302 : Word).toNat / 2 ^ 16 ≠ 1 ∧ 16 ≤ slotNo 0x10310) ∧
    ((sys id (launch2 fun l => { l with st := .running, cut := some ⟨none, false⟩ }) id).lslot 0 2).cut ≠ none ∧
    ((sys id (launch2 fun l => { l with st := .running }) id).lslot 0 2).save = none ∧
    ((sys id id id).modPart 1 fun p => { p with en := true }).isServed 1 = false ∧
    (1 : Word).getLsbD 0 = true ∧ (2 : Word).getLsbD 0 = false ∧ ((sys id id id).part 0).ownsRange (attBuffer 1) 4096 = true ∧
    (let p := (sys (fun p => { p with attBusy := true, attTo := 0x400000000 }) id id).part 0;
      p.attBusy = true ∧ p.ownsRange p.attTo 4096 = false) ∧
    ((sys (fun p => { p with xlinv := true, attBusy := true }) id id).part 0).xlinv = true ∧
    ((sys (fun p => { p with xlinv := true, attBusy := true }) id id).part 0).attBusy = true ∧
    ((sys id id id).part 0).bar2 0x80000000 2 = some [(0x80000000, 2)] ∧ ((sys id id id).part 0).bar2 0x400000000 2 = none := by
  decide

theorem test_meets_PartitionEvents :
    (let p := ((sys (fun p => { p with en := false }) id id).part 0);
      p.en = false ∧ 8 ≤ p.map.length ∧ p.ownsRange p.tableBase 0x80000 = true ∧ p.ownsRange p.fqBase (32 * p.fqSize) = true) ∧
    (Part.reset.en = false ∧ Part.reset.map.length < 8) ∧
    (((sys id id id).part 0).en = true ∧ (sys id id id).liveLaunch 0 = false) ∧
    (sys id (launch2 fun l => { l with st := .saved }) id).liveLaunch 0 = true ∧
    (((sys id id id).part 0).busy = false ∧ ((sys id id id).part 0).map.length < 64 ∧ ((sys id id id).cluster 9).owner = none) ∧
    (walking.cluster 0).owner.isSome = true ∧ (sys id id id).modl.up = true ∧
    64 ≤ ((sys (fun p => { p with map := (List.range 64).map (BitVec.ofNat 9) }) id id).part 0).map.length ∧
    (((sys id id id).part 0).map.length = 8 ∧ ((sys id id id).part 0).map ≠ []) ∧
    ¬(((sys (fun p => { p with en := false }) id id).part 0).en = true) ∧
    (let s := sys (fun p => { p with busy := true }) id id;
      (s.part 0).busy = true ∧ (s.part 0).map.getLast? = some 7 ∧ s.clusterDrained 0 7 = true ∧
        (s.part 0).en = true ∧ (s.part 0).map.length = 8) ∧
    ¬((sys (fun p => { p with en := false, busy := true }) id id).part 0).en = true ∧
    (let s : State := { sys (fun p => { p with busy := true, since := 4 }) id id with cycle := 1050000004 };
      (s.part 0).busy = true ∧ (s.part 0).since + 1050000000 ≤ s.cycle ∧ (s.part 0).lock = false ∧
        (s.part 0).map.getLast? = some 7 ∧ s.clusterDrained 0 7 = true ∧
        (s.modCluster 7 fun k => { k with queue := [5] }).clusterDrained 0 7 = false) := by decide

theorem test_meets_HostRegisterWrites :
    (sys id id id).vfUsable 0 = true ∧ (64 : Word).toNat ≤ 64 ∧ (ring2 id).vfUsable 5 = false ∧ (ring2 id).modl.up = false ∧
    (sys id id id).modl.up = true := by decide

theorem test_meets_HealthEvents :
    (∃ b : BringUp, b.verified = true) ∧ (∃ b : BringUp, b.verified = false) ∧
    (let s := ring2 (fun m => { m with bad := [.hbm 5], repairs := [.cluster 3] });
      Place.hbm 5 ∈ s.modl.bad ∧ Place.acc 0 5 ∉ s.modl.bad ∧
      RepairOf.cluster 3 ∈ s.modl.repairs ∧ s.mayRepair (repairCluster (.cluster 3)) = true ∧ s.spareLeft (.cluster 3) = true) ∧
    (ring2 fun m => { m with repairs := [.cluster 3], spareUsed := [(0, 4)] }).spareLeft (.cluster 3) = false ∧
    ({ walking with tiles := [(0, tile0)] } : State).mayRepair (repairCluster (.cluster 0)) = false :=
  ⟨⟨⟨0, 1, [], true, [], false⟩, rfl⟩, ⟨⟨0, 1, [], false, [], false⟩, rfl⟩, by decide, by decide, by decide⟩

/-! ### Hypotheses met: the machine -/

/-- A tile whose next turn issues the bundle of these words. -/
def turnOf (f : Tile → Tile) (ws : List Nat) : State := { withCode f ws with turns := [.agent (.tile 0)] }

/-- The state in which such a turn begins. -/
def begun (f : Tile → Tile) (ws : List Nat) : State := ({ turnOf f ws with turns := [], turnNo := 1 } : State).begin_ (.tile 0)

/-- The state in which such a turn fetches, what was due landed. -/
def fetching (f : Tile → Tile) (ws : List Nat) : State := (begun f ws).land (.tile 0)

/-- The same with its bundle of four words in issue. -/
def issuing4 (f : Tile → Tile) (ws : List Nat) : State :=
  (fetching f ws).modIss fun k => { k with pc := 0x100000000, nextPc := 0x100000010 }

/-- The words of a bundle of one instruction and three NOPs. -/
def solo (i : Instr) : List Nat := [((encode i).getD 0).toNat, 0x18000000, 0x18000000, 0x98000000]

theorem test_meets_StepRunsTheBundle :
    (let u := fetching id nops; let b := issuing4 id nops; let is : List Instr := [.nop, .nop, .nop, .nop];
      ((turnOf id nops).tile 0).run = .running ∧ ((begun id nops).tile 0).run = .running ∧ (begun id nops).thread.late = false ∧
      (u.tile 0).run = .running ∧ (u.tile 0).lateTrap = none ∧ u.thread.bank.pc = 0x100000000 ∧
      u.bundleAt 0x100000000 = .ok (is, 0x100000010) ∧ b.levelCheck is = .go ∧ Instr.tret ∉ is ∧ b.active is = true ∧
      b.queueCheck is = .go ∧ (∀ x ∈ is.zipIdx, (b.forChecks is).slotVerdict x.2 x.1 = .go) ∧ (b.forChecks is).bankStall is = 0) ∧
    (fetching id [0x98000000]).bundleAt 0x100000000 = .error ⟨0x01, 0x100000000, 1, false, false, false⟩ ∧
    ((sys id (fun q => { q with running := true }) id).seqCtx 0).running = true ∧
    ((sys id (fun q => { q with running := true }) id).seqCtx 0).ending = none := by decide

/-- An answer that is late, a late event, a slot that waits, and a gather from one bank. -/
theorem test_meets_StepRunsTheBundle_stalls :
    (begun (fun x => { x with th := { x.th with b0 := { x.th.b0 with loads := [{ load1 false none with due := 0 }] } } }) nops).thread.late = true ∧
    ((fetching (fun x => { x with late := [⟨7, 0x0D, 64, 1⟩] }) nops).tile 0).lateTrap.isSome = true ∧
    ((fetching id (solo .sleep)).bundleAt 0x100000000 = .ok ([.sleep, .nop, .nop, .nop], 0x100000010) ∧
      ((issuing4 id (solo .sleep)).slotVerdict 0 .sleep).waits = true) ∧
    (let f := fun x : Tile => { x with th := { x.th with s := vset x.th.s 2 0x400 } };
      let is : List Instr := [.vlds false ⟨1, 0, false⟩ (.reg 1) (.reg 2), .nop, .nop, .nop];
      let b := issuing4 f (solo (.vlds false ⟨1, 0, false⟩ (.reg 1) (.reg 2)));
      (fetching f (solo (.vlds false ⟨1, 0, false⟩ (.reg 1) (.reg 2)))).bundleAt 0x100000000 = .ok (is, 0x100000010) ∧
      b.onTile = true ∧ b.cur.served < (b.forChecks is).bankStall is ∧
      ∀ x ∈ is.zipIdx, (b.forChecks is).slotVerdict x.2 x.1 = .go) := by decide

/-- A tile that holds its array, with a point of it due: the array goes with the bundles of the tile. -/
def heldTurn (ws : List Nat) : State :=
  (turnOf id ws).modArr 0 fun _ =>
    { MatArray.reset with holder := some 0, age := 5, perfs := [⟨5, 0, .write⟩] }

/-- The state in which its bundle would stall, before the points of its cycle. -/
def heldFetching (ws : List Nat) : State := (({ heldTurn ws with turns := [], turnNo := 1 } : State).begin_ (.tile 0)).land (.tile 0)

theorem test_meets_StepRunsTheBundle_held :
    (∀ ws ∈ [nops, solo .sleep], let v := heldFetching ws; v.arrayHeld (.tile 0) = true ∧ (v.tile 0).run = .running ∧
      (v.tile 0).lateTrap = none ∧ v.stallNext.isSome = (ws != nops) ∧ ((v.landPoints (.tile 0)).tile 0).run = .running ∧
      ((v.landPoints (.tile 0)).tile 0).lateTrap = none) ∧
    (fetching id nops).arrayHeld (.tile 0) = false := by decide

/-- R70, R140: a point of the array that is due waits while the bundle of its cycle stalls, and performs when it issues. -/
theorem test_array_waits_with_stalls :
    ∀ ws ∈ [nops, solo .sleep], (match step (heldTurn ws) with
      | .next t => (t.cluster 0).arr.perfs.isEmpty == (ws == nops) && (t.cluster 0).arr.age == if ws == nops then 6 else 5
      | _ => false) = true := by decide

theorem test_meets_RefusedAndStalledBundles :
    (decodeSlot 0x03F00000 = .error .unassigned ∧ Ready .nop base) ∧
    base.fetchWords base.thread.bank.pc 8 = .error (0x07, 0) ∧
    (let s := fetching id (solo .sleep); let b := issuing4 id (solo .sleep); let is : List Instr := [.sleep, .nop, .nop, .nop];
      s.bundleAt s.thread.bank.pc = .ok (is, 0x100000010) ∧ b.levelCheck is = .go ∧ Instr.tret ∉ is ∧ b.active is = true ∧
      b.queueCheck is = .go ∧ s.stallNext.isSome = true ∧ (fetching id nops).stallNext = none) := by
  unfold Ready; decide

/-- R74: the third word of a bundle that begins two words before the end of the slice cannot be read: bit 2, and its address. -/
theorem test_fetch_fault_slot :
    (let s := (fetching id []).modTile 0 fun x => { x with th := { x.th with b0 := { x.th.b0 with pc := 0x17FFFFFF8 } } };
      match ({ s with clusters := [(0, { Cluster.reset with tlb := [(0x7FFF, 0xF)] })] } : State).bundleAt 0x17FFFFFF8 with
      | .error f => (f.addr, f.slots, f.fetch)
      | .ok _ => (0, 0, false)) = (0x180000000, 4, true) := by decide

/-- R326: an array that has killed one launch of a partition writes a second record when it kills another of its launches. -/
theorem test_kills_two_launches :
    (let s := (sys id (launch2 fun l => { l with st := .running }) (fun x => { x with run := .running, slot := 2 })).killAt 0 0 2 0 0x12;
      let t := s.killAt 0 0 2 0 0x12; let u := (t.modTile 0 fun x => { x with slot := 3 }).killAt 0 0 2 0 0x12;
      [s, t, u].map fun s => (s.part 0).fqProd) = [1, 1, 2] := by decide

/-- A header of stage 0 that does not act, and a bundle with a division by zero. -/
theorem test_meets_StepRunsTheBundle_refused :
    (let ws := [0x40000000, 0x18000000, 0x18000000, 0x98000000];
      (fetching id ws).bundleAt 0x100000000 = .ok ([.hdr 0 0, .nop, .nop, .nop], 0x100000010) ∧
      (issuing4 id ws).active [.hdr 0 0, .nop, .nop, .nop] = false) ∧
    (let ws := [0x18000000, 0x00600101, 0x18000000, 0x98000000];
      let is : List Instr := [.nop, .div false 0 (.reg 2) (.reg 1), .nop, .nop];
      (fetching id ws).bundleAt 0x100000000 = .ok (is, 0x100000010) ∧
      (∀ x ∈ is.zipIdx, ((issuing4 id ws).slotVerdict x.2 x.1).waits = false) ∧
      firstTrap (is.zipIdx.map fun x => (issuing4 id ws).slotVerdict x.2 x.1) = some ⟨0x05, 0x100000000, 2, false, false, false⟩) := by
  decide

/-- A TRET at TL0 in a bundle that does not act, one at TL1 with a result still to land, an empty queue, and one with its
stream bound. -/
theorem test_meets_StepRunsTheBundle_levels :
    (let ws := [0x40000000, ((encode .tret).getD 0).toNat, 0x18000000, 0x98000000];
      let is : List Instr := [.hdr 0 0, .tret, .nop, .nop];
      (fetching id ws).bundleAt 0x100000000 = .ok (is, 0x100000010) ∧ (issuing4 id ws).active is = false ∧
      (issuing4 id ws).levelCheck is = .trap ⟨0x04, 0x100000000, 2, false, false, false⟩) ∧
    (let f := fun x : Tile => { x with th := { x.th with lvl := .tl1, b1 := { x.th.b1 with pc := 0x100000000, pend := [⟨9, 0, .sb 3⟩] } } };
      let is : List Instr := [.tret, .nop, .nop, .nop]; let b := issuing4 f (solo .tret);
      (fetching f (solo .tret)).bundleAt 0x100000000 = .ok (is, 0x100000010) ∧ b.levelCheck is = .go ∧
      Instr.tret ∈ is ∧ b.thread.lvl ≠ .tl0 ∧ ¬(b.thread.bank.pend = [] ∧ b.thread.bank.loads = [])) ∧
    (let is : List Instr := [.evpop false 3, .nop, .nop, .nop]; let b := issuing4 id (solo (.evpop false 3));
      (fetching id (solo (.evpop false 3))).bundleAt 0x100000000 = .ok (is, 0x100000010) ∧ b.levelCheck is = .go ∧
      b.active is = true ∧ b.queueCheck is = .trap ⟨0x16, 0x100000000, 1, false, false, false⟩) ∧
    (let is : List Instr := [.vmovo false 1 (.queue 2), .nop, .nop, .nop];
      let b := (issuing4 id (solo (.vmovo false 1 (.queue 2)))).modCluster 0 fun k => { k with ops := [(5, op5 true (some false) 0 [])] };
      (fetching id (solo (.vmovo false 1 (.queue 2)))).bundleAt 0x100000000 = .ok (is, 0x100000010) ∧
      b.active is = true ∧ b.queueCheck is = .wait none) := by decide

theorem test_meets_StepsAndEvents :
    (ring2 fun m => { m with stopped := true }).modl.stopped = true ∧
    Turn.wakes ({ ring2 id with turns := [.event .throttle] } : State).nextTurn.1 = false ∧
    Turn.wakes ({ ring2 id with turns := [.event (.powerOn default)] } : State).nextTurn.1 = true ∧
    ({ ring2 id with turns := [.event .throttle] } : State).turns = .event .throttle :: [] ∧
    Instr.isEvent .throttle = true ∧ (ring2 id).modl.stopped = false := by decide

/-- A tile at a level with handlers. -/
def trapping (l : Lvl) (h1 h2 : Word) : State := onTile0 fun x =>
  { x with th := { x.th with lvl := l, tr1 := { x.th.tr1 with hbase := h1 }, tr2 := { x.th.tr2 with hbase := h2 } } }

theorem test_meets_TrapEntry :
    ((arrayState (fun m => { m with free := true }) id).cluster 0).arr.holder = some 0 ∧
    (trapping .tl0 64 0).iss.agent = .tile 0 ∧ ((trapping .tl0 64 0).tile 0).th.lvl = .tl0 ∧
    ((trapping .tl0 64 0).tile 0).th.tr1.hbase ≠ 0 ∧ ((trapping .tl0 0 64).tile 0).th.tr1.hbase = 0 ∧
    ((trapping .tl0 0 64).tile 0).th.tr2.hbase ≠ 0 ∧ ((trapping .tl1 0 64).tile 0).th.lvl = .tl1 ∧
    ((trapping .tl0 0 0).tile 0).alive = true ∧ ((trapping .tl0 0 0).tile 0).th.tr1.hbase = 0 ∧
    ((trapping .tl0 0 0).tile 0).th.tr2.hbase = 0 ∧ ((trapping .tl2 0 0).tile 0).th.lvl = .tl2 ∧
    (baseSeq id).iss.agent = .seq 0 := by decide

/-- Delayed writes of a tile. -/
def pending (ps : List Pend) : State := onTile0 fun x => { x with th := { x.th with b0 := { x.th.b0 with pend := ps, n := 9 } } }

theorem test_meets_ResultsLand :
    base.arrayOf (.tile 0) = none ∧ (∀ p ∈ ((pending [⟨10, 0, .latch 0 7⟩]).threadOf (.tile 0)).bank.pend, 9 < p.due) ∧
    ((pending [⟨9, 0, .latch 7 7⟩]).threadOf (.tile 0)).bank.pend = [⟨9, 0, .latch 7 7⟩] ∧
    ((pending [⟨9, 0, .sreg 31 7⟩]).threadOf (.tile 0)).bank.pend = [⟨9, 0, .sreg 31 7⟩] ∧
    ((pending [⟨9, 5, .sreg 3 7⟩, ⟨8, 4, .sreg 3 8⟩]).threadOf (.tile 0)).bank.pend = [⟨9, 5, .sreg 3 7⟩, ⟨8, 4, .sreg 3 8⟩] := by
  decide

theorem test_meets_ResultSlotsOnlyPush :
    resultSlot (.add false 3 (.reg 1) (.reg 2)) = true ∧ rowStore (.add false 3 (.reg 1) (.reg 2)) = false ∧
    resultSlot (.vst ⟨0, 0, false⟩ (.reg 1) 0) = true ∧ rowStore (.vst ⟨0, 0, false⟩ (.reg 1) 0) = true ∧
    (committing base).iss.phase = .commit ∧ (∃ t, exec (.add false 3 (.reg 1) (.reg 2)) (committing base) = .next t) ∧
    ∃ t, exec (.vst ⟨0, 0, false⟩ (.reg 1) 0) (committing base) = .next t :=
  ⟨by decide, by decide, by decide, by decide, by decide, ⟨_, rfl⟩, _, rfl⟩

/-- A bundle at its end with a control transfer. -/
def ending (k : Control) (s : State) : State := s.modIss fun i => { i with control := k }

theorem test_meets_BundleEnds :
    base.iss.agent = .tile 0 ∧ base.iss.control = .none ∧ base.iss.writes = [] ∧ (base.tile 0).run ≠ .stopped ∧
    (base.tile 0).th.loops = [] ∧
    (∀ k ∈ [Control.jump 8, .refetch, .trap 3 1, .tret, .end_, .step], let s := ending k (onTile0 fun x => { x with cutPending := true });
      s.iss.control = k ∧ s.iss.agent = .tile 0 ∧ s.iss.writes = [] ∧ (s.tile 0).run ≠ .stopped ∧
        (s.tile 0).cutPending = true ∧ (s.lslot (s.tile 0).part.toNat (s.tile 0).slot.toNat).cut = none) ∧
    (base.tile 0).cutPending = false ∧
    (let s := (ending .end_ (leased id)).modIss fun i => { i with control := .jump 8 };
      (s.finishBundle.cluster 0).arr.holder = some (BitVec.ofNat 2 0)) ∧
    (ending .end_ (issuing id)).iss.agent = .seq 0 ∧ (ending .end_ (issuing id)).iss.writes = [] := by decide

/-- R106, R331: a STEP with a cut pending parks its tile; R115: a TRAP in the end bundle of a loop saves the start of the body;
R116, R319: TRET goes to EPC without its low bits; R107: END. -/
theorem test_bundle_ends :
    (((ending .step (onTile0 fun x => { x with cutPending := true })).finishBundle.tile 0).run = .parked) ∧
    (let s := ending (.trap 3 1) (onTile0 fun x => { x with th := { x.th with
        loops := [{ entry1 with pipelined := false }], tr1 := { x.th.tr1 with hbase := 0x900 } } });
      let u := ({ s with iss := { s.iss with pc := entry1.endPc, nextPc := entry1.endPc + 16 } } : State).finishBundle;
      (u.tile 0).th.tr1.epc = entry1.start ∧ (u.tile 0).th.tr1.cause = 0x83 ∧ (u.tile 0).th.tr1.addr = entry1.endPc ∧
        (u.tile 0).th.bank.pc = 0x900) ∧
    (((ending .tret (onTile0 fun x => { x with th := { x.th with lvl := .tl1, tr1 := { x.th.tr1 with epc := 0x502 } } })
      ).finishBundle.tile 0).th.b0.pc = 0x500) ∧
    ((ending .end_ base).finishBundle.tile 0).run = .ended := by decide

/-- A tile at the end bundle of a loop entry. -/
def atEnd (e : LoopEntry) (ps : BitVec 8) (cut : Bool) : State :=
  { onTile0 fun x => { x with cutPending := cut, th := { x.th with loops := [e, entry1], ps := ps } } with
    iss := { base.iss with pc := e.endPc, nextPc := e.endPc + 16 } }

theorem test_meets_BackEdges :
    (∀ e ∈ [{ entry1 with pipelined := false }, { entry1 with pipelined := false, rem := 0 }, entry1, { entry1 with rem := 0 }],
      ∀ ps ∈ [0#8, 2#8], ∀ c ∈ [true, false], let s := atEnd e ps c;
      s.iss.agent = .tile 0 ∧ s.iss.control = .none ∧ s.iss.writes = [] ∧ (s.tile 0).run ≠ .stopped ∧
        (s.tile 0).th.lvl = .tl0 ∧ (s.tile 0).th.loops = [e, entry1] ∧ [entry1].length < 6 ∧ e.endPc = s.iss.pc ∧
        (s.tile 0).th.ps = ps ∧ (s.tile 0).cutPending = c) ∧
    (∀ j < entry1.stages.toNat, (0 : BitVec 8).getLsbD j = false) ∧ (2 : BitVec 8).getLsbD 1 = true ∧
    entry1.stages = 2 ∧ entry1.rem ≠ 0 ∧ entry1.endPc ≠ ({ atEnd entry1 0 false with iss := base.iss } : State).iss.pc := by decide

/-- R100: a LOOP with passes left goes back to its start and counts; R101: a LOOPP with none left shifts a 0 in. -/
theorem test_back_edges :
    (((atEnd { entry1 with pipelined := false } 2 true).finishBundle.tile 0).th.bank.pc = entry1.start) ∧
    (((atEnd { entry1 with rem := 0 } 3 false).finishBundle.tile 0).th.ps = 6) := by decide

theorem test_meets_CanonicalMemories :
    Memory.wf [(1, 2), (5, 3)] = true ∧ 1 + [2, 3, (4 : Byte)].length ≤ 4 ∧ [1, (0 : Byte)].length = [0, (1 : Byte)].length := by
  decide

theorem test_meets_StoreFrame :
    (∀ f ∈ [withS [(1, 0x6FFFF4)], inSlice], (f.tile 0).run = .running ∧ (f.tile 0).th.unperformed = [] ∧
      ∀ p ∈ (f.tile 0).th.posts, p.took = none) ∧
    Meets (.stW 3 (.reg 1) 2) (withS [(1, 0x6FFFF4)])
      (fun u => u.accessCheck (u.readS (.reg 1) + (2#7).signExtend 64 * 4) 4 rW true = .go ∧
        (u.readS (.reg 1) + (2#7).signExtend 64 * 4).toNat ≤ 0x6FFFFF) ∧
    Meets (.stB 3 (.reg 1) 0) inSlice
      (fun u => u.accessCheck (u.readS (.reg 1) + (0#7).signExtend 64 * 1) 1 rW true = .go ∧
        0x6FFFFF < (u.readS (.reg 1) + (0#7).signExtend 64 * 1).toNat) ∧
    Meets (.stD 3 (.reg 2) 0) (issuing id)
      (fun u => u.accessCheck (u.readS (.reg 2) + (0#7).signExtend 64 * 8) 8 rW true = .go ∧
        (u.readS (.reg 2) + (0#7).signExtend 64 * 8).toNat < 0x20000) ∧
    Meets (.stD 3 (.reg 2) 0) { issuing id with
        clusters := [(0, { Cluster.reset with tlb := [(0, 0xF)] })]
        seqs := (issuing id).seqs.map fun e => (e.1, { e.2 with th := { e.2.th with s := vset e.2.th.s 2 0x200000000 } }) }
      (fun u => u.accessCheck (u.readS (.reg 2) + (0#7).signExtend 64 * 8) 8 rW true = .go ∧
        0x20000 ≤ (u.readS (.reg 2) + (0#7).signExtend 64 * 8).toNat) ∧
    Meets (.vst ⟨1, 0, false⟩ (.reg 1) 0) (withS [(1, 0x400040)]) (fun u => u.vldCheck (u.rowAddr (.reg 1) 0) true = .go) ∧
    Meets (.vsts ⟨1, 0, false⟩ (.reg 1) (.reg 2)) (withS [(1, 0x400000), (2, 0)])
      (fun u => u.vldsCheck true (strideAddrs (u.readS (.reg 1)) (u.readS (.reg 2))) = .go) := by
  unfold Meets Ready; decide

theorem test_meets_SwizzleFunction :
    (0x2FFFFF < 2 ^ 22) ∧ 512 % 512 = 0 ∧ 15 % 16384 + 1024 * 15 < 16384 := by decide

theorem test_meets_round_trips :
    (Instr.sel 3 true 5 (.latch 1) (.queue 2)).wf = true ∧ encode (.sel 3 true 5 (.latch 1) (.queue 2)) = some 0x023970EA ∧
    (Instr.li false (.file 1) 5).wf = true ∧ (encodeTemplate (.li false (.file 1) 5)).isSome = true ∧
    decodeSlot 0x9200003F = .ok (.fence .module 15) ∧ (0x60000000#32).extractLsb' 29 2 = 3 ∧
    decodeTemplate 0 = .ok (.li false (.reg 0) 0) := by decide

theorem test_meets_StepKeepsMemories :
    Safety.memories (turnOf id nops) = true ∧ ∃ t, step (turnOf id nops) = .next t := ⟨by decide, _, rfl⟩

/-! ### Values of the spec's worked examples -/

/-- The example of R199: offset 0x2C80 of the swizzled view is linear 0x2E40, and the reverse. -/
theorem test_swizzle_example : swizzle 0x2C80 = 0x2E40 ∧ swizzle 0x2E40 = 0x2C80 := by decide

/-- Example 2 of R130: the tree of VRSUM gives 1 for 2^24, 1, 1, -2^24. -/
theorem test_vrsum_example : treeOf (fAdd .fp32 .rne) 7 ([0x4B800000, 0x3F800000, 0x3F800000, 0xCB800000] ++ List.replicate 124 0) =
    ([0x3F800000], fIX) := by decide

/-- Example 2 of R153: the groups of four of a cell of MMA. -/
theorem test_mma_example :
    (let p (a b : Nat) : FVal × FVal × Int := (fval .bf16 a, fval .bf16 b, 0);
      (mmaGroups [p 0x4580 0x4580, p 0x3F80 0x3F80, p 0x3F80 0x3F80, p 0 0, p 0xBF80 0x3F80, p 0xBF80 0x3F80, p 0xBF80 0x3F80,
        p 0 0] (0, 0)).1) = 0x4B7FFFFF := by decide

/-- Example 2 of R42: three units at index 4, minus two at 6, one at 17, with offset -1, fold to 18. -/
theorem test_cfold_example :
    (let c : Vector (BitVec 8) 32 := vset (vset (vset (Vector.replicate 32 0) 4 3) 6 (-2)) 17 1;
      let r := Fold.addBank ⟨0, none, 0, false⟩ c .e2m1 (-1) false 0;
      (r.1.f, r.1.count, r.1.flag, drainCell r.1 .rne false 0)) = (0x480000000, 1, false, (0x41900000, 0)) := by decide

/-- Example 3 of R42: 2^24 + 1 drained in the modes RNE, RTZ, RDN, RUP, RTO. -/
theorem test_cdrain_example :
    ([Rm.rne, .rtz, .rdn, .rup, .rto].map fun m => (drainCell ⟨(2 ^ 24 + 1) * 2 ^ 30, some 0, 1, false⟩ m false 0).1) =
      [0x4B800000, 0x4B800000, 0x4B800000, 0x4B800001, 0x4B800001] := by decide

/-- Columns 0 and 1 of Example 3 of R138, cut to eight rows. -/
theorem test_cselk_example :
    (ranking .fp32 [0x3F000000, 0x40000000, 0x7FC00000, 0x40000000, 0x80000000, 0, 0xBF800000, 0xBF800000]).take 5 = [1, 3, 0, 4, 5] ∧
    (ranking .fp32 [0x3F000000, 0x40000000, 0x7FC00000, 0x40000000, 0x80000000, 0, 0xBF800000, 0xBF800000]).getLast? = some 2 ∧
    (ranking .fp32 [0x80000000, 0, 0xC0000000, 0xC0000000, 0xC0000000, 0xC0000000, 0xC0000000, 0x40400000]).take 4 = [7, 0, 1, 2] := by
  decide

/-- The example of R364: 3 contributes 2 and leaves 1, then 4 contributes 4 and leaves 0. -/
theorem test_compress_example :
    (compressBlock (0x40400000 :: List.replicate 31 0)).head? = some (0x40000000, 0x3F800000) ∧
    (compressBlock (0x40800000 :: List.replicate 31 0)).head? = some (0x40800000, 0) := by decide

/-- Entries and slots of Example 1 of R243 and of the two templates after R283. -/
theorem test_template_slots :
    (expandSlot 0xA2140000000800000000000000000000 0x06 0x08 0).toOption = some (.waccW (.reg 6) (.reg 8) .bf16 .sum .rne) ∧
    (expandSlot 0x40990000000880000000000000000000 0x04 0x2A 0x08).toOption =
      some (.vmulW .rne false (.row 1 0 false) (.queue 2) (.row 2 0 false) .bf16 false) ∧
    decodeSlot 0x200C6200 = .ok (.dictionarySlot 3 0x06 0x08 0) ∧ decodeSlot 0x20004A88 = .ok (.dictionarySlot 0 4 0x2A 8) := by decide

/-- Quotients toward zero, the corner of the most negative number, and the high half of a signed product (R84, R85). -/
theorem test_integer_corners :
    divSigned 0x8000000000000000 (-1) = 0x8000000000000000 ∧ remSigned 0x8000000000000000 (-1) = 0 ∧
    divSigned (-7) 2 = -3 ∧ remSigned (-7) 2 = -1 ∧ mulHigh (-1) 1 = -1 ∧ mulHigh 0x8000000000000000 0x8000000000000000 = 2 ^ 62 := by
  decide

/-- Sums, products and conversions in several modes, worked out by hand (R24 to R28). -/
theorem test_roundings :
    (fAdd .fp32 .rne 0x4B800000 0x3F800000).1 = 0x4B800000 ∧ (fAdd .fp32 .rup 0x4B800000 0x3F800000).1 = 0x4B800001 ∧
    (fMul .fp32 .rne 0x00800000 0x3F000000).1 = 0x00400000 ∧ (fSub .fp32 .rdn 0x3F800000 0x3F800000).1 = 0x80000000 ∧
    (cvt .fp32 .int32 .rne 0x40200000).1 = 2 ∧ (cvt .fp32 .int32 .rup 0x40200000).1 = 3 := by decide

/-- The bundle of the example after R117, at another address: NOP, DIV s13, s11, s12 with s12 = 0, two NOPs. -/
def dividing : State := turnOf
  (fun x => { x with th := { x.th with tr1 := { x.th.tr1 with hbase := 0x17E000080 }, s := vset x.th.s 13 9 } })
  [0x18000000, (word 0 0x06 0 13 11 12).toNat, 0x18000000, 0x98000000]

/-- One step of it takes DIVZERO: TL1 at HBASE1, the cause, the addresses, the bit of position 1; s13 stays. -/
theorem test_divzero_trap :
    (match step dividing with
      | .next t => let h := (t.tile 0).th;
        some (h.lvl, [h.b1.pc, h.tr1.epc, h.tr1.cause, h.tr1.addr, h.tr1.stat &&& 0xFF00, vget h.s 13])
      | _ => none) = some (.tl1, [0x17E000080, 0x100000000, 5, 0x100000000, 0x200, 9]) := by decide

/-- A replacing accumulate of an FLD clears the bits that R44 keeps zero and keeps NINF and the sum. -/
theorem test_replace_fld :
    combine .fld .repl .rne (2 ^ 127 + 2 ^ 112 + 2 ^ 105 + 5) (2 ^ 127 + 2 ^ 113 + 2 ^ 112 + 2 ^ 111 + 2 ^ 105 + 2 ^ 104 + 9) =
      2 ^ 112 + 2 ^ 104 + 9 := by decide

/-- The entry of a TRAP beside a DLOAD that stalls 9 cycles: the handler's first bundle issues 5 + 9 cycles later. -/
theorem test_trap_keeps_stall :
    ((((trapping .tl0 64 0).modIss fun k => { k with cost := 9 }).takeTrap 0 ⟨0x81, 0, 1, false, false, false⟩).tile 0).th.readyAt = 14 := by
  decide

end Sys2Proof.Tests
end

section
/-! The frame of the slots of the units SI, SF and VR at commit (R10, R66, R134, R198). Each of them is one effect in the
frame of every slot. An effect that is no store adds delayed writes to the issuing level, a row load after it has drawn free
choices; a store adds writes to the end of its bundle. -/

namespace Sys2Proof.Machine

open Sys2Proof.Claims

/-! ### Two changes of one part are one change -/

theorem Thread.modBank_modBank (t : Thread) (f g : Bank → Bank) : (t.modBank f).modBank g = t.modBank fun b => g (f b) := by
  rcases h : t.lvl <;> simp [Thread.modBank, h]

theorem State.modThread_modThread (s : State) (f g : Thread → Thread) :
    (s.modThread f).modThread g = s.modThread fun t => g (f t) := by
  rcases h : s.iss.agent <;>
    simp [State.modThread, State.modThreadOf, State.modTile, State.setTile, State.tile, State.modSeq, State.seqCtx, h]

/-! ### What a change of the issuing thread leaves alone -/

theorem State.modThread_eq (s : State) (f : Thread → Thread) :
    let t := s.modThread f
    t = { s with iss := t.iss, tiles := t.tiles, seqs := t.seqs, choice := t.choice } := by
  unfold State.modThread State.modThreadOf
  split <;> rfl

theorem State.modThread_tile (s : State) (f : Thread → Thread) (k : Nat) :
    (s.modThread f).tile k = { s.tile k with th := ((s.modThread f).tile k).th } := by
  rcases h : s.iss.agent with t | q
  · by_cases hk : k = t.toNat
    · subst hk; simp [State.modThread, State.modThreadOf, h]
    · simp [State.modThread, State.modThreadOf, h, hk]
  · simp only [State.modThread, State.modThreadOf, h]
    rfl

theorem State.modThread_seqCtx (s : State) (f : Thread → Thread) (k : Nat) :
    (s.modThread f).seqCtx k = { s.seqCtx k with th := ((s.modThread f).seqCtx k).th } := by
  rcases h : s.iss.agent with t | q
  · simp only [State.modThread, State.modThreadOf, h]
    rfl
  · by_cases hk : k = q.toNat
    · subst hk; simp [State.modThread, State.modThreadOf, h]
    · simp [State.modThread, State.modThreadOf, h, hk]

theorem State.threadOf_modThreadOf_ne (s : State) (a b : Agent) (f : Thread → Thread) (h : b ≠ a) :
    (s.modThreadOf a f).threadOf b = s.threadOf b := by
  cases a <;> cases b
  case tile.tile t u =>
    have hu : u.toNat ≠ t.toNat := fun e => h (congrArg Agent.tile (BitVec.eq_of_toNat_eq e))
    simp [State.modThreadOf, State.threadOf, hu]
  case seq.seq q r =>
    have hr : r.toNat ≠ q.toNat := fun e => h (congrArg Agent.seq (BitVec.eq_of_toNat_eq e))
    simp [State.modThreadOf, State.threadOf, hr]
  all_goals rfl

/-! ### Delayed writes added to the issuing level (R66) -/

/-- The state with delayed writes of the issuing level added behind those that it has. -/
def State.addPend (s : State) (new : List Pend) : State :=
  s.modThread fun t => t.modBank fun b => { b with pend := b.pend ++ new }

theorem State.push_eq_addPend (s : State) (due : Nat) (a : Act) : s.push due a = s.addPend [⟨due, s.thread.bundles, a⟩] := by
  rcases h : s.iss.agent <;> simp [State.push, State.addPend, State.modThread, State.modThreadOf, State.modTile, State.modSeq,
    State.thread, State.threadOf, Thread.push, h]

theorem State.addPend_addPend (s : State) (l k : List Pend) : (s.addPend l).addPend k = s.addPend (l ++ k) := by
  simp [State.addPend, State.modThread_modThread, Thread.modBank_modBank]

/-- Delayed writes, none due in its own cycle, are all that t has and s has not. -/
def AddsPend (s t : State) : Prop := ∃ new, (∀ p ∈ new, s.now < p.due) ∧ t = s.addPend new

variable {s u : State}

theorem AddsPend.now_eq (h : AddsPend s u) : u.now = s.now := by
  obtain ⟨new, -, rfl⟩ := h
  simp [State.now, State.addPend]

theorem addsPend_push {due : Nat} {a : Act} (hd : s.now < due) : AddsPend s (s.push due a) :=
  ⟨_, by simpa using hd, s.push_eq_addPend due a⟩

theorem AddsPend.trans {t : State} (h : AddsPend s u) (k : AddsPend u t) : AddsPend s t := by
  have hn := h.now_eq
  obtain ⟨l, hl, rfl⟩ := h
  obtain ⟨m, hm, rfl⟩ := k
  refine ⟨l ++ m, fun p hp => ?_, s.addPend_addPend l m⟩
  rcases List.mem_append.mp hp with hp | hp
  · exact hl p hp
  · exact hn ▸ hm p hp

theorem AddsPend.foldl_push {α : Type} {lat : Nat} (hl : 0 < lat) (act : α → Act) (l : List α) (h : AddsPend s u) :
    AddsPend s (l.foldl (fun w x => w.push (w.now + lat) (act x)) u) := by
  induction l generalizing u with
  | nil => exact h
  | cons x r ih => exact ih (h.trans (addsPend_push (by omega)))

/-- A result is on its way to its latch and, unless N is 1, to its destination (R10). -/
theorem addsPend_result {lat : Nat} {n : Bool} {v : Row} {d : Act} (hl : 0 < lat) : AddsPend s (s.result lat n v d) := by
  have h : AddsPend s (s.push (s.now + lat) (.latch s.iss.pos v)) := addsPend_push (by omega)
  cases n with
  | true => exact h
  | false => exact h.trans (addsPend_push (by rw [h.now_eq]; omega))

theorem AddsPend.pushFlags {lat : Nat} {f : Flags} (hl : 0 < lat) (h : AddsPend s u) : AddsPend s (u.pushFlags lat f) := by
  unfold State.pushFlags
  split
  · exact h
  · exact h.trans (addsPend_push (by omega))

/-! ### Free choices of a row load, and the stores of a bundle (R134, R198) -/

theorem readGran_choice (s : State) (t : Nat) (swz : Bool) (g : Nat) :
    ∃ c, (s.readGran t swz g).2 = { s with choice := c } := by
  unfold State.readGran
  split
  · exact ⟨s.choice, rfl⟩
  · exact ⟨s.choice, rfl⟩
  · exact ⟨s.choice + 1, rfl⟩

theorem readGrans_choice (s : State) (t : Nat) (swz : Bool) (k n : Nat) :
    ∃ c, (s.readGrans t swz k n).2 = { s with choice := c } := by
  induction n generalizing s k with
  | zero => exact ⟨s.choice, rfl⟩
  | succ n ih =>
    obtain ⟨c, hc⟩ := readGran_choice s t swz (linOf swz (64 * k) / 64)
    obtain ⟨d, hd⟩ := ih { s with choice := c } (k + 1)
    exact ⟨d, by rw [State.readGrans]; simpa [hc] using hd⟩

theorem readView_choice (s : State) (t : Nat) (swz : Bool) (off n : Nat) :
    ∃ c, (s.readView t swz off n).2 = { s with choice := c } := by
  unfold State.readView
  split
  · exact ⟨s.choice, rfl⟩
  · exact readGrans_choice s t swz _ _

theorem gather_choice (s : State) (xs : List Word) (got : FMap Granule) :
    ∃ c, (s.gather xs got).2 = { s with choice := c } := by
  induction xs generalizing s got with
  | nil => exact ⟨s.choice, rfl⟩
  | cons x r ih =>
    rw [State.gather]
    split
    next => exact ih s _
    next =>
      obtain ⟨c, hc⟩ := readGran_choice s s.curId (spadView x.toNat).1 (linOf (spadView x.toNat).1 (spadView x.toNat).2 / 64)
      obtain ⟨d, hd⟩ := ih { s with choice := c } _
      exact ⟨d, by simpa [hc] using hd⟩

/-- Writes of the slot in issue, added to the end of its bundle, are all that t has and s has not. -/
def AddsWrites (s t : State) : Prop :=
  ∃ ws, (∀ x ∈ ws, x.pos = s.iss.pos) ∧ t = s.modIss fun k => { k with writes := k.writes ++ ws }

theorem addsWrites_deferWrite (s : State) (swz : Bool) (off : Nat) (bs : List Byte) : AddsWrites s (s.deferWrite swz off bs) :=
  ⟨[⟨s.iss.pos, swz, off, bs⟩], by simp, rfl⟩

theorem AddsWrites.trans {t : State} (h : AddsWrites s u) (k : AddsWrites u t) : AddsWrites s t := by
  obtain ⟨l, hl, rfl⟩ := h
  obtain ⟨m, hm, rfl⟩ := k
  refine ⟨l ++ m, fun x hx => ?_, by simp [State.modIss]⟩
  rcases List.mem_append.mp hx with hx | hx
  · exact hl x hx
  · exact hm x hx

theorem addsWrites_foldl {α : Type} (f : State → α → State) (hf : ∀ w x, AddsWrites w (f w x)) (l : List α) (s : State) :
    AddsWrites s (l.foldl f s) := by
  induction l generalizing s with
  | nil => exact ⟨[], by simp, by simp [State.modIss]⟩
  | cons x r ih => exact (hf s x).trans (ih _)

/-! ### The slots, each by its one effect -/

/-- The encoding of a CPY.W depends on its conversion; its unit does not. -/
theorem resultSlot_cpyW (d : SOp) (a : DOp) (ly : BitVec 3) (conv : Option Conv) : resultSlot (.cpyW d a ly conv) = false := by
  cases conv <;> dsimp only [resultSlot, Instr.unit, Instr.slot, Instr.wide, Option.map] <;> decide

/-- At commit the slot i has marked its bundle, drawn free choices where it is a row load, and added delayed writes. -/
def Pushed (i : Instr) (s t : State) : Prop :=
  ∃ c, (rowLoad i = false → c = s.choice) ∧ AddsPend { s.marks i with choice := c } t

section
variable {i : Instr} {t : State} {check : State → Verdict} {effect : State → State} (hp : s.iss.phase = .commit)
include hp

theorem eq_effect_of_commit (ht : issueSlot i check effect s = .next t) : t = effect (s.marks i) := by
  rw [issueSlot_commit i check effect s hp] at ht
  exact (Host.Outcome.next.inj ht).symm

theorem pushed_of_effect (ht : issueSlot i check effect s = .next t) (he : ∀ u, AddsPend u (effect u)) : Pushed i s t :=
  ⟨s.choice, fun _ => rfl, eq_effect_of_commit hp ht ▸ he (s.marks i)⟩

theorem pushed_of_scalarOp {lat : Nat} {n : Bool} {d : SDst} {v : State → Word} (hl : 0 < lat)
    (ht : scalarOp i lat n d v s = .next t) : Pushed i s t :=
  pushed_of_effect hp ht fun _ => addsPend_result hl

theorem pushed_of_divideOp {n : Bool} {d : BitVec 5} {a b : SOp} {f : Word → Word → Word}
    (ht : divideOp i n d a b f s = .next t) : Pushed i s t :=
  pushed_of_effect hp ht fun _ => addsPend_result (by decide)

theorem pushed_of_floatOp {lat : Nat} {n : Bool} {d : SDst} {r : State → Nat × Flags} (hl : 0 < lat)
    (ht : floatOp i lat n d r s = .next t) : Pushed i s t :=
  pushed_of_effect hp ht fun _ => (addsPend_result hl).pushFlags hl

theorem pushed_of_compareOp {n : Bool} {p : BitVec 3} {r : State → Bool × Flags} (ht : compareOp i n p r s = .next t) :
    Pushed i s t :=
  pushed_of_effect hp ht fun _ => (addsPend_result (by decide)).pushFlags (by decide)

theorem pushed_of_predOp {n : Bool} {p : BitVec 3} {b : State → Bool} (ht : predOp i n p b s = .next t) : Pushed i s t :=
  pushed_of_effect hp ht fun _ => addsPend_result (by decide)

theorem pushed_of_rowOp {lat : Nat} {n : Bool} {d : VOp} {r : State → Row} (hl : 0 < lat)
    (ht : rowOp i lat n d r s = .next t) : Pushed i s t :=
  pushed_of_effect hp ht fun _ => addsPend_result hl

theorem pushed_of_rowFlagOp {lat : Nat} {n : Bool} {d : VOp} {r : State → Row × Flags} (hl : 0 < lat)
    (ht : rowFlagOp i lat n d r s = .next t) : Pushed i s t :=
  pushed_of_effect hp ht fun _ => (addsPend_result hl).pushFlags hl

/-- A column select: the latch, then no row, the first one or all of them, then the flags (R137). -/
theorem pushed_of_cselkOp {n : Bool} {d a : VOp} {f : Fmt} {k : State → Nat} (ht : cselkOp i n d a f k s = .next t) :
    Pushed i s t := by
  refine pushed_of_effect hp ht fun u => AddsPend.pushFlags (by decide) ?_
  have h : AddsPend u (u.push (u.now + 40) (.latch u.iss.pos ((cselkOut f (k u) (u.cselkSource a)).headD 0))) :=
    addsPend_push (by omega)
  cases n with
  | true => exact h
  | false =>
    cases d
    case file v => exact h.trans (addsPend_push (by rw [h.now_eq]; omega))
    all_goals exact h.foldl_push (by decide) _ _

theorem pushed_of_execVld {n : Bool} {d : VDn} {a : SOp} {x : BitVec 7} (ht : execVld n d a x s = .next t) :
    Pushed (.vld n d a x) s t := by
  let u := s.marks (.vld n d a x)
  obtain ⟨c, hc⟩ := readView_choice u u.curId (spadView (u.rowAddr a x).toNat).1 (spadView (u.rowAddr a x).toNat).2 512
  exact ⟨c, nofun, eq_effect_of_commit hp ht ▸ hc ▸ addsPend_result (by decide)⟩

theorem pushed_of_execVlds {n : Bool} {d : VDn} {a b : SOp} (ht : execVlds n d a b s = .next t) :
    Pushed (.vlds n d a b) s t := by
  let u := s.marks (.vlds n d a b)
  obtain ⟨c, hc⟩ := gather_choice u (strideAddrs (u.readS a) (u.readS b)) []
  exact ⟨c, nofun, eq_effect_of_commit hp ht ▸ hc ▸ addsPend_result (by decide)⟩

theorem pushed_of_resultSlot (hi : resultSlot i = true) (hs : rowStore i = false) (ht : exec i s = .next t) : Pushed i s t := by
  cases i with
  | add | sub | addi | lui | mul | mulh | and | or | xor | shl | shr | sra | min | max | slt | sltu | seq | clz | popc |
  movo | sel | li | addiW | andiW | oriW | xoriW | muliW | sltiW | seqiW =>
    dsimp only [exec] at ht
    exact pushed_of_scalarOp hp (by decide) ht
  | div | divu | rem =>
    dsimp only [exec] at ht
    exact pushed_of_divideOp hp ht
  | movsb | movc | vmovt =>
    dsimp only [exec] at ht
    exact pushed_of_effect hp ht fun _ => addsPend_push (by omega)
  | fadd | fsub | fmul | ffma | fcvt | fmin | fmax | fcvtW =>
    dsimp only [exec] at ht
    exact pushed_of_floatOp hp (by decide) ht
  | fcmpEq | fcmpLt | fcmpLe | fcmpUn | fcmpW =>
    dsimp only [exec] at ht
    exact pushed_of_compareOp hp ht
  | pset | pand | por | pnot =>
    dsimp only [exec] at ht
    exact pushed_of_predOp hp ht
  | vsel | vand | vor | vxor | vshl | vshr | vbcast | vperm | vmovo =>
    dsimp only [exec] at ht
    exact pushed_of_rowOp hp (by decide) ht
  | vadd | vsub | vmul | vfma | vmax | vmin | vabs | vneg | vexp2 | vlog2 | vrcp | vrsq | vcmpEq | vcmpLt | vcmpLe | vrsum |
  vrmax | vaddW | vsubW | vmulW | vfmaW | vmaxW | vminW | vcvt | vrsumW | vrmaxW =>
    dsimp only [exec] at ht
    exact pushed_of_rowFlagOp hp (by decide) ht
  | vmova =>
    dsimp only [exec] at ht
    exact pushed_of_effect hp ht fun _ => addsPend_result (by decide)
  | cselk | cselkW =>
    dsimp only [exec] at ht
    exact pushed_of_cselkOp hp ht
  | vld => exact pushed_of_execVld hp ht
  | vlds => exact pushed_of_execVlds hp ht
  | vst | vsts => exact absurd hs.symm Bool.false_ne_true
  | cpyW d a ly conv => exact absurd hi (resultSlot_cpyW d a ly conv ▸ Bool.false_ne_true)
  | _ =>
    dsimp only [resultSlot, Instr.unit, Instr.slot, Instr.wide, Option.map] at hi
    exact absurd hi (by decide)

theorem addsWrites_of_rowStore (hs : rowStore i = true) (ht : exec i s = .next t) : AddsWrites (s.marks i) t := by
  cases i with
  | vst d a x =>
    dsimp only [exec] at ht
    exact eq_effect_of_commit hp ht ▸ addsWrites_deferWrite _ _ _ _
  | vsts d a b =>
    dsimp only [exec] at ht
    exact eq_effect_of_commit hp ht ▸ addsWrites_foldl _ (fun _ _ => addsWrites_deferWrite _ _ _ _) _ _
  | _ => exact absurd hs Bool.false_ne_true

end

/-- Settles O48: a slot that is no store has its bundle marked, draws its choices and adds delayed writes, which changes the
issuing thread alone; a store has its bundle marked and adds to its end. -/
theorem resultSlotsOnlyPush : Obligations.ResultSlotsOnlyPush := by
  intro i s t hi hp ht
  refine ⟨fun hs => ?_, fun hs => ?_⟩
  · obtain ⟨c, hc, new, hdue, rfl⟩ := pushed_of_resultSlot hp hi hs ht
    let u : State := { s.marks i with choice := c }
    have hiss : (u.addPend new).iss = u.iss := u.modThread_iss _
    have hchoice : (u.addPend new).choice = c := u.modThread_choice _
    exact ⟨u.modThread_eq _, fun hl => hchoice.trans (hc hl), by rw [hiss]; rfl, u.modThread_tile _, u.modThread_seqCtx _,
      fun a ha => u.threadOf_modThreadOf_ne u.iss.agent a _ ha, new, u.thread_modThread _, hdue⟩
  · obtain ⟨ws, hpos, rfl⟩ := addsWrites_of_rowStore hp hs ht
    exact ⟨rfl, ws, rfl, hpos⟩

end Sys2Proof.Machine
end

section
/-! The machine right after reset (R27, R110, R144, R302, R352, R376, R382, R389). -/

namespace Sys2Proof.Machine

theorem tile_reset (t : Nat) : State.reset.tile t = Tile.reset := rfl

theorem cluster_reset (c : Nat) : State.reset.cluster c = Cluster.reset := rfl

theorem seqCtx_reset (q : Nat) : State.reset.seqCtx q = Seq.reset := rfl

theorem part_reset (v : Nat) : State.reset.part v = Part.reset := rfl

/-- Every launch slot is FREE after reset, a number past the last one among them (R302). -/
theorem slot_reset (k : Nat) : (Seq.reset.slot k).st = .free := by
  by_cases hk : k < 16 <;> simp [Seq.slot, Seq.reset, vget, LSlot.reset, hk]

/-- Settles O60: a table that lists nothing answers its reset entry at every number. -/
theorem resetState : Obligations.ResetState := by
  refine ⟨rfl, rfl, rfl, rfl, rfl, fun t => ?_, fun c => ?_, fun q k => ?_, fun v => ?_⟩
  · rw [tile_reset]
    exact ⟨rfl, rfl, rfl⟩
  · rw [cluster_reset]
    exact ⟨rfl, rfl, rfl⟩
  · rw [seqCtx_reset]
    exact ⟨rfl, slot_reset k, rfl⟩
  · rw [part_reset]
    exact ⟨rfl, rfl, rfl, rfl, rfl, rfl, rfl, rfl, rfl, rfl, rfl⟩

end Sys2Proof.Machine
end

section
/-! A slot of the common frame does, or is stopped by, what its own check and effect say (R62, R63, R72). -/

namespace Sys2Proof.Machine

open Sys2Proof.Claims

section
variable {i : Instr} {check : State → Verdict} {effect : State → State} {c : State → Prop}
  (he : ∀ s, exec i s = issueSlot i check effect s)
include he

/-- The check of a slot inside a bundle finds what its own check answers. -/
theorem finds_of_issueSlot {v : State → Verdict} (hv : ∀ s, c s → check s = v s) : Finds i c v := by
  intro s hp hr hc
  rw [he, issueSlot_check i check effect s hp, hr, hv s hc]
  rfl

/-- A slot whose own check passes has its effect in every phase. -/
theorem does_of_issueSlot (hg : ∀ s, c s → check s = .go) : Does i c effect := by
  refine ⟨finds_of_issueSlot he hg, fun s hp _ => ?_, fun s hs hc => ?_⟩
  · rw [he, issueSlot_commit i check effect s hp]
  · rw [he, issueSlot_go i check effect s hs.1 hs.2 (hg _ hc)]

/-- A slot that its own check stops takes that fault. -/
theorem faults_of_issueSlot {cause : BitVec 8} {addr : State → Word} {wr : Bool}
    (hf : ∀ s, c s → check s = .trap ⟨cause, addr s, 1#8 <<< s.iss.pos, wr, false, false⟩) : Faults i c cause addr wr := by
  refine ⟨finds_of_issueSlot he hf, fun s hs hc => ?_⟩
  rw [he, issueSlot_trap i check effect s _ hs.1 hs.2 (hf _ hc)]
  rfl

end

end Sys2Proof.Machine
end

section
/-! The system registers of a tile and of a context: what SYSR reads, what a SYSW changes, and PRIVILEGE (R109). -/

namespace Sys2Proof.Machine

open Sys2Proof.Claims

/-! ### CURS (R110) -/

theorem packNat_field (w : Nat) (l : List Nat) (k : Nat) : packNat w l / 2 ^ (w * k) % 2 ^ w = l.getD k 0 % 2 ^ w := by
  induction l generalizing k with
  | nil => simp [packNat]
  | cons x r ih =>
    cases k with
    | zero => simp [packNat]
    | succ k =>
      have hx : x % 2 ^ w < 2 ^ w := Nat.mod_lt _ (by positivity)
      have hq : packNat w (x :: r) / 2 ^ w = packNat w r := by
        rw [packNat, Nat.add_mul_div_left _ _ (by positivity), Nat.div_eq_of_lt hx, Nat.zero_add]
      rw [Nat.mul_succ, Nat.add_comm, Nat.pow_add, ← Nat.div_div_eq_div_mul, hq, ih]
      rfl

/-- CURS holds cursor k in its k-th field of five bits. -/
theorem curs_field (x : Tile) {k : Nat} (hk : k < 8) : x.curs.extractLsb' (5 * k) 5 = vget x.cur k := by
  apply BitVec.eq_of_toNat_eq
  have hd : 2 ^ 64 = 2 ^ (5 * k) * (2 ^ 5 * 2 ^ (59 - 5 * k)) := by
    rw [← Nat.pow_add, ← Nat.pow_add]
    congr 1
    omega
  have hg : (x.cur.toList.map BitVec.toNat).getD k 0 = (vget x.cur k).toNat := by simp [vget, hk]
  rw [BitVec.extractLsb'_toNat, Nat.shiftRight_eq_div_pow, Tile.curs, BitVec.toNat_ofNat, hd, Nat.mod_mul_right_div_self,
    Nat.mod_mul_right_mod, packNat_field, hg]
  exact Nat.mod_eq_of_lt (vget x.cur k).isLt

/-! ### Which register a number names (R110, R302, R319) -/

theorem State.sysRead_tile {s : State} {t : BitVec 11} (h : s.iss.agent = .tile t) (i : BitVec 14) :
    s.sysRead i = s.sysTile t.toNat i.toNat := by
  rw [State.sysRead, h]

theorem State.sysRead_seq {s : State} {q : BitVec 6} (h : s.iss.agent = .seq q) (i : BitVec 14) :
    s.sysRead i = s.sysSeq q.toNat i.toNat := by
  rw [State.sysRead, h]

theorem State.sysTile_common {s : State} {k num : Nat} {v : Word} (h : s.sysCommon (s.tile k).th num = some v) :
    s.sysTile k num = v := by
  simp only [State.sysTile, h]

theorem State.sysSeq_common {s : State} {q num : Nat} {v : Word} (h : s.sysCommon (s.seqCtx q).th num = some v) :
    s.sysSeq q num = v := by
  simp only [State.sysSeq, h]

theorem State.sysCommon_loopIndex (s : State) (t : Thread) {k : Nat} (hk : k < 6) :
    s.sysCommon t (BitVec.ofNat 14 (0x010 + k)).toNat = some (vget t.li k) := by
  interval_cases k <;> rfl

theorem State.sysTile_tr1 (s : State) (t k : Nat) (hk : k ≤ 5) : s.sysTile t (0x100 + k) = (s.tile t).th.tr1.read k := by
  interval_cases k <;> simp [State.sysTile, State.sysCommon]

theorem State.sysTile_tr2 (s : State) (t k : Nat) (hk : k ≤ 5) : s.sysTile t (0x110 + k) = (s.tile t).th.tr2.read k := by
  interval_cases k <;> simp [State.sysTile, State.sysCommon]

/-- A context reads the number of clusters of the partition that it serves (R302). -/
theorem State.sysSeq_clusters {s : State} {q v : Nat} (h : s.partOfSeq q = some v) :
    s.sysSeq q 0x071 = BitVec.ofNat 64 (s.part v).map.length := by
  simp [State.sysSeq, State.sysCommon, h]

/-- An agent whose reads agree with the shared table of its thread reads every register of that table. -/
theorem readsThread_of_sysCommon {s : State} {t : Thread}
    (h : ∀ (i : BitVec 14) (v : Word), s.sysCommon t i.toNat = some v → s.sysRead i = v) : ReadsThread s t :=
  ⟨h _ _ rfl, h _ _ rfl, h _ _ rfl, h _ _ rfl, h _ _ rfl, fun _ hk => h _ _ (s.sysCommon_loopIndex t hk), h _ _ rfl, h _ _ rfl⟩

theorem readsThread_tile {s : State} {t : BitVec 11} (h : s.iss.agent = .tile t) : ReadsThread s (s.tile t.toNat).th :=
  readsThread_of_sysCommon fun i _ hv => (State.sysRead_tile h i).trans (State.sysTile_common hv)

theorem readsThread_seq {s : State} {q : BitVec 6} (h : s.iss.agent = .seq q) : ReadsThread s (s.seqCtx q.toNat).th :=
  readsThread_of_sysCommon fun i _ hv => (State.sysRead_seq h i).trans (State.sysSeq_common hv)

/-! ### PRIVILEGE (R109) -/

theorem sysDenied_iff (s : State) (i : BitVec 14) : s.sysDenied i = true ↔ s.onTile = true ∧
    (0x100 ≤ i.toNat ∧ i.toNat ≤ 0x105 ∧ s.thread.lvl.num < 1 ∨ 0x110 ≤ i.toNat ∧ i.toNat ≤ 0x115 ∧ s.thread.lvl.num < 2) := by
  rw [State.sysDenied, Bool.and_eq_true, decide_eq_true_eq, sysLevel]
  split
  next h1 => exact and_congr_right fun _ => by omega
  next h1 =>
    split
    next h2 => exact and_congr_right fun _ => by omega
    next h2 => exact and_congr_right fun _ => by omega

theorem exec_sysr (n : Bool) (d : BitVec 5) (i : BitVec 14) (s : State) : exec (.sysr n d i) s =
    issueSlot (.sysr n d i) (fun u => checkThat (!u.sysDenied i) (u.faultPc cPRIVILEGE))
      (fun u => u.dstS 2 n (.reg d) (u.sysRead i)) s := rfl

theorem exec_sysw (d : BitVec 5) (i : BitVec 14) (s : State) : exec (.sysw d i) s =
    issueSlot (.sysw d i) (fun u => checkThat (!u.sysDenied i) (u.faultPc cPRIVILEGE))
      (fun u => u.push (u.now + 2) (.sysw i (u.thread.getS d))) s := rfl

section
variable (i : BitVec 14) (s : State)

theorem sysCheck_go (h : s.sysDenied i = false) : checkThat (!s.sysDenied i) (s.faultPc cPRIVILEGE) = .go :=
  checkThat_true _ (by rw [h]; rfl)

theorem sysCheck_trap (h : s.sysDenied i = true) : checkThat (!s.sysDenied i) (s.faultPc cPRIVILEGE) = s.faultPc cPRIVILEGE :=
  checkThat_false _ (by rw [h]; rfl)

end

/-! ### What a SYSW changes (R27, R109) -/

/-- Of a context a SYSW changes FPCTL alone. -/
theorem Thread.sysWrite_seq (t : Thread) (i : BitVec 14) (v : Word) : t.sysWrite false i.toNat v =
    { t with fpctl := if i = 0 then (v &&& 0xC100) ||| (t.fpctl &&& 0x1F &&& ~~~v) else t.fpctl } := by
  by_cases h : i = 0
  · subst h
    rfl
  · have hn : i.toNat ≠ 0 := fun e => h (BitVec.eq_of_toNat_eq e)
    rw [if_neg h, Thread.sysWrite, if_neg hn]
    rfl

theorem Thread.sysWrite_readOnly (t : Thread) {i : Nat} (v : Word) (h0 : i ≠ 0x000) (h4 : i ≠ 0x004)
    (h1 : i < 0x100 ∨ 0x104 < i) (h2 : i < 0x110 ∨ 0x114 < i) : t.sysWrite true i v = t := by
  unfold Thread.sysWrite
  rw [if_neg h0, if_neg (by decide), if_neg h4, if_neg (by omega), if_neg (by omega)]

theorem Tile.sysWrite_readOnly (x : Tile) {i : Nat} (v : Word) (h0 : i ≠ 0x000) (h4 : i ≠ 0x004) (h40 : i ≠ 0x040)
    (h50 : i ≠ 0x050) (h1 : i < 0x100 ∨ 0x104 < i) (h2 : i < 0x110 ∨ 0x114 < i) : x.sysWrite i v = x := by
  rw [Tile.sysWrite, if_neg h40, if_neg h50, Thread.sysWrite_readOnly _ v h0 h4 h1 h2]

/-- Settles O25: SYSR and SYSW by their frame, the reads by the two tables of registers, the writes register by register. -/
theorem systemRegisters : Obligations.SystemRegisters := by
  refine ⟨fun n d i => ⟨?_, ?_, ?_, ?_⟩, sysDenied_iff, fun s t h => ?_, fun s q h => ?_, fun s t q n i v => ?_, fun x v => ?_⟩
  · exact does_of_issueSlot (exec_sysr n d i) (sysCheck_go i)
  · exact does_of_issueSlot (exec_sysw d i) (sysCheck_go i)
  · exact faults_of_issueSlot (exec_sysr n d i) (sysCheck_trap i)
  · exact faults_of_issueSlot (exec_sysw d i) (sysCheck_trap i)
  · refine ⟨readsThread_tile h, ?_⟩
    simp only [State.sysRead_tile h]
    have tr1 := s.sysTile_tr1 t.toNat
    have tr2 := s.sysTile_tr2 t.toNat
    have hc : s.sysTile t.toNat (0x003 : BitVec 14).toNat = (s.tile t.toNat).curs := rfl
    exact ⟨⟨fun k hk => hc ▸ curs_field _ hk, rfl, rfl, rfl, rfl, rfl, rfl, rfl, rfl, rfl, rfl, rfl, rfl, rfl, rfl, rfl, rfl,
        rfl, rfl⟩,
      tr1 0 (by decide), tr1 1 (by decide), tr1 2 (by decide), tr1 3 (by decide), tr1 4 (by decide), tr1 5 (by decide),
      tr2 0 (by decide), tr2 1 (by decide), tr2 2 (by decide), tr2 3 (by decide), tr2 4 (by decide), tr2 5 (by decide)⟩
  · refine ⟨readsThread_seq h, ?_⟩
    simp only [State.sysRead_seq h]
    exact ⟨rfl, fun v hv => State.sysSeq_clusters hv, rfl, rfl, rfl⟩
  · refine ⟨rfl, ?_⟩
    rw [State.applyAct]
    simp only [Thread.sysWrite_seq]
  · exact ⟨rfl, rfl, rfl, rfl, ⟨rfl, rfl, rfl, rfl, rfl⟩, ⟨rfl, rfl, rfl, rfl, rfl⟩,
      fun _ h0 h4 h40 h50 h1 h2 => x.sysWrite_readOnly v h0 h4 h40 h50 h1 h2⟩

end Sys2Proof.Machine
end

section
/-! Taking a trap: where it goes, what entry saves and what it leaves, the kill, and the stop of a context (R301, R318 to
R323). -/

namespace Sys2Proof.Machine

/-! ### STAT as trap entry writes it (R319) -/

theorem statWord_toNat (l : Lvl) (f : FaultInfo) : (statWord l f).toNat =
    l.num * 2 ^ 17 + 2 ^ 16 * f.late.toNat + f.slots.toNat * 2 ^ 8 + 2 * f.wr.toNat + f.fetch.toNat := by
  have hs : f.slots.toNat < 256 := f.slots.isLt
  have hl : l.num < 3 := by cases l <;> decide
  have h16 : (if f.late then 2 ^ 16 else 0) = 2 ^ 16 * f.late.toNat := by cases f.late <;> rfl
  have h1 : (if f.wr then 2 else 0) = 2 * f.wr.toNat := by cases f.wr <;> rfl
  have h0 : (if f.fetch then 1 else 0) = f.fetch.toNat := by cases f.fetch <;> rfl
  have b16 := f.late.toNat_le
  have b1 := f.wr.toNat_le
  have b0 := f.fetch.toNat_le
  rw [statWord, BitVec.toNat_ofNat, h16, h1, h0]
  omega

theorem getLsbD_eq_of_toNat_div {w : Nat} {x : BitVec w} {k : Nat} {b : Bool} (h : x.toNat / 2 ^ k % 2 = b.toNat) :
    x.getLsbD k = b := by
  rw [BitVec.getLsbD, Nat.testBit_eq_decide_div_mod_eq, h]
  cases b <;> rfl

/-- Each field of R319 stands at its place. -/
theorem statWord_fields (l : Lvl) (f : FaultInfo) :
    (statWord l f).extractLsb' 17 2 = BitVec.ofNat 2 l.num ∧ (statWord l f).getLsbD 16 = f.late ∧
      (statWord l f).extractLsb' 8 8 = f.slots ∧ (statWord l f).getLsbD 1 = f.wr ∧ (statWord l f).getLsbD 0 = f.fetch := by
  have hw := statWord_toNat l f
  have hs : f.slots.toNat < 256 := f.slots.isLt
  have b16 := f.late.toNat_le
  have b1 := f.wr.toNat_le
  have b0 := f.fetch.toNat_le
  refine ⟨BitVec.eq_of_toNat_eq ?_, getLsbD_eq_of_toNat_div ?_, BitVec.eq_of_toNat_eq ?_, getLsbD_eq_of_toNat_div ?_,
    getLsbD_eq_of_toNat_div ?_⟩
  · rw [BitVec.extractLsb'_toNat, hw, Nat.shiftRight_eq_div_pow, BitVec.toNat_ofNat]
    omega
  · omega
  · rw [BitVec.extractLsb'_toNat, hw, Nat.shiftRight_eq_div_pow]
    omega
  · omega
  · omega

/-! ### A thread that enters a level (R321 to R323) -/

/-- ECC_UNCORRECTABLE has no handler at any level (R321). -/
theorem Thread.route_ecc (t : Thread) : t.route 0x12 = none := rfl

section
variable {t : Thread} {c : BitVec 8}

theorem Thread.route_of_tl0 (hc : c ≠ 0x12) (hl : t.lvl = .tl0) :
    t.route c = if t.tr1.hbase ≠ 0 then some .tl1 else if t.tr2.hbase ≠ 0 then some .tl2 else none := by
  rw [Thread.route, if_neg (show c ≠ cECC from hc), hl]

theorem Thread.route_of_tl1 (hc : c ≠ 0x12) (hl : t.lvl = .tl1) :
    t.route c = if t.tr2.hbase ≠ 0 then some .tl2 else none := by
  rw [Thread.route, if_neg (show c ≠ cECC from hc), hl]

theorem Thread.route_of_tl2 (hc : c ≠ 0x12) (hl : t.lvl = .tl2) : t.route c = none := by
  rw [Thread.route, if_neg (show c ≠ cECC from hc), hl]

end

/-- A trap goes to a higher level than the one it was found at. -/
theorem Thread.lvl_lt_of_route {t : Thread} {c : BitVec 8} {m : Lvl} (h : t.route c = some m) : t.lvl.num < m.num := by
  by_cases hc : c = 0x12
  · rw [hc, Thread.route_ecc] at h
    cases h
  cases hl : t.lvl with
  | tl0 =>
    rw [Thread.route_of_tl0 hc hl] at h
    split at h
    · cases h; decide
    · split at h <;> cases h
      decide
  | tl1 =>
    rw [Thread.route_of_tl1 hc hl] at h
    split at h <;> cases h
    decide
  | tl2 =>
    rw [Thread.route_of_tl2 hc hl] at h
    cases h

/-- A trap that no level above has a handler for goes nowhere, whatever its cause (R321). -/
theorem Thread.route_none {t : Thread} {c : BitVec 8} (h0 : t.lvl = .tl0 → t.tr1.hbase = 0 ∧ t.tr2.hbase = 0)
    (h1 : t.lvl = .tl1 → t.tr2.hbase = 0) : t.route c = none := by
  by_cases hc : c = 0x12
  · rw [hc, Thread.route_ecc]
  cases hl : t.lvl with
  | tl0 => simp [Thread.route_of_tl0 hc hl, h0 hl]
  | tl1 => simp [Thread.route_of_tl1 hc hl, h1 hl]
  | tl2 => exact Thread.route_of_tl2 hc hl

/-- A position past the last latch reads zero too. -/
theorem latch_default_val : (default : Latch).val = 0 :=
  (show (default : Latch).val = (default : Row) from rfl).trans (by simp [default])

/-- The level entered begins with every latch zero (R71, R322). -/
theorem Thread.enter_latches (t : Thread) {m : Lvl} (hm : t.lvl.num < m.num) (epc : Word) (f : FaultInfo) (q : Word) (k : Nat) :
    (vget (t.enter m epc f q).bank.lat k).val = 0 := by
  have hz : (vget (Vector.replicate 8 (⟨0, 0⟩ : Latch)) k).val = 0 := by
    by_cases hk : k < 8
    · simp [vget, hk]
    · simp [vget, hk, latch_default_val]
  cases m with
  | tl0 => exact absurd hm (Nat.not_lt_zero _)
  | tl1 => exact hz
  | tl2 => exact hz

/-- The interrupted level stands as it was (R323). -/
theorem Thread.enter_bankAt (t : Thread) {m : Lvl} (hm : t.lvl.num < m.num) (epc : Word) (f : FaultInfo) (q : Word) :
    (t.enter m epc f q).bankAt t.lvl = t.bankAt t.lvl := by
  cases hl : t.lvl <;> rw [hl] at hm
  case tl0 => cases m <;> rfl
  case tl1 =>
    cases m with
    | tl0 => rfl
    | tl1 => exact absurd hm (Nat.lt_irrefl _)
    | tl2 => rfl
  case tl2 => cases m <;> exact absurd hm (by decide)

/-- What the levels share is not touched (R318, R323). -/
theorem Thread.enter_keeps (t : Thread) (m : Lvl) (epc : Word) (f : FaultInfo) (q : Word) :
    let e := t.enter m epc f q
    e.s = t.s ∧ e.ps = t.ps ∧ e.loops = t.loops ∧ e.li = t.li ∧ e.fpctl = t.fpctl := by
  cases m <;> exact ⟨rfl, rfl, rfl, rfl, rfl⟩

/-! ### What a trap does beside the entry: the sticky IV, the array of a waiting holder, the killed context -/

/-- A thread whose trap has been raised: FP_INVALID has set the sticky IV (R30). -/
def Thread.raised (t : Thread) (cause : BitVec 8) : Thread :=
  { t with fpctl := if cause = 0x11 then t.fpctl ||| 0x10 else t.fpctl }

theorem Thread.route_raised (t : Thread) (c d : BitVec 8) : (t.raised c).route d = t.route d := rfl

theorem stickyInvalid_eq_or (s : State) (c : BitVec 8) :
    s.stickyInvalid c = s ∨ s.stickyInvalid c = s.modThread fun t => { t with fpctl := t.fpctl ||| 0x10 } := by
  unfold State.stickyInvalid
  split
  · exact .inr rfl
  · exact .inl rfl

@[simp] theorem stickyInvalid_cycle (s : State) (c : BitVec 8) : (s.stickyInvalid c).cycle = s.cycle := by
  rcases stickyInvalid_eq_or s c with h | h <;> simp [h]

@[simp] theorem stickyInvalid_iss (s : State) (c : BitVec 8) : (s.stickyInvalid c).iss = s.iss := by
  rcases stickyInvalid_eq_or s c with h | h <;> simp [h]

@[simp] theorem stickyInvalid_hbm (s : State) (c : BitVec 8) : (s.stickyInvalid c).hbm = s.hbm := by
  rcases stickyInvalid_eq_or s c with h | h <;> simp [h]

@[simp] theorem stickyInvalid_cluster (s : State) (c : BitVec 8) (k : Nat) : (s.stickyInvalid c).cluster k = s.cluster k := by
  rcases stickyInvalid_eq_or s c with h | h <;> simp [h, State.cluster]

theorem stickyInvalid_tile_self {s : State} {t : BitVec 11} (h : s.iss.agent = .tile t) (c : BitVec 8) :
    (s.stickyInvalid c).tile t.toNat = { s.tile t.toNat with th := (s.tile t.toNat).th.raised c } := by
  unfold State.stickyInvalid
  by_cases hc : c = cFP_INVALID
  · rw [if_pos hc, State.modThread, h, State.modThreadOf, State.tile_modTile_self, Thread.raised, if_pos (show c = 0x11 from hc)]
  · rw [if_neg hc, Thread.raised, if_neg (show c ≠ 0x11 from hc)]

theorem stickyInvalid_tile_ne {s : State} {t : BitVec 11} (h : s.iss.agent = .tile t) (c : BitVec 8) {j : Nat}
    (hj : j ≠ t.toNat) : (s.stickyInvalid c).tile j = s.tile j := by
  rcases stickyInvalid_eq_or s c with e | e <;> simp [e, State.modThread, State.modThreadOf, h, hj]

theorem holdArray_eq (s : State) (t : Nat) : ∃ k, s.holdArray t = s.withClusters k := by
  unfold State.holdArray
  split
  · exact ⟨_, rfl⟩
  · exact ⟨_, rfl⟩

@[simp] theorem holdArray_tile (s : State) (t j : Nat) : (s.holdArray t).tile j = s.tile j := by
  obtain ⟨k, h⟩ := holdArray_eq s t
  rw [h]
  rfl

@[simp] theorem holdArray_hbm (s : State) (t : Nat) : (s.holdArray t).hbm = s.hbm := by
  obtain ⟨k, h⟩ := holdArray_eq s t
  rw [h]
  rfl

/-- The array that ran on for its waiting holder runs on no more (R140). -/
theorem holdArray_arr {s : State} {t : Nat} (h : (s.cluster (t / 4)).arr.holder = some (BitVec.ofNat 2 t)) :
    ((s.holdArray t).cluster (t / 4)).arr = { (s.cluster (t / 4)).arr with free := false } := by
  rw [State.holdArray, if_pos h, State.modArr, State.cluster_modCluster_self]

theorem tile_modPart (s : State) (v t : Nat) (f : Part → Part) : (s.modPart v f).tile t = s.tile t := rfl

/-- The kill of a bound tile stops it and raises the halt line of its partition (R326). -/
theorem killTile_stops (s : State) (t : Nat) (c o : BitVec 8) (a : Word) (h : (s.tile t).alive = true) :
    ((s.killTile t c o a).tile t).run = .stopped ∧ ((s.killTile t c o a).part (s.tile t).part.toNat).halt = true := by
  have ha : ¬(!(s.tile t).alive) = true := by rw [h]; decide
  simp only [State.killTile, if_neg ha, tile_modPart, State.tile_modTile_self, State.part_modPart_self, and_self]

/-! ### Taking a trap (R301, R320 to R323) -/

section
variable {s : State} {t : BitVec 11} (h : s.iss.agent = .tile t) {epc : Word} {f : FaultInfo}
include h

theorem takeTrap_eq_kill (hr : (s.tile t.toNat).th.route f.cause = none) :
    ∃ c o, s.takeTrap epc f = (s.stickyInvalid f.cause).killTile t.toNat c o f.addr := by
  simp only [State.takeTrap, stickyInvalid_iss, h, stickyInvalid_tile_self h, Thread.route_raised, hr]
  split
  · exact ⟨_, _, rfl⟩
  · exact ⟨_, _, rfl⟩

theorem takeTrap_killed (hr : (s.tile t.toNat).th.route f.cause = none) (ha : (s.tile t.toNat).alive = true) :
    ((s.takeTrap epc f).tile t.toNat).run = .stopped ∧ ((s.takeTrap epc f).part (s.tile t.toNat).part.toNat).halt = true := by
  have hx := stickyInvalid_tile_self h f.cause
  obtain ⟨c, o, he⟩ := takeTrap_eq_kill h (epc := epc) hr
  have hk := killTile_stops (s.stickyInvalid f.cause) t.toNat c o f.addr (by rw [hx]; exact ha)
  rw [hx] at hk
  rwa [he]

variable {m : Lvl} (hr : (s.tile t.toNat).th.route f.cause = some m)
include hr

theorem takeTrap_eq_enter : s.takeTrap epc f = ((s.stickyInvalid f.cause).holdArray t.toNat).modTile t.toNat fun x =>
    { x.newGroup with
      lease := none
      th := { x.th.enter m epc f (x.q0.headD 0) with readyAt := s.cycle + 5 + s.iss.cost } } := by
  simp only [State.takeTrap, stickyInvalid_iss, stickyInvalid_cycle, h, stickyInvalid_tile_self h, Thread.route_raised, hr]

theorem takeTrap_tile_self : (s.takeTrap epc f).tile t.toNat = { (s.tile t.toNat).newGroup with
    lease := none
    th := { ((s.tile t.toNat).th.raised f.cause).enter m epc f ((s.tile t.toNat).q0.headD 0) with
      readyAt := s.cycle + 5 + s.iss.cost } } := by
  rw [takeTrap_eq_enter h hr, State.tile_modTile_self, holdArray_tile, stickyInvalid_tile_self h]
  rfl

theorem takeTrap_tile_ne {j : Nat} (hj : j ≠ t.toNat) : (s.takeTrap epc f).tile j = s.tile j := by
  rw [takeTrap_eq_enter h hr, State.tile_modTile_ne _ _ _ _ hj, holdArray_tile, stickyInvalid_tile_ne h _ hj]

theorem takeTrap_hbm : (s.takeTrap epc f).hbm = s.hbm := by
  rw [takeTrap_eq_enter h hr, State.modTile_hbm, holdArray_hbm, stickyInvalid_hbm]

theorem takeTrap_arr (ha : (s.cluster (t.toNat / 4)).arr.holder = some (BitVec.ofNat 2 t.toNat)) :
    ((s.takeTrap epc f).cluster (t.toNat / 4)).arr = { (s.cluster (t.toNat / 4)).arr with free := false } := by
  have hs := stickyInvalid_cluster s f.cause (t.toNat / 4)
  rw [takeTrap_eq_enter h hr, ← hs]
  exact holdArray_arr (hs ▸ ha)

end

/-! ### The stop of a context (R301) -/

theorem seqCtx_raise (s : State) (v k q : Nat) : (s.raise v k).seqCtx q = s.seqCtx q :=
  congrArg (fget Seq.reset · q) (recordsOnly_raise s v k).seqs

theorem doneRecord_keeps (s : State) (q : Nat) (d : DoneRec) :
    ((s.doneRecord q d).seqCtx q).running = (s.seqCtx q).running ∧ ((s.doneRecord q d).seqCtx q).th = (s.seqCtx q).th := by
  unfold State.doneRecord
  split
  · rw [State.seqCtx_modSeq_self]
    exact ⟨rfl, rfl⟩
  · split
    · rw [State.seqCtx_modSeq_self, seqCtx_raise]
      exact ⟨rfl, rfl⟩
    · rw [State.seqCtx_modSeq_self]
      exact ⟨rfl, rfl⟩

/-- A stopped context is idle and its loop stack is empty (R301; log entry 34). -/
theorem seqStop_idle (s : State) (q : Nat) (c : BitVec 8) (pc : Word) :
    ((s.seqStop q c pc).seqCtx q).running = false ∧ ((s.seqStop q c pc).seqCtx q).th.loops = [] := by
  unfold State.seqStop
  rw [(doneRecord_keeps _ _ _).1, (doneRecord_keeps _ _ _).2, State.seqCtx_modSeq_self]
  exact ⟨rfl, rfl⟩

theorem takeTrap_seq {s : State} {q : BitVec 6} (h : s.iss.agent = .seq q) (epc : Word) (f : FaultInfo) :
    ((s.takeTrap epc f).seqCtx q.toNat).running = false ∧ ((s.takeTrap epc f).seqCtx q.toNat).th.loops = [] := by
  have ht : s.takeTrap epc f = (s.stickyInvalid f.cause).seqStop q.toNat f.cause s.iss.pc := by
    simp only [State.takeTrap, stickyInvalid_iss, h]
  rw [ht]
  exact seqStop_idle ..

/-- Settles O45: the route decides between entry of a higher level and the kill of the context. -/
theorem trapEntry : Obligations.TrapEntry := by
  intro s t epc f h x w y saved enters killed
  have hsaved (r : TrapRegs) : saved (r.enter x.th.lvl epc f (x.q0.headD 0)) :=
    ⟨rfl, rfl, rfl, rfl, statWord_fields x.th.lvl f⟩
  have hkill (hr : x.th.route f.cause = none) : killed := takeTrap_killed h hr
  have hy {m : Lvl} (hr : x.th.route f.cause = some m) : y.th =
      { (x.th.raised f.cause).enter m epc f (x.q0.headD 0) with readyAt := s.cycle + 5 + s.iss.cost } :=
    congrArg Tile.th (takeTrap_tile_self h hr)
  have henters {m : Lvl} (hr : x.th.route f.cause = some m) : enters := by
    have hl : (x.th.raised f.cause).lvl.num < m.num := Thread.lvl_lt_of_route hr
    obtain ⟨hs, hps, hloops, hli, hfpctl⟩ := Thread.enter_keeps (x.th.raised f.cause) m epc f (x.q0.headD 0)
    have ht : y = _ := takeTrap_tile_self h hr
    have hlat (k : Nat) : (vget y.th.bank.lat k).val = 0 := ht ▸ Thread.enter_latches _ hl epc f _ k
    have hbank : y.th.bankAt x.th.lvl = x.th.bankAt x.th.lvl := ht ▸ Thread.enter_bankAt _ hl epc f _
    refine ⟨hlat, hbank, ?_, ?_, ?_, ?_, ?_, ?_, ?_, takeTrap_arr h hr, ?_, ?_, ?_, ?_, takeTrap_hbm h hr,
      fun j => takeTrap_tile_ne h hr⟩ <;> rw [ht]
    · exact hs
    · rfl
    · exact hps
    · exact hloops
    · exact hli
    · exact hfpctl
    all_goals rfl
  have htl1 (hr : x.th.route f.cause = some .tl1) :
      y.th.lvl = .tl1 ∧ y.th.bank.pc = x.th.tr1.hbase &&& ~~~3 ∧ saved y.th.tr1 ∧ y.th.tr2 = x.th.tr2 ∧ enters := by
    rw [hy hr]
    exact ⟨rfl, rfl, hsaved x.th.tr1, rfl, henters hr⟩
  have htl2 (hr : x.th.route f.cause = some .tl2) :
      y.th.lvl = .tl2 ∧ y.th.bank.pc = x.th.tr2.hbase &&& ~~~3 ∧ saved y.th.tr2 ∧ y.th.tr1 = x.th.tr1 ∧ enters := by
    rw [hy hr]
    exact ⟨rfl, rfl, hsaved x.th.tr2, rfl, henters hr⟩
  refine ⟨fun hc hl h1 => htl1 ?_, fun hc hl h1 h2 => htl2 ?_, fun hc hl h2 => htl2 ?_, fun hc => hkill ?_,
    fun hl h1 h2 => hkill ?_, fun hl h2 => hkill ?_, fun hl => hkill ?_, fun z q hz => takeTrap_seq hz epc f⟩
  · rw [Thread.route_of_tl0 hc hl, if_pos h1]
  · rw [Thread.route_of_tl0 hc hl, if_neg (not_not_intro h1), if_pos h2]
  · rw [Thread.route_of_tl1 hc hl, if_pos h2]
  · rw [hc, Thread.route_ecc]
  · exact Thread.route_none (fun _ => ⟨h1, h2⟩) (fun e => absurd (hl.symm.trans e) nofun)
  · exact Thread.route_none (fun e => absurd (hl.symm.trans e) nofun) (fun _ => h2)
  · exact Thread.route_none (fun e => absurd (hl.symm.trans e) nofun) (fun e => absurd (hl.symm.trans e) nofun)

end Sys2Proof.Machine
end

section
/-! Fields of slots and templates: a field decodes to an operand exactly when it is that operand's field (R15, R23, R56 to
R61, R75, R78, R80), and the fields of a concatenation are its parts. -/

namespace Sys2Proof

/-! ### Parts of a concatenation -/

section
variable {v w : Nat} (x : BitVec v) (y : BitVec w)

theorem extract_append_low {lo n : Nat} (h : lo + n ≤ w) :
    BitVec.extractLsb' (n := no_index (v + w)) lo n (no_index (x ++ y)) = y.extractLsb' lo n :=
  BitVec.extractLsb'_append_eq_of_add_le h

theorem extract_append_high {lo n : Nat} (h : w ≤ lo) :
    BitVec.extractLsb' (n := no_index (v + w)) lo n (no_index (x ++ y)) = x.extractLsb' (lo - w) n :=
  BitVec.extractLsb'_append_eq_of_le h

theorem getLsbD_append_low {i : Nat} (h : i < w) :
    BitVec.getLsbD (w := no_index (v + w)) (no_index (x ++ y)) i = y.getLsbD i := by
  rw [BitVec.getLsbD_append, if_pos h]

theorem getLsbD_append_high {i : Nat} (h : w ≤ i) :
    BitVec.getLsbD (w := no_index (v + w)) (no_index (x ++ y)) i = x.getLsbD (i - w) := by
  rw [BitVec.getLsbD_append, if_neg (Nat.not_lt.mpr h)]

theorem extract_append_extract {W s t m n : Nat} (z : BitVec W) (h : t = s + n) :
    @HAppend.hAppend _ _ (no_index _) _ (z.extractLsb' t m) (z.extractLsb' s n) = z.extractLsb' s (m + n) :=
  BitVec.extractLsb'_append_extractLsb'_eq_extractLsb' h

end

@[simp] theorem getLsbD_bit (b : Bool) : (bit b).getLsbD 0 = b := by cases b <;> rfl

theorem bit_getLsbD {w : Nat} (x : BitVec w) (i : Nat) : bit (x.getLsbD i) = x.extractLsb' i 1 := by
  rw [BitVec.getLsbD_eq_extractLsb']
  generalize x.extractLsb' i 1 = y
  revert y
  decide

theorem bit_eq_zero {b : Bool} : bit b = 0 ↔ b = false := by cases b <;> decide

/-! ### Operands -/

theorem SOp.dec_eq_some {f : BitVec 7} {a : SOp} : SOp.dec f = some a ↔ a.enc = f := by
  constructor
  · have h : ∀ f : BitVec 7, ∀ a ∈ SOp.dec f, a.enc = f := by decide
    exact h f a
  · rintro rfl
    cases a with
    | reg i => revert i; decide
    | based i => revert i; decide
    | file i => revert i; decide
    | latch k => revert k; decide
    | queue q => revert q; decide
    | imm v => revert v; decide

theorem VOp.dec_eq_some {f : BitVec 7} {a : VOp} : VOp.dec f = some a ↔ a.enc = f := by
  constructor
  · have h : ∀ f : BitVec 7, ∀ a ∈ VOp.dec f, a.enc = f := by decide
    exact h f a
  · rintro rfl
    cases a with
    | row g o inc => revert g o inc; decide
    | file i => revert i; decide
    | latch k => revert k; decide
    | queue q => revert q; decide
    | imm v => revert v; decide

theorem DOp.dec_eq_some {f : BitVec 7} {a : DOp} : DOp.dec f = some a ↔ a.enc = f := by
  constructor
  · have h : ∀ f : BitVec 7, ∀ a ∈ DOp.dec f, a.enc = f := by decide
    exact h f a
  · rintro rfl
    cases a with
    | reg i => revert i; decide
    | based i => revert i; decide

theorem SDst.dec_eq_some {f : BitVec 7} {d : SDst} : SDst.dec f = some d ↔ d.enc = f := by
  constructor
  · have h : ∀ f : BitVec 7, ∀ d ∈ SDst.dec f, d.enc = f := by decide
    exact h f d
  · rintro rfl
    cases d with
    | reg i => revert i; decide
    | based i => revert i; decide
    | file i => revert i; decide

theorem VDst.dec_eq_some {f : BitVec 7} {d : VDst} : VDst.dec f = some d ↔ d.enc = f := by
  constructor
  · have h : ∀ f : BitVec 7, ∀ d ∈ VDst.dec f, d.enc = f := by decide
    exact h f d
  · rintro rfl
    cases d with
    | row g o inc => revert g o inc; decide
    | file i => revert i; decide

@[simp] theorem SOp.dec_enc (a : SOp) : SOp.dec a.enc = some a := SOp.dec_eq_some.mpr rfl

@[simp] theorem VOp.dec_enc (a : VOp) : VOp.dec a.enc = some a := VOp.dec_eq_some.mpr rfl

@[simp] theorem DOp.dec_enc (a : DOp) : DOp.dec a.enc = some a := DOp.dec_eq_some.mpr rfl

@[simp] theorem SDst.dec_enc (d : SDst) : SDst.dec d.enc = some d := SDst.dec_eq_some.mpr rfl

@[simp] theorem VDst.dec_enc (d : VDst) : VDst.dec d.enc = some d := VDst.dec_eq_some.mpr rfl

theorem pDec_eq_some {f : BitVec 7} {p : BitVec 3} : pDec f = some p ↔ p7 p = f := by
  revert f p
  decide

theorem d3Dec_eq_some {f : BitVec 5} {d : BitVec 3} : d3Dec f = some d ↔ x3 d = f := by
  revert f d
  decide

theorem d4Dec_eq_some {f : BitVec 5} {d : BitVec 4} : d4Dec f = some d ↔ x4 d = f := by
  revert f d
  decide

theorem aDec_eq_some {f : BitVec 7} {d : BitVec 4} : aDec f = some d ↔ 0#3 ++ d = f := by
  revert f d
  decide

@[simp] theorem pDec_p7 (p : BitVec 3) : pDec (p7 p) = some p := pDec_eq_some.mpr rfl

@[simp] theorem d3Dec_x3 (d : BitVec 3) : d3Dec (x3 d) = some d := d3Dec_eq_some.mpr rfl

@[simp] theorem d4Dec_x4 (d : BitVec 4) : d4Dec (x4 d) = some d := d4Dec_eq_some.mpr rfl

@[simp] theorem aDec_append (d : BitVec 4) : aDec (0#3 ++ d) = some d := aDec_eq_some.mpr rfl

@[simp] theorem VDn.dec_enc (d : VDn) : VDn.dec d.enc = d := by
  obtain ⟨g, o, inc⟩ := d
  revert g o inc
  decide

@[simp] theorem VDn.enc_dec (f : BitVec 5) : (VDn.dec f).enc = f := by
  revert f
  decide

/-! ### Codes -/

theorem Rm.dec_eq_some {c : BitVec 3} {m : Rm} : Rm.dec c = some m ↔ m.enc = c := by
  cases m <;> revert c <;> decide

theorem NFmt.dec_eq_some {c : BitVec 3} {f : NFmt} : NFmt.dec c = some f ↔ f.enc = c := by
  cases f <;> revert c <;> decide

theorem Scm.dec_eq_some {c : BitVec 2} {m : Scm} : Scm.dec c = some m ↔ m.enc = c := by
  cases m <;> revert c <;> decide

theorem Scope.dec_eq_some {c : BitVec 3} {x : Scope} : Scope.dec c = some x ↔ x.enc = c := by
  cases x <;> revert c <;> decide

theorem Img.dec_eq_some {d : BitVec 5} {w : Img} : Img.dec d = some w ↔ w.enc = d := by
  cases w <;> revert d <;> decide

theorem Cond.dec_eq_some {c : BitVec 3} {x : Cond} : Cond.dec c = some x ↔ x.enc = c := by
  cases x <;> revert c <;> decide

theorem Comb.dec_eq_some {c : BitVec 3} {x : Comb} : Comb.dec c = some x ↔ x.enc = c := by
  cases x <;> revert c <;> decide

@[simp] theorem Rm.dec_enc (m : Rm) : Rm.dec m.enc = some m := Rm.dec_eq_some.mpr rfl

@[simp] theorem NFmt.dec_enc (f : NFmt) : NFmt.dec f.enc = some f := NFmt.dec_eq_some.mpr rfl

@[simp] theorem Scm.dec_enc (m : Scm) : Scm.dec m.enc = some m := Scm.dec_eq_some.mpr rfl

@[simp] theorem Scope.dec_enc (x : Scope) : Scope.dec x.enc = some x := Scope.dec_eq_some.mpr rfl

@[simp] theorem Img.dec_enc (w : Img) : Img.dec w.enc = some w := Img.dec_eq_some.mpr rfl

@[simp] theorem Cond.dec_enc (x : Cond) : Cond.dec x.enc = some x := Cond.dec_eq_some.mpr rfl

@[simp] theorem Comb.dec_enc (x : Comb) : Comb.dec x.enc = some x := Comb.dec_eq_some.mpr rfl

@[simp] theorem Fmt.dec_enc (f : Fmt) : Fmt.dec f.enc = f := by cases f <;> rfl

@[simp] theorem Fmt.enc_dec (c : BitVec 4) : (Fmt.dec c).enc = c := by
  revert c
  decide

@[simp] theorem Size.dec_enc (x : Size) : Size.dec x.enc = x := by cases x <;> rfl

@[simp] theorem Size.enc_dec (c : BitVec 2) : (Size.dec c).enc = c := by
  revert c
  decide

/-! ### Words and templates -/

@[simp] theorem Slot.ofWord_word (x : Slot) : Slot.ofWord x.word = x := by
  simp [Slot.ofWord, Slot.word, extract_append_low, extract_append_high, getLsbD_append_low, getLsbD_append_high,
    -BitVec.getLsbD_eq_getElem]

@[simp] theorem Wide.ofTemplate_template (x : Wide) : Wide.ofTemplate x.template = x := by
  simp [Wide.ofTemplate, Wide.template, extract_append_low, extract_append_high, getLsbD_append_low,
    getLsbD_append_high, -BitVec.getLsbD_eq_getElem]

theorem Wide.template_ofTemplate (t : Template) : (Wide.ofTemplate t).template = t := by
  simp only [Wide.ofTemplate, Wide.template, bit_getLsbD, extract_append_extract]
  exact BitVec.extractLsb'_eq_self

/-! ### The stop bit (R47, R49) -/

theorem getLsbD_or_stop (w : BitVec 32) {i : Nat} (hi : i < 31) : (w ||| 0x80000000).getLsbD i = w.getLsbD i := by
  have hc : (0x80000000 : BitVec 32) = BitVec.twoPow 32 31 := by decide
  rw [hc, BitVec.getLsbD_or, BitVec.getLsbD_twoPow]
  simp [show ¬31 = i by omega]

theorem getLsbD_and_stop (w : BitVec 32) {i : Nat} (hi : i < 31) : (w &&& 0x7FFFFFFF).getLsbD i = w.getLsbD i := by
  have hc : (0x7FFFFFFF : BitVec 32) = (BitVec.allOnes 31).setWidth 32 := by decide
  rw [hc, BitVec.getLsbD_and, BitVec.getLsbD_setWidth, BitVec.getLsbD_allOnes]
  simp [hi, show i < 32 by omega]

section
variable {v w : BitVec 32} (h : ∀ i < 31, v.getLsbD i = w.getLsbD i)
include h

theorem extract_congr {lo n : Nat} (hn : lo + n ≤ 31) : v.extractLsb' lo n = w.extractLsb' lo n := by
  ext i hi
  simpa using h (lo + i) (by omega)

theorem Slot.ofWord_congr : Slot.ofWord v = Slot.ofWord w := by
  simp [Slot.ofWord, extract_congr h, h 19 (by omega), -BitVec.getLsbD_eq_getElem]

/-- The stop bit is the bundle's matter. -/
theorem decodeSlot_congr : decodeSlot v = decodeSlot w := by
  simp only [decodeSlot, Slot.ofWord_congr h, extract_congr h (show 18 + 11 ≤ 31 by omega),
    extract_congr h (show 12 + 6 ≤ 31 by omega), extract_congr h (show 6 + 6 ≤ 31 by omega),
    extract_congr h (show 0 + 6 ≤ 31 by omega), extract_congr h (show 0 + 22 ≤ 31 by omega),
    extract_congr h (show 25 + 4 ≤ 31 by omega), extract_congr h (show 22 + 3 ≤ 31 by omega)]

end

/-- A word with stop bit 0 is its top bit followed by the parts below. -/
theorem Slot.word_ofWord {w : BitVec 32} (h : 0#1 = w.extractLsb' 31 1) : (Slot.ofWord w).word = w := by
  simp only [Slot.ofWord, Slot.word, bit_getLsbD, h, extract_append_extract]
  exact BitVec.extractLsb'_eq_self

end Sys2Proof
end

section
/-! Native slots: decoding and encoding agree (R49 to R52, R56 to R61, R75). The form of each opcode is first written as a
chain of its fields' decoders; both directions follow that chain. -/

namespace Sys2Proof

/-! ### The forms with several fields, field after field -/

namespace Slot

variable (x : Slot)

theorem nss_eq (f : Bool → BitVec 5 → SOp → SOp → Instr) :
    x.nss f = (SOp.dec x.a).bind fun a => (SOp.dec x.b).map fun b => f x.n x.d a b := by
  unfold nss
  cases SOp.dec x.a <;> cases SOp.dec x.b <;> rfl

theorem zss_eq (f : SOp → SOp → Instr) :
    x.zss f = if x.n = false ∧ x.d = 0 then (SOp.dec x.a).bind fun a => (SOp.dec x.b).map fun b => f a b else none := by
  unfold zss
  cases SOp.dec x.a <;> cases SOp.dec x.b <;> rfl

theorem xs_eq (f : BitVec 3 → SOp → Instr) :
    x.xs f = if x.n = false ∧ x.b = 0 then (d3Dec x.d).bind fun d => (SOp.dec x.a).map fun a => f d a else none := by
  unfold xs
  cases d3Dec x.d <;> cases SOp.dec x.a <;> rfl

theorem nxs_eq (f : Bool → BitVec 3 → SOp → Instr) :
    x.nxs f = if x.b = 0 then (d3Dec x.d).bind fun d => (SOp.dec x.a).map fun a => f x.n d a else none := by
  unfold nxs
  cases d3Dec x.d <;> cases SOp.dec x.a <;> rfl

theorem pss_eq (f : Bool → BitVec 3 → SOp → SOp → Instr) :
    x.pss f = (d3Dec x.d).bind fun d => (SOp.dec x.a).bind fun a => (SOp.dec x.b).map fun b => f x.n d a b := by
  unfold pss
  cases d3Dec x.d <;> cases SOp.dec x.a <;> cases SOp.dec x.b <;> rfl

theorem ppp_eq (f : Bool → BitVec 3 → BitVec 3 → BitVec 3 → Instr) :
    x.ppp f = (d3Dec x.d).bind fun d => (pDec x.a).bind fun a => (pDec x.b).map fun b => f x.n d a b := by
  unfold ppp
  cases d3Dec x.d <;> cases pDec x.a <;> cases pDec x.b <;> rfl

theorem pp_eq (f : Bool → BitVec 3 → BitVec 3 → Instr) :
    x.pp f = if x.b = 0 then (d3Dec x.d).bind fun d => (pDec x.a).map fun a => f x.n d a else none := by
  unfold pp
  cases d3Dec x.d <;> cases pDec x.a <;> rfl

theorem fcvt_eq (m : Rm) :
    x.fcvt m = if x.b.getLsbD 3 then none else (SOp.dec x.a).bind fun a =>
      (NFmt.dec (x.b.extractLsb' 4 3)).bind fun t => (NFmt.dec (x.b.extractLsb' 0 3)).map fun f =>
        .fcvt m x.n x.d a t f := by
  unfold fcvt
  cases SOp.dec x.a <;> cases NFmt.dec (x.b.extractLsb' 4 3) <;> cases NFmt.dec (x.b.extractLsb' 0 3) <;> rfl

theorem nvv_eq (f : Bool → VDn → VOp → VOp → Instr) :
    x.nvv f = (VOp.dec x.a).bind fun a => (VOp.dec x.b).map fun b => f x.n (VDn.dec x.d) a b := by
  unfold nvv
  cases VOp.dec x.a <;> cases VOp.dec x.b <;> rfl

theorem nxv_eq (f : Bool → BitVec 3 → VOp → Instr) :
    x.nxv f = if x.b = 0 then (d3Dec x.d).bind fun d => (VOp.dec x.a).map fun a => f x.n d a else none := by
  unfold nxv
  cases d3Dec x.d <;> cases VOp.dec x.a <;> rfl

theorem vss_eq (f : Bool → VDn → SOp → SOp → Instr) :
    x.vss f = (SOp.dec x.a).bind fun a => (SOp.dec x.b).map fun b => f x.n (VDn.dec x.d) a b := by
  unfold vss
  cases SOp.dec x.a <;> cases SOp.dec x.b <;> rfl

theorem vrss_eq (f : VDn → SOp → SOp → Instr) :
    x.vrss f = if x.n then none else
      (SOp.dec x.a).bind fun a => (SOp.dec x.b).map fun b => f (VDn.dec x.d) a b := by
  unfold vrss
  cases SOp.dec x.a <;> cases SOp.dec x.b <;> rfl

theorem vvs_eq (f : Bool → VDn → VOp → SOp → Instr) :
    x.vvs f = (VOp.dec x.a).bind fun a => (SOp.dec x.b).map fun b => f x.n (VDn.dec x.d) a b := by
  unfold vvs
  cases VOp.dec x.a <;> cases SOp.dec x.b <;> rfl

theorem avv_eq (f : BitVec 4 → VOp → VOp → Instr) :
    x.avv f = if x.n then none else
      (d4Dec x.d).bind fun d => (VOp.dec x.a).bind fun a => (VOp.dec x.b).map fun b => f d a b := by
  unfold avv
  cases d4Dec x.d <;> cases VOp.dec x.a <;> cases VOp.dec x.b <;> rfl

theorem img_eq (f : Img → SOp → Instr) :
    x.img f = if x.n = false ∧ x.b = 0 then (Img.dec x.d).bind fun w => (SOp.dec x.a).map fun a => f w a else none := by
  unfold img
  cases Img.dec x.d <;> cases SOp.dec x.a <;> rfl

theorem dload_eq :
    x.dload = if x.n = false ∧ x.d.extractLsb' 1 4 = 0 then
      (SOp.dec x.a).bind fun a => (SOp.dec x.b).map fun b => .dload (x.d.getLsbD 0) a b else none := by
  unfold dload
  cases SOp.dec x.a <;> cases SOp.dec x.b <;> rfl

theorem loopp_eq :
    x.loopp = if x.n then none else (d3Dec x.d).bind fun g => (SOp.dec x.a).map fun a => .loopp g a x.b := by
  unfold loopp
  cases d3Dec x.d <;> cases SOp.dec x.a <;> rfl

end Slot

/-! ### Immediates -/

@[simp] theorem hi7_append_lo7 (i : BitVec 14) : hi7 i ++ lo7 i = i := by
  simp only [hi7, lo7, extract_append_extract]
  exact BitVec.extractLsb'_eq_self

@[simp] theorem hi7_append (a b : BitVec 7) : hi7 (a ++ b) = a := BitVec.extractLsb'_append_eq_left

@[simp] theorem lo7_append (a b : BitVec 7) : lo7 (a ++ b) = b := BitVec.extractLsb'_append_eq_right

theorem op_of_toNat {op : BitVec 6} {k : Nat} (h : op.toNat = k) : op = BitVec.ofNat 6 k := by
  rw [← h, BitVec.ofNat_toNat, BitVec.setWidth_eq]

/-- The major part and the low bits of an opcode (R75). -/
theorem op_split {op : BitVec 6} {k : Nat} (h : op.toNat / 8 = k) : op = BitVec.ofNat 3 k ++ op.extractLsb' 0 3 := by
  subst h
  revert op
  decide

theorem fence_field (b : BitVec 7) : b.extractLsb' 4 3 ++ b.extractLsb' 0 4 = b := by
  revert b
  decide

theorem fcvt_field {b : BitVec 7} (h : b.getLsbD 3 = false) : b.extractLsb' 4 3 ++ 0#1 ++ b.extractLsb' 0 3 = b := by
  revert b
  decide

theorem brp_field {d : BitVec 5} (h : d.getLsbD 4 = false) : 0#1 ++ bit (d.getLsbD 3) ++ d.extractLsb' 0 3 = d := by
  revert d
  decide

theorem dload_field {d : BitVec 5} (h : d.extractLsb' 1 4 = 0) : x1 (d.getLsbD 0) = d := by
  revert d
  decide

theorem dsel_field {b : BitVec 7} (h : b.extractLsb' 1 6 = 0) : 0#6 ++ bit (b.getLsbD 0) = b := by
  revert b
  decide

/-! ### A decoded slot has the word it was read from -/

/-- Whatever the answer is, it has the fields of x. -/
def Slot.Reads (x : Slot) (r : Option Instr) : Prop := ∀ i, r = some i → i.slot = some x

section
variable {α : Type} {x : Slot}

theorem reads_none : x.Reads none := fun _ h => by cases h

theorem reads_some {i : Instr} : x.Reads (some i) ↔ i.slot = some x := by simp [Slot.Reads]

theorem reads_bind {o : Option α} {f : α → Option Instr} : x.Reads (o.bind f) ↔ ∀ a, o = some a → x.Reads (f a) := by
  cases o <;> simp [Slot.Reads]

theorem reads_map {o : Option α} {f : α → Instr} : x.Reads (o.map f) ↔ ∀ a, o = some a → (f a).slot = some x := by
  cases o <;> simp [Slot.Reads]

theorem reads_ite {c : Prop} [Decidable c] {r q : Option Instr} :
    x.Reads (if c then r else q) ↔ (c → x.Reads r) ∧ (¬c → x.Reads q) := by
  by_cases h : c <;> simp [h]

end

section
variable {n : Bool} {op : BitVec 6} {d : BitVec 5} {a b : BitVec 7}

theorem reads_decSi : Slot.Reads ⟨0, 0, op, n, d, a, b⟩ (Slot.decSi ⟨0, 0, op, n, d, a, b⟩) := by
  unfold Slot.decSi
  split
  case h_26 =>
    rw [reads_ite]
    refine ⟨fun h => ?_, fun _ => reads_none⟩
    simp +contextual [Slot.nss_eq, reads_bind, reads_map, SOp.dec_eq_some, Instr.slot.eq_def, ← op_split h]
  all_goals
    rename_i h
    obtain rfl := op_of_toNat h
    simp +contextual [Slot.nss_eq, Slot.nsi, Slot.ns0, Slot.zs, Slot.xs_eq, Slot.nxs_eq, Slot.i14, reads_none,
      reads_some, reads_bind, reads_map, reads_ite, SOp.dec_eq_some, d3Dec_eq_some, Instr.slot.eq_def]

theorem reads_decSf : Slot.Reads ⟨0, 1, op, n, d, a, b⟩ (Slot.decSf ⟨0, 1, op, n, d, a, b⟩) := by
  unfold Slot.decSf
  split
  case h_11 =>
    split
    case h_6 => exact reads_none
    all_goals
      rename_i h hm
      simp only [Rm.dec_eq_some] at hm
      simp +contextual [-BitVec.getLsbD_eq_getElem, Slot.nss_eq, Slot.fcvt_eq, fcvt_field, reads_ite, reads_none,
        reads_bind, reads_map, SOp.dec_eq_some, NFmt.dec_eq_some, Instr.slot.eq_def, hm, ← op_split h]
  all_goals
    rename_i h
    obtain rfl := op_of_toNat h
    simp +contextual [Slot.nss_eq, Slot.pss_eq, Slot.nxs_eq, Slot.ppp_eq, Slot.pp_eq, reads_none, reads_bind, reads_map,
      reads_ite, SOp.dec_eq_some, d3Dec_eq_some, pDec_eq_some, Instr.slot.eq_def]

theorem reads_decVr : Slot.Reads ⟨0, 2, op, n, d, a, b⟩ (Slot.decVr ⟨0, 2, op, n, d, a, b⟩) := by
  unfold Slot.decVr
  split
  case h_34 => exact reads_none
  all_goals
    rename_i h
    obtain rfl := op_of_toNat h
    simp +contextual [Slot.nvv_eq, Slot.nv0, Slot.vs0, Slot.nxv_eq, Slot.vsi, Slot.vrsi, Slot.vss_eq, Slot.vrss_eq,
      Slot.vvs_eq, reads_none, reads_bind, reads_map, reads_ite, SOp.dec_eq_some, VOp.dec_eq_some, d3Dec_eq_some,
      Instr.slot.eq_def]

theorem reads_decMx : Slot.Reads ⟨0, 3, op, n, d, a, b⟩ (Slot.decMx ⟨0, 3, op, n, d, a, b⟩) := by
  unfold Slot.decMx
  split
  case h_21 =>
    split
    case h_3 => exact reads_none
    all_goals
      rename_i h hm
      simp only [Rm.dec_eq_some] at hm
      simp +contextual [Slot.ad, reads_ite, reads_none, reads_map, d4Dec_eq_some, Instr.slot.eq_def, hm, ← op_split h]
  all_goals
    rename_i h
    obtain rfl := op_of_toNat h
    simp +contextual [Slot.zero, Slot.avv_eq, Slot.zs, Slot.ad, Slot.img_eq, reads_none, reads_some, reads_bind,
      reads_map, reads_ite, SOp.dec_eq_some, VOp.dec_eq_some, d4Dec_eq_some, Img.dec_eq_some, Instr.slot.eq_def]

theorem reads_decMv : Slot.Reads ⟨0, 4, op, n, d, a, b⟩ (Slot.decMv ⟨0, 4, op, n, d, a, b⟩) := by
  unfold Slot.decMv
  split
  case h_25 => exact reads_none
  all_goals
    rename_i h
    obtain rfl := op_of_toNat h
    simp +contextual [Slot.nsi, Slot.rsi, Slot.nss_eq, Slot.fence, fence_field, Slot.zero, reads_none, reads_some,
      reads_bind, reads_map, reads_ite, SOp.dec_eq_some, Scope.dec_eq_some, Instr.slot.eq_def]

theorem reads_decXf : Slot.Reads ⟨0, 5, op, n, d, a, b⟩ (Slot.decXf ⟨0, 5, op, n, d, a, b⟩) := by
  unfold Slot.decXf
  split
  case h_30 => exact reads_none
  all_goals
    rename_i h
    obtain rfl := op_of_toNat h
    simp +contextual [-BitVec.getLsbD_eq_getElem, Slot.rd, Slot.nd, Slot.ns0, Slot.zs, Slot.zss_eq, Slot.dload_eq,
      dload_field, Slot.zd, reads_none, reads_some, reads_bind, reads_map, reads_ite, SOp.dec_eq_some, DOp.dec_eq_some,
      Instr.slot.eq_def]

theorem reads_decCt : Slot.Reads ⟨0, 6, op, n, d, a, b⟩ (Slot.decCt ⟨0, 6, op, n, d, a, b⟩) := by
  unfold Slot.decCt
  split
  case h_22 => exact reads_none
  all_goals
    rename_i h
    obtain rfl := op_of_toNat h
    simp +contextual [-BitVec.getLsbD_eq_getElem, extract_append_low, extract_append_high, BitVec.extractLsb'_eq_self,
      brp_field, dsel_field, Slot.zero, Slot.br, Slot.brp, Slot.zs, Slot.loop, Slot.loopp_eq, Slot.lbrk, Slot.step,
      Slot.trap, Slot.sysw, Slot.nd, Slot.dsel, Slot.rd, Slot.rs, Slot.i14, reads_none, reads_some, reads_bind,
      reads_map, reads_ite, SOp.dec_eq_some, DOp.dec_eq_some, d3Dec_eq_some, pDec_eq_some, Instr.slot.eq_def]

theorem reads_decSc : Slot.Reads ⟨0, 7, op, n, d, a, b⟩ (Slot.decSc ⟨0, 7, op, n, d, a, b⟩) := by
  unfold Slot.decSc
  split
  case h_4 => exact reads_none
  all_goals
    rename_i h
    obtain rfl := op_of_toNat h
    simp +contextual [Slot.zss_eq, Slot.xs_eq, reads_none, reads_bind, reads_map, reads_ite, SOp.dec_eq_some,
      d3Dec_eq_some, Instr.slot.eq_def]

end

theorem cases3 (p : BitVec 3) : p = 0 ∨ p = 1 ∨ p = 2 ∨ p = 3 ∨ p = 4 ∨ p = 5 ∨ p = 6 ∨ p = 7 := by
  revert p
  decide

/-- A slot below its stop bit that decodes, decodes to the instruction of its fields. -/
theorem Slot.slot_of_decNative {x : Slot} {i : Instr} (hk : x.k = 0) (h : x.decNative = some i) : i.slot = some x := by
  obtain ⟨k, u, op, n, d, a, b⟩ := x
  obtain rfl : k = 0 := hk
  obtain rfl | rfl | rfl | rfl | rfl | rfl | rfl | rfl := cases3 u
  · exact reads_decSi i h
  · exact reads_decSf i h
  · exact reads_decVr i h
  · exact reads_decMx i h
  · exact reads_decMv i h
  · exact reads_decXf i h
  · exact reads_decCt i h
  · exact reads_decSc i h

/-! ### The slot of an instruction decodes to it -/

theorem Slot.k_of_slot {i : Instr} {x : Slot} (h : i.slot = some x) : x.k = 0 := by
  cases i <;> cases h <;> rfl

theorem decNative_of_slot {i : Instr} {x : Slot} (h : i.slot = some x) : x.decNative = some i := by
  cases i with
  | sel p =>
    cases h
    obtain rfl | rfl | rfl | rfl | rfl | rfl | rfl | rfl := cases3 p <;> simp [Slot.decNative, Slot.decSi, Slot.nss_eq]
  | add | sub | addi | lui | mul | mulh | div | divu | rem | and | or | xor | shl | shr | sra | min | max | slt |
    sltu | seq | clz | popc | movsb | movc | movo =>
    cases h
    simp [Slot.decNative, Slot.decSi, Slot.nss_eq, Slot.nsi, Slot.ns0, Slot.zs, Slot.xs_eq, Slot.nxs_eq, Slot.i14]
  | fadd m | fsub m | fmul m | ffma m | fcvt m =>
    cases h
    cases m <;>
      simp [-BitVec.getLsbD_eq_getElem, Slot.decNative, Slot.decSf, Rm.enc, Rm.dec, Slot.nss_eq, Slot.fcvt_eq,
        extract_append_low, extract_append_high, getLsbD_append_low, getLsbD_append_high, BitVec.extractLsb'_eq_self]
  | fmin | fmax | fcmpEq | fcmpLt | fcmpLe | fcmpUn | pset | pand | por | pnot =>
    cases h
    simp [Slot.decNative, Slot.decSf, Slot.nss_eq, Slot.pss_eq, Slot.nxs_eq, Slot.ppp_eq, Slot.pp_eq]
  | vadd | vsub | vmul | vfma | vmax | vmin | vabs | vneg | vexp2 | vlog2 | vrcp | vrsq | vcmpEq | vcmpLt | vcmpLe |
    vsel | vand | vor | vxor | vshl | vshr | vrsum | vrmax | vbcast | vperm | vmovo | vld | vst | vlds | vsts |
    vmova | vmovt | cselk =>
    cases h
    simp [Slot.decNative, Slot.decVr, Slot.nvv_eq, Slot.nv0, Slot.vs0, Slot.nxv_eq, Slot.vsi, Slot.vrsi, Slot.vss_eq,
      Slot.vrss_eq, Slot.vvs_eq]
  | cdrain m | cdrainAdd m =>
    cases h
    cases m <;> simp [Slot.decNative, Slot.decMx, Rm.enc, Rm.dec, Slot.ad]
  | mlease | mrel | mmaBf16 | mmaFp16 | mmaE4m3 | mmaE5m2 | mmcE2m1Cb0 | mmcE2m1Cb1 | mmcE3m0Cb0 | mmcE3m0Cb1 |
    mmcInt4Cb0 | mmcInt4Cb1 | cfoldCb0 | cfoldCb1 | cmergeCb0 | cmergeCb1 | cclr | aclr | csave | cload =>
    cases h
    simp [Slot.decNative, Slot.decMx, Slot.zero, Slot.avv_eq, Slot.zs, Slot.ad, Slot.img_eq]
  | ldB | ldBu | ldH | ldHu | ldW | ldWu | ldD | stB | stH | stW | stD | aaddW | aaddD | aminW | aminD | amaxW |
    amaxD | axchgW | axchgD | acasW | acasD | afaddW | fence | vjoin =>
    cases h
    simp [Slot.decNative, Slot.decMv, Slot.nsi, Slot.rsi, Slot.nss_eq, Slot.fence, Slot.zero, extract_append_low,
      extract_append_high, BitVec.extractLsb'_eq_self]
  | cpy | cpyr | halloc | hwaitL | hwaitR | htest | hfree | wopen | wdrop | wget | wstr | wstrn | wacc | wgac | wcas |
    wfen | wpost | wstart | wcomp | wwait | wlockSh | wlockEx | wunlk | wflsh | dload | ctset | ctready | ctwait |
    ctabort =>
    cases h
    simp [-BitVec.getLsbD_eq_getElem, Slot.decNative, Slot.decXf, Slot.rd, Slot.nd, Slot.ns0, Slot.zs, Slot.zss_eq,
      Slot.dload_eq, Slot.zd, x1, extract_append_high, getLsbD_append_low]
  | nop | br | brp | jal | jr | loop | loopp | lbrk | step | end_ | trap | tret | sysr | sysw | evpop | sleep | dsel |
    ffence | launch | waitl | lstat =>
    cases h
    simp [-BitVec.getLsbD_eq_getElem, Slot.decNative, Slot.decCt, Slot.zero, Slot.br, Slot.brp, Slot.zs, Slot.loop,
      Slot.loopp_eq, Slot.lbrk, Slot.step, Slot.trap, Slot.sysw, Slot.nd, Slot.dsel, Slot.rd, Slot.rs, Slot.i14,
      extract_append_low, extract_append_high, extract_append_extract, getLsbD_append_low, getLsbD_append_high,
      BitVec.extractLsb'_eq_self]
  | sldA | sldB | lyset =>
    cases h
    simp [Slot.decNative, Slot.decSc, Slot.zss_eq, Slot.xs_eq]
  | _ => cases h

/-! ### Words -/

theorem encode_of_slot {i : Instr} {x : Slot} (h : i.slot = some x) : encode i = some x.word := by
  unfold encode
  split
  next => cases h
  next => cases h
  next => rw [h, Option.map_some]

theorem decodeSlot_of_slot {i : Instr} {x : Slot} (hwf : i.wf = true) (h : i.slot = some x) :
    decodeSlot x.word = .ok i := by
  simp [decodeSlot, Slot.k_of_slot h, decNative_of_slot h, hwf]

theorem decodeSlot_hdr (pop : BitVec 4) (stg : BitVec 3) :
    decodeSlot (0#1 ++ 2#2 ++ pop ++ stg ++ 0#22) = .ok (.hdr pop stg) := by
  simp [decodeSlot, Slot.ofWord, extract_append_low, extract_append_high, BitVec.extractLsb'_eq_self]

theorem decodeSlot_dictionarySlot (e : BitVec 11) (h j k : BitVec 6) :
    decodeSlot (0#1 ++ 1#2 ++ e ++ h ++ j ++ k) = .ok (.dictionarySlot e h j k) := by
  simp [decodeSlot, Slot.ofWord, extract_append_low, extract_append_high, BitVec.extractLsb'_eq_self]

theorem decodeSlot_encode {i : Instr} {w : BitVec 32} (hwf : i.wf = true) (h : encode i = some w) :
    decodeSlot w = .ok i := by
  unfold encode at h
  split at h
  next pop stg =>
    obtain rfl := Option.some.inj h
    exact decodeSlot_hdr pop stg
  next e h' j k =>
    obtain rfl := Option.some.inj h
    exact decodeSlot_dictionarySlot e h' j k
  next =>
    obtain ⟨x, hx, rfl⟩ := Option.map_eq_some_iff.mp h
    exact decodeSlot_of_slot hwf hx

theorem decodeSlot_or_stop (w : BitVec 32) : decodeSlot (w ||| 0x80000000) = decodeSlot w :=
  decodeSlot_congr fun _ => getLsbD_or_stop w

theorem decodeSlot_and_stop (w : BitVec 32) : decodeSlot (w &&& 0x7FFFFFFF) = decodeSlot w :=
  decodeSlot_congr fun _ => getLsbD_and_stop w

/-- Settles O56: the word's fields are the slot's, and the slot of an instruction decodes to it. -/
theorem slotRoundTrip : Obligations.SlotRoundTrip := fun i w hwf h => by
  rw [decodeSlot_or_stop]
  exact ⟨decodeSlot_encode hwf h, decodeSlot_encode hwf h⟩

/-- A word with stop bit 0 is the word of the instruction it decodes to. -/
theorem encode_of_decodeSlot {w : BitVec 32} {i : Instr} (hs : 0#1 = w.extractLsb' 31 1) (h : decodeSlot w = .ok i) :
    i.wf = true ∧ encode i = some w := by
  unfold decodeSlot at h
  extract_lets x at h
  split at h
  next hk =>
    have hk : x.k = 0 := BitVec.eq_of_toNat_eq hk
    split at h
    next j hj =>
      split at h
      next hwf =>
        cases h
        rw [encode_of_slot (Slot.slot_of_decNative hk hj), Slot.word_ofWord hs]
        exact ⟨hwf, rfl⟩
      next => cases h
    next => split at h <;> cases h
  next hk =>
    cases h
    have hk : w.extractLsb' 29 2 = 1#2 := BitVec.eq_of_toNat_eq hk
    simp only [encode, hs, ← hk, extract_append_extract]
    exact ⟨rfl, congrArg some BitVec.extractLsb'_eq_self⟩
  next hk =>
    split at h
    next h0 =>
      cases h
      have hk : w.extractLsb' 29 2 = 2#2 := BitVec.eq_of_toNat_eq hk
      have h0 : w.extractLsb' 0 22 = 0#22 := h0
      simp only [encode, hs, ← hk, ← h0, extract_append_extract]
      exact ⟨rfl, congrArg some BitVec.extractLsb'_eq_self⟩
    next => cases h
  next => cases h

end Sys2Proof
end

section
/-! Templates: decoding and encoding agree (R76 to R80). -/

namespace Sys2Proof

/-! ### The fields of SPEC -/

theorem extract_append_zero {W n m : Nat} {z : BitVec W} (h : z.extractLsb' 0 n = 0#n) :
    @HAppend.hAppend _ _ (no_index _) _ (z.extractLsb' n m) (0#n) = z.extractLsb' 0 (m + n) := by
  rw [← h]
  exact BitVec.extractLsb'_append_extractLsb'_eq_extractLsb' (Nat.zero_add n).symm

theorem extract_one {W i : Nat} {z : BitVec W} {b : Bool} (h : z.getLsbD i = b) : bit b = z.extractLsb' i 1 := by
  rw [← h, bit_getLsbD]

section
variable {z : BitVec 79}

theorem stx_spec (h0 : z.extractLsb' 0 44 = 0#44) (h : z.getLsbD 76 = false) :
    z.extractLsb' 77 2 ++ 0#1 ++ z.extractLsb' 44 32 ++ 0#44 = z := by
  have hb : 0#1 = z.extractLsb' 76 1 := extract_one h
  rw [hb, ← h0]
  simp only [extract_append_extract]
  exact BitVec.extractLsb'_eq_self

theorem cpyW_spec_conv (h0 : z.extractLsb' 0 75 = 0#75) (h : z.getLsbD 75 = true) :
    z.extractLsb' 76 3 ++ 1#1 ++ 0#75 = z := by
  have hb : 1#1 = z.extractLsb' 75 1 := extract_one h
  rw [hb, ← h0]
  simp only [extract_append_extract]
  exact BitVec.extractLsb'_eq_self

theorem cpyW_spec_plain (h0 : z.extractLsb' 0 75 = 0#75) (h : z.getLsbD 75 = false) :
    z.extractLsb' 76 3 ++ 0#76 = z := by
  have hb : 0#1 = z.extractLsb' 75 1 := extract_one h
  have h76 : z.extractLsb' 0 76 = 0#76 :=
    calc z.extractLsb' 0 76 = z.extractLsb' 75 1 ++ z.extractLsb' 0 75 :=
          (extract_append_extract (s := 0) (t := 75) (m := 1) (n := 75) z rfl).symm
      _ = 0#76 := by rw [h0, ← hb]; rfl
  rw [← h76]
  simp only [extract_append_extract]
  exact BitVec.extractLsb'_eq_self

end

/-! ### The template of an instruction decodes to it -/

theorem dec_of_wide {i : Instr} {x : Wide} (h : i.wide = some x) : x.dec = some i := by
  cases i with
  | li | addiW | andiW | oriW | xoriW | muliW | sltiW | seqiW | fcvtW | fcmpW | vaddW | vsubW | vmulW | vfmaW | vmaxW | vminW
  | vcvt | vrsumW | vrmaxW | cselkW | mmaW | mmcW | cfoldW | cdrainW | ldx | stx | cpyrW | waccW | wgacW | brW | jalW | brpW
  | loopW | looppW | sldW | lysetW =>
    cases h
    simp [-BitVec.getLsbD_eq_getElem, Wide.dec, Wide.dsImm, Wide.elemSat, Wide.elem, Wide.accum, Wide.only, Wide.sp,
      extract_append_low, extract_append_high, getLsbD_append_low, getLsbD_append_high, BitVec.extractLsb'_eq_self]
  | cpyW d a ly conv =>
    have h0 : Rm.dec 0#3 = some .rne := rfl
    cases conv <;> cases h <;>
      simp [-BitVec.getLsbD_eq_getElem, Wide.dec, h0, Wide.only, Wide.sp, extract_append_low, extract_append_high,
        getLsbD_append_low, getLsbD_append_high, BitVec.extractLsb'_eq_self]
  | _ => cases h


/-! ### A decoded template is the one it was read from -/

theorem wop_of_toNat {w : BitVec 10} {k : Nat} (h : w.toNat = k) : w = BitVec.ofNat 10 k := by
  rw [← h, BitVec.ofNat_toNat, BitVec.setWidth_eq]

theorem wide_of_dec {x : Wide} {i : Instr} (hm : x.hmap = 0) (h : x.dec = some i) : i.wide = some x := by
  obtain ⟨wop, hmap, f0, f1, f2, n, rm, fa, fd, spec⟩ := x
  obtain rfl : hmap = 0 := hm
  unfold Wide.dec Wide.dsImm Wide.elemSat Wide.elem Wide.accum Option.map at h
  split at h
  case h_38 => cases h
  all_goals
    rename_i hop
    obtain rfl := wop_of_toNat hop
    repeat' split at h
    all_goals cases h
  all_goals
    simp_all [-BitVec.getLsbD_eq_getElem, Wide.only, Wide.sp, Instr.wide.eq_def, SOp.dec_eq_some, VOp.dec_eq_some,
      DOp.dec_eq_some, SDst.dec_eq_some, VDst.dec_eq_some, pDec_eq_some, aDec_eq_some, Rm.dec_eq_some, Scm.dec_eq_some,
      Cond.dec_eq_some, Comb.dec_eq_some, extract_append_zero, extract_append_extract, bit_getLsbD, stx_spec,
      cpyW_spec_conv, cpyW_spec_plain]

/-! ### Templates -/

theorem hmap_of_wide {i : Instr} {x : Wide} (h : i.wide = some x) : x.hmap = 0 := by
  cases i with
  | cpyW d a ly conv => cases conv <;> cases h <;> rfl
  | _ => cases h <;> rfl

theorem wop_of_wide {i : Instr} {x : Wide} (h : i.wide = some x) : x.wop ≠ 0x3FF := by
  intro hw
  have hd := dec_of_wide h
  rw [Wide.dec, hw] at hd
  cases hd

/-- Settles O57: the template's fields are the instruction's, and its fields decode to it. -/
theorem templateRoundTrip : Obligations.TemplateRoundTrip := by
  intro i t hwf h
  obtain ⟨x, hx, rfl⟩ := Option.map_eq_some_iff.mp h
  rw [decodeTemplate, Wide.ofTemplate_template, decodeWide, if_neg (wop_of_wide hx), if_neg (not_not.mpr (hmap_of_wide hx)),
    dec_of_wide hx]
  exact if_pos hwf

theorem encodeTemplate_of_decodeTemplate {t : Template} {i : Instr} (h : decodeTemplate t = .ok i) :
    i.wf = true ∧ encodeTemplate i = some t := by
  unfold decodeTemplate decodeWide at h
  split at h
  next => cases h
  next =>
    split at h
    next => cases h
    next hm =>
      split at h
      next j hj =>
        split at h
        next hwf =>
          cases h
          rw [encodeTemplate, wide_of_dec (not_not.mp hm) hj, Option.map_some, Wide.template_ofTemplate]
          exact ⟨hwf, rfl⟩
        next => cases h
      next => split at h <;> cases h

/-- Settles O58: a decoded word, its stop bit cleared, and a decoded template are those of the instruction. -/
theorem decodedWordsAreUnique : Obligations.DecodedWordsAreUnique := by
  refine ⟨fun w i h => ?_, fun w hk => ?_, fun t i => encodeTemplate_of_decodeTemplate⟩
  · rw [← decodeSlot_and_stop] at h
    refine encode_of_decodeSlot ?_ h
    rw [BitVec.extractLsb'_and]
    exact BitVec.and_zero.symm
  · simp [decodeSlot, Slot.ofWord, hk]

end Sys2Proof
end

section
/-! Words that the spec writes out (R49, R64, R75, R77, R80). -/

namespace Sys2Proof

/-- Settles O55: each word is evaluated by the decoder, the template by its expansion. -/
theorem writtenWords : Obligations.WrittenWords := by
  unfold Obligations.WrittenWords
  refine ⟨?_, ?_⟩
  · decide
  · decide

end Sys2Proof
end

section
/-! A slot alone in its bundle: its checks before its own, part by part (R63, R64, R72, R392, R398). -/

namespace Sys2Proof.Machine

open Sys2Proof.Claims

section
variable {s : State} {i : Instr}

theorem slotOk_of (hi : if s.onTile then i.refusedOnTile = false else i.refusedOnSeq = false)
    (he : ∀ e, Instr.loopEnd s.iss.pc i = some e → s.iss.nextPc ≤ e) : s.slotOk i = true := by
  have hr : (if s.onTile then !i.refusedOnTile else !i.refusedOnSeq) = true := by
    split at hi <;> simp [*]
  rw [State.slotOk, hr]
  cases h : Instr.loopEnd s.iss.pc i with
  | none => rfl
  | some e => simpa using he e h

theorem maskOf_one {p : Instr → Bool} (h : p i = false) : maskOf p [i] = 0 := by simp [maskOf, h]

theorem levelCheck_one (h : s.levelRefuses i = false) : s.levelCheck [i] = .go := by
  rw [State.levelCheck, maskOf_one h]
  rfl

theorem queueMask_one {q : BitVec 2} (hr : i.queues.contains q = true → 0 < s.cur.queueLen q)
    (hp : (Instr.pops i).count q ≤ s.cur.queueLen q) : s.queueMask [i] q = 0 := by
  have hn : s.cur.queueLen q = 0 → maskOf (fun i => i.queues.contains q) [i] = 0 := fun h0 =>
    maskOf_one (Bool.eq_false_iff.mpr fun hc => absurd h0 (hr hc).ne')
  have hc : ¬([i].flatMap Instr.pops).count q > s.cur.queueLen q := by
    rw [List.flatMap_singleton]
    omega
  simp only [State.queueMask, if_neg hc]
  split
  · rw [hn ‹_›]; rfl
  · rfl

theorem queueCheck_go {is : List Instr} (h : ∀ q, s.queueMask is q = 0) : s.queueCheck is = .go := by
  simp [State.queueCheck, h]

theorem rowCheck_go (h : ∀ k ∈ s.rowsRead i, s.trowBad s.curId k = false) : s.rowCheck i = .go :=
  checkThat_true _ (by simpa using h)

end

/-- Settles O1: each check before the slot's own passes. -/
theorem slotsAreReady : Obligations.SlotsAreReady := by
  intro i s hp hi he hl hr hq hd
  have hok : s.aloneBundle.slotOk i = true := slotOk_of hi he
  have hqs : s.aloneBundle.queueCheck [i] = .go := queueCheck_go fun q => queueMask_one (hr q) (hq q)
  refine ⟨hp, ?_⟩
  rw [State.soleCheck, checkThat_true _ hok, levelCheck_one hl, hqs, rowCheck_go hd]
  rfl

end Sys2Proof.Machine
end

section
/-! Delayed writes: when a result is queued and what its landing does (R10, R66 to R68). -/

namespace Sys2Proof.Machine

/-! ### Scalars and banks of a thread -/

/-- s28 to s31 after a write are those of the level's bank. -/
theorem Thread.getS_putS (t : Thread) (i j : BitVec 5) (v : Word) : (t.putS i v).getS j = if j = i then v else t.getS j := by
  have hne : j ≠ i → j.toNat ≠ i.toNat := fun h e => h (BitVec.eq_of_toNat_eq e)
  unfold Thread.putS Thread.getS
  by_cases hi : i.toNat < 28
  · rw [if_pos hi]
    split_ifs with hj hji hji
    · subst hji; simp [hi]
    · simp [hne hji]
    · subst hji; exact absurd hi hj
    · rfl
  · have h32 := i.isLt
    rw [if_neg hi]
    split_ifs with hj hji hji
    · subst hji; exact absurd hj hi
    · simp
    · subst hji; simp [show j.toNat - 28 < 4 by omega]
    · have : j.toNat - 28 ≠ i.toNat - 28 := by have := hne hji; omega
      simp [this]

@[simp] theorem Thread.putS_bank_lat (t : Thread) (i : BitVec 5) (v : Word) : (t.putS i v).bank.lat = t.bank.lat := by
  unfold Thread.putS
  split
  · rfl
  · simp

@[simp] theorem Thread.putS_bank_pend (t : Thread) (i : BitVec 5) (v : Word) : (t.putS i v).bank.pend = t.bank.pend := by
  unfold Thread.putS
  split
  · rfl
  · simp

@[simp] theorem Thread.putS_lvl (t : Thread) (i : BitVec 5) (v : Word) : (t.putS i v).lvl = t.lvl := by
  unfold Thread.putS
  split
  · rfl
  · simp

@[simp] theorem Thread.getS_modBank_pend (t : Thread) (f : Bank → List Pend) (i : BitVec 5) :
    (t.modBank fun b => { b with pend := f b }).getS i = t.getS i := by
  simp [Thread.getS]

theorem Thread.modBank_congr {t : Thread} {f g : Bank → Bank} (h : f t.bank = g t.bank) : t.modBank f = t.modBank g := by
  obtain ⟨lvl⟩ := t
  cases lvl <;> simp_all [Thread.modBank, Thread.bank]

theorem Thread.modBank_id (t : Thread) : (t.modBank fun b => b) = t := by
  obtain ⟨lvl⟩ := t
  cases lvl <;> rfl

theorem State.modThreadOf_modThreadOf (s : State) (a : Agent) (f g : Thread → Thread) :
    (s.modThreadOf a f).modThreadOf a g = s.modThreadOf a fun t => g (f t) := by
  cases a <;> simp [State.modThreadOf, State.modTile, State.setTile, State.tile, State.modSeq, State.seqCtx]

/-! ### Landing at an agent whose array does not run with it -/

theorem arrayOf_modThreadOf (s : State) (a : Agent) {f : Thread → Thread} (hf : ∀ t, (f t).lvl = t.lvl) :
    (s.modThreadOf a f).arrayOf a = s.arrayOf a := by
  cases a with
  | tile t =>
    have hl : ((s.modThreadOf (.tile t) f).tile t.toNat).th.lvl = (s.tile t.toNat).th.lvl := by
      simp [State.modThreadOf, hf]
    simp only [State.arrayOf, hl]
    rfl
  | seq q => rfl

/-- The delayed writes of the current level that are due and of a kind. -/
def Bank.due (b : Bank) (kind : Act → Bool) : List Pend := b.pend.filter fun p => kind p.act && decide (p.due ≤ b.n)

/-- The current level without the delayed writes that are due and of a kind. -/
def Thread.undue (t : Thread) (kind : Act → Bool) (n : Nat) : Thread :=
  t.modBank fun b => { b with pend := b.pend.filter fun p => !(kind p.act && decide (p.due ≤ n)) }

theorem landKind_eq (s : State) (a : Agent) (kind : Act → Bool) :
    s.landKind a kind = (landOrder ((s.threadOf a).bank.due kind)).foldl
      (fun u p => u.applyAct a (s.threadOf a).bank.n p.act)
      (s.modThreadOf a fun t => t.undue kind (s.threadOf a).bank.n) := rfl

theorem Thread.undue_of_due_nil {t : Thread} {kind : Act → Bool} (h : t.bank.due kind = []) :
    t.undue kind t.bank.n = t := by
  have hk : t.bank.pend.filter (fun p => !(kind p.act && decide (p.due ≤ t.bank.n))) = t.bank.pend :=
    List.filter_eq_self.mpr fun p hp => by
      rw [Bool.not_eq_true', Bool.eq_false_iff]
      exact List.filter_eq_nil_iff.mp h p hp
  exact (Thread.modBank_congr (by rw [hk])).trans t.modBank_id

theorem landKind_of_due_nil {s : State} {a : Agent} {kind : Act → Bool} (h : (s.threadOf a).bank.due kind = []) :
    s.landKind a kind = s.modThreadOf a fun t => t.undue kind (s.threadOf a).bank.n := by
  rw [landKind_eq, h]
  rfl

section
variable {s : State} {a : Agent} (h : s.arrayOf a = none)
include h

theorem land_of_no_array (hk : (s.landKind a fun x => !x.isAccRow).arrayOf a = none) :
    s.land a = (s.landKind a fun x => !x.isAccRow).landKind a Act.isAccRow := by
  simp only [State.land, h, State.arrayHeld, hk]
  rfl

/-- Where the writes that land change the thread alone, no accumulator row among them. -/
theorem threadOf_land {f : Thread → Thread} (hf : (s.landKind a fun x => !x.isAccRow) = s.modThreadOf a f)
    (hl : ∀ t, (f t).lvl = t.lvl) (hd : (f (s.threadOf a)).bank.due Act.isAccRow = []) :
    (s.land a).threadOf a = f (s.threadOf a) := by
  have hu : ((s.modThreadOf a f).threadOf a).bank.due Act.isAccRow = [] := by
    rwa [State.threadOf_modThreadOf_self]
  rw [land_of_no_array h (by rw [hf, arrayOf_modThreadOf s a hl, h]), hf, landKind_of_due_nil hu,
    State.threadOf_modThreadOf_self, State.threadOf_modThreadOf_self, Thread.undue_of_due_nil hd]

theorem threadOf_land_none_due (hn : ∀ p ∈ (s.threadOf a).bank.pend, (s.threadOf a).bank.n < p.due) :
    (s.land a).threadOf a = s.threadOf a := by
  have hdue (kind : Act → Bool) : (s.threadOf a).bank.due kind = [] :=
    List.filter_eq_nil_iff.mpr fun p hp => by simp [hn p hp]
  have hu (kind : Act → Bool) : (s.threadOf a).undue kind (s.threadOf a).bank.n = s.threadOf a :=
    Thread.undue_of_due_nil (hdue kind)
  rw [threadOf_land h (landKind_of_due_nil (hdue _)) (fun t => Thread.modBank_lvl ..) (by rw [hu]; exact hdue _), hu]

end

/-! ### Writes of latches and scalars -/

/-- Writes of latches and scalars. -/
def Act.ofThread : Act → Bool
  | .latch _ _ | .sreg _ _ => true
  | _ => false

/-- A thread after a write of a latch or a scalar that lands at issue cycle n; another write leaves it. -/
def Thread.perform (n : Nat) (t : Thread) : Act → Thread
  | .latch k v => t.modBank fun b => { b with lat := vset b.lat k ⟨v, n⟩ }
  | .sreg i v => t.putS i v
  | _ => t

theorem applyAct_ofThread {x : Act} (h : x.ofThread = true) (s : State) (a : Agent) (n : Nat) :
    s.applyAct a n x = s.modThreadOf a fun t => t.perform n x := by
  cases x with
  | latch | sreg => rfl
  | _ => cases h

theorem Thread.perform_lvl (n : Nat) (t : Thread) (x : Act) : (t.perform n x).lvl = t.lvl := by
  cases x <;> simp [Thread.perform]

theorem Thread.perform_pend (n : Nat) (t : Thread) (x : Act) : (t.perform n x).bank.pend = t.bank.pend := by
  cases x <;> simp [Thread.perform]

/-- Writes that land one after the other. -/
def Thread.performs (n : Nat) (t : Thread) (ps : List Pend) : Thread := ps.foldl (fun t p => t.perform n p.act) t

theorem Thread.performs_lvl (n : Nat) (t : Thread) (ps : List Pend) : (t.performs n ps).lvl = t.lvl := by
  induction ps generalizing t with
  | nil => rfl
  | cons p r ih => exact (ih _).trans (Thread.perform_lvl ..)

theorem Thread.performs_pend (n : Nat) (t : Thread) (ps : List Pend) : (t.performs n ps).bank.pend = t.bank.pend := by
  induction ps generalizing t with
  | nil => rfl
  | cons p r ih => exact (ih _).trans (Thread.perform_pend ..)

theorem foldl_applyAct_ofThread (s : State) (a : Agent) (n : Nat) {ps : List Pend} (h : ∀ p ∈ ps, p.act.ofThread = true)
    (f : Thread → Thread) :
    ps.foldl (fun u p => u.applyAct a n p.act) (s.modThreadOf a f) = s.modThreadOf a fun t => (f t).performs n ps := by
  induction ps generalizing f with
  | nil => rfl
  | cons p r ih =>
    rw [List.foldl_cons, applyAct_ofThread (h p List.mem_cons_self), State.modThreadOf_modThreadOf,
      ih fun q hq => h q (List.mem_cons_of_mem _ hq)]
    rfl

theorem mem_insertPend {p x : Pend} {ps : List Pend} : x ∈ insertPend p ps ↔ x = p ∨ x ∈ ps := by
  induction ps with
  | nil => simp [insertPend]
  | cons q r ih =>
    unfold insertPend
    split
    · simp
    · simp [ih, or_left_comm]

/-- The order of landing adds and drops no write. -/
theorem mem_landOrder {x : Pend} {ps : List Pend} : x ∈ landOrder ps ↔ x ∈ ps := by
  have hins (l : List Pend) : x ∈ l.foldr insertPend [] ↔ x ∈ l := by
    induction l with
    | nil => rfl
    | cons q r ih => simp [mem_insertPend, ih]
  rw [landOrder, List.mem_append, hins, List.mem_filter, List.mem_filter, ← and_or_left, Bool.not_eq_true']
  exact and_iff_left (Bool.eq_false_or_eq_true _).symm

/-- Where every delayed write of the level writes a latch or a scalar and is due, all land, in their order. -/
theorem threadOf_land_all_due {s : State} {a : Agent} {ps : List Pend} (ha : s.arrayOf a = none)
    (hp : (s.threadOf a).bank.pend = ps) (hd : ∀ p ∈ ps, p.act.ofThread = true ∧ p.due ≤ (s.threadOf a).bank.n) :
    (s.land a).threadOf a =
      ((s.threadOf a).modBank fun b => { b with pend := [] }).performs (s.threadOf a).bank.n (landOrder ps) := by
  subst hp
  have hk : ∀ p ∈ (s.threadOf a).bank.pend, (!p.act.isAccRow && decide (p.due ≤ (s.threadOf a).bank.n)) = true := by
    intro p hp
    obtain ⟨ht, hle⟩ := hd p hp
    have hr : p.act.isAccRow = false := by
      cases hx : p.act <;> simp_all [Act.ofThread, Act.isAccRow]
    simp [hr, hle]
  have hdue : (s.threadOf a).bank.due (fun x => !x.isAccRow) = (s.threadOf a).bank.pend := List.filter_eq_self.mpr hk
  have hu : (s.threadOf a).undue (fun x => !x.isAccRow) (s.threadOf a).bank.n =
      (s.threadOf a).modBank fun b => { b with pend := [] } :=
    Thread.modBank_congr (by rw [List.filter_eq_nil_iff.mpr fun p hp => by simp [hk p hp]])
  have hf := landKind_eq s a fun x => !x.isAccRow
  rw [hdue, foldl_applyAct_ofThread s a _ fun p hp => (hd p (mem_landOrder.mp hp)).1] at hf
  have hpend : (((s.threadOf a).undue (fun x => !x.isAccRow) (s.threadOf a).bank.n).performs (s.threadOf a).bank.n
      (landOrder (s.threadOf a).bank.pend)).bank.due Act.isAccRow = [] := by
    rw [Bank.due, Thread.performs_pend, hu]
    simp
  rw [threadOf_land ha hf (fun t => by rw [Thread.performs_lvl]; exact Thread.modBank_lvl ..) hpend, hu]

@[simp] theorem Thread.push_bundles (t : Thread) (n : Nat) (x : Act) : (t.push n x).bundles = t.bundles := by
  simp [Thread.push]

@[simp] theorem Thread.getS_noPend (t : Thread) (i : BitVec 5) :
    (t.modBank fun b => { b with pend := [] }).getS i = t.getS i := by
  simp [Thread.getS]

@[simp] theorem Thread.getS_setLatch (t : Thread) (k : Nat) (l : Latch) (i : BitVec 5) :
    (t.modBank fun b => { b with lat := vset b.lat k l }).getS i = t.getS i := by
  simp [Thread.getS]

/-- Settles O47: a result queues its writes; what lands is a change of the thread, write after write. -/
theorem resultsLand : Obligations.ResultsLand := by
  refine ⟨fun s lat n v d => ?_, fun s a due due' seq seq' k i j v w x ha => ?_⟩
  · cases n <;> simp [State.result, State.push, State.now]
  refine ⟨threadOf_land_none_due ha, fun hp hd hk => ?_, fun hp hd => ?_, fun hp hd hd' => ?_⟩
  · rw [threadOf_land_all_due ha hp (by simpa [Act.ofThread] using hd)]
    simp +contextual [landOrder, insertPend, Thread.performs, Thread.perform, hk]
  · rw [threadOf_land_all_due ha hp (by simpa [Act.ofThread] using hd)]
    simp +contextual [landOrder, insertPend, Thread.performs, Thread.perform, Thread.getS_putS]
  · rw [threadOf_land_all_due ha hp (by simpa [Act.ofThread] using ⟨hd, hd'⟩)]
    by_cases hs : seq ≤ seq' <;>
      simp [landOrder, insertPend, hs, Thread.performs, Thread.perform, Thread.getS_putS]

end Sys2Proof.Machine
end

section
/-! What keeps a bundle from issuing: the words no opcode map assigns, the fetches that fail, and the stalls of a bundle,
check by check (R64, R70, R72, R74, R75, R197, R325, R398). -/

namespace Sys2Proof.Machine

open Sys2Proof.Claims

/-! ### A word that is not assigned, a fetch that fails -/

theorem execUnassignedOpcode_of_error {s : State} {w : BitVec 32} {e : Reject} (hw : decodeSlot w = .error e)
    (hr : Ready .nop s) :
    exec (.unassignedOpcode w) s =
      .next (s.aloneBundle.takeTrap s.thread.bank.pc
        ⟨0x02, s.thread.bank.pc, 1#8 <<< s.iss.pos, false, false, false⟩) := by
  obtain ⟨hp, hs⟩ := hr
  have h : exec (.unassignedOpcode w) s = issueSlot .nop (fun s => s.faultPc cINVALID_ENCODING) (fun s => s) s := by
    simp only [exec, execUnassignedOpcode, hw]
  rw [h, issueSlot_trap _ _ _ s _ hp hs rfl]
  rfl

theorem execFetchFault_of_error {s : State} {c : BitVec 8} {a : Word}
    (h : s.fetchWords s.thread.bank.pc 8 = .error (c, a)) :
    exec .fetchFault s =
      .next ((s.modIss fun k => { k with pc := s.thread.bank.pc, nextPc := s.thread.bank.pc, cost := 0 }).takeTrap
        s.thread.bank.pc
        ⟨c, a, 1#8 <<< ((a - s.thread.bank.pc).toNat / 4), false, true, false⟩) := by
  simp only [exec, execFetchFault, h]
  rfl

/-! ### The stalls of a bundle whose slots act -/

section
variable {s : State} {is : List Instr}

theorem stallActive_of_trap {f : FaultInfo} (h : s.queueCheck is = .trap f) : s.stallActive is = none := by
  simp only [State.stallActive, h]

theorem stallActive_of_wait {q : Option WaitReq} (h : s.queueCheck is = .wait q) :
    s.stallActive is = some s.stall := by
  simp only [State.stallActive, h]

/-- While a slot waits the bundle stalls with the requests of its slots made. -/
theorem stallActive_of_waits (h : s.queueCheck is = .go) (hw : ∃ v ∈ s.verdicts is, v.waits = true) :
    s.stallActive is = some ((s.verdicts is).foldl State.registerOf s).stall := by
  simp only [State.stallActive, h, List.any_eq_true.mpr hw, if_true]

/-- With nothing waiting, a bundle stalls for the cycles of its bank conflict alone. -/
theorem stallActive_of_no_wait (h : s.queueCheck is = .go) (hw : ∀ v ∈ s.verdicts is, v.waits = false) :
    s.stallActive is =
      if (firstTrap (s.verdicts is)).isNone && s.onTile && decide (s.cur.served < (s.forChecks is).bankStall is) then
        some (s.modCur fun x => { x with served := x.served + 1 }).stall
      else none := by
  have hn : (s.verdicts is).any Verdict.waits = false := by simpa using hw
  simp only [State.stallActive, h, hn, Bool.false_eq_true, if_false]

theorem stallActive_of_slot_trap (h : s.queueCheck is = .go) (hw : ∀ v ∈ s.verdicts is, v.waits = false)
    (hf : (firstTrap (s.verdicts is)).isSome = true) : s.stallActive is = none := by
  have hn : (firstTrap (s.verdicts is)).isNone = false := by simpa using hf
  rw [stallActive_of_no_wait h hw, hn]
  rfl

theorem waits_of_go {vs : List Verdict} (h : ∀ v ∈ vs, v = .go) : ∀ v ∈ vs, v.waits = false :=
  fun v hv => by rw [h v hv]; rfl

theorem stallActive_of_conflict (h : s.queueCheck is = .go) (hg : ∀ v ∈ s.verdicts is, v = .go)
    (ht : s.onTile = true) (hc : s.cur.served < (s.forChecks is).bankStall is) :
    s.stallActive is = some (s.modCur fun x => { x with served := x.served + 1 }).stall := by
  rw [stallActive_of_no_wait h (waits_of_go hg), firstTrap_go hg, ht, decide_eq_true hc]
  rfl

theorem stallActive_of_served (h : s.queueCheck is = .go) (hg : ∀ v ∈ s.verdicts is, v = .go)
    (hc : s.onTile = false ∨ (s.forChecks is).bankStall is ≤ s.cur.served) : s.stallActive is = none := by
  rw [stallActive_of_no_wait h (waits_of_go hg), firstTrap_go hg]
  rcases hc with ht | hc
  · rw [ht]; rfl
  · rw [decide_eq_false (Nat.not_lt.mpr hc), Bool.and_false]; rfl

/-! ### The stalls of a bundle past steps 1 to 6 -/

theorem stallBundle_of_level_trap {f : FaultInfo} (h : s.levelCheck is = .trap f) : s.stallBundle is = none := by
  simp only [State.stallBundle, h]

theorem stallBundle_of_drains (h : s.tretDrains is = true) : s.stallBundle is = none := by
  unfold State.stallBundle
  split
  · rfl
  · simp [h]

theorem stallBundle_of_inactive (h : s.active is = false) : s.stallBundle is = none := by
  unfold State.stallBundle
  split
  · rfl
  · simp [h]

theorem stallBundle_of_acts (hl : s.levelCheck is = .go) (hd : s.tretDrains is = false) (ha : s.active is = true) :
    s.stallBundle is = s.stallActive is := by
  simp only [State.stallBundle, hl, hd, ha, Bool.not_false, Bool.and_self, if_true]

theorem stallBundle_of_queue_trap {f : FaultInfo} (h : s.queueCheck is = .trap f) : s.stallBundle is = none := by
  unfold State.stallBundle
  split
  · rfl
  · simp [stallActive_of_trap h]

theorem tretDrains_eq_false (h : ¬(Instr.tret ∈ is ∧ s.thread.lvl ≠ .tl0 ∧
    ¬(s.thread.bank.pend = [] ∧ s.thread.bank.loads = []))) : s.tretDrains is = false :=
  Bool.eq_false_iff.mpr fun hd => h ((tretDrains_iff s is).mp hd)

end

/-! ### The stall of the bundle at the PC -/

theorem stallNext_of_error {s : State} {f : FaultInfo} (h : s.bundleAt s.thread.bank.pc = .error f) :
    s.stallNext = none := by
  simp only [State.stallNext, h]

theorem stallNext_of_ok {s : State} {is : List Instr} {next : Word}
    (h : s.bundleAt s.thread.bank.pc = .ok (is, next)) :
    s.stallNext = (s.modIss fun k => { k with pc := s.thread.bank.pc, nextPc := next }).stallBundle is := by
  simp only [State.stallNext, h]

/-- Settles O42: a bundle stalls where the first check that finds something is one that stalls. -/
theorem refusedAndStalledBundles : Obligations.RefusedAndStalledBundles := by
  refine ⟨fun s w e c a => ⟨execUnassignedOpcode_of_error, execFetchFault_of_error⟩, ?_⟩
  intro s is next pc b w vs drains
  refine ⟨fun f => stallNext_of_error, fun hb => ?_⟩
  have hs : s.stallNext = b.stallBundle is := stallNext_of_ok hb
  rw [hs]
  refine ⟨?_, fun hl hd ha => ?_⟩
  · rintro (⟨f, hf⟩ | hd | ha | ⟨f, hf⟩)
    · exact stallBundle_of_level_trap hf
    · exact stallBundle_of_drains ((tretDrains_iff b is).mpr hd)
    · exact stallBundle_of_inactive ha
    · exact stallBundle_of_queue_trap hf
  rw [stallBundle_of_acts hl (tretDrains_eq_false hd) ha]
  exact ⟨fun q => stallActive_of_wait, fun hq => ⟨stallActive_of_waits hq, stallActive_of_slot_trap hq,
    stallActive_of_conflict hq, stallActive_of_served hq⟩⟩

end Sys2Proof.Machine
end

section
/-! A step of a tile or of a sequencer context: its turn up to its next bundle, then the bundle, check by check
(R64, R65, R70, R72, R140, R168, R273, R325, R398). -/

namespace Sys2Proof.Machine

open Sys2Proof.Claims

/-! ### The bundle at the PC -/

section
variable {s : State} {is : List Instr}

theorem issueActive_of_queue_trap {f : FaultInfo} (h : s.queueCheck is = .trap f) :
    s.issueActive is = s.takeTrap s.iss.pc f := by
  simp only [State.issueActive, h]

theorem issueActive_of_stall {u : State} (h : s.stallActive is = some u) : s.issueActive is = u := by
  unfold State.issueActive
  split
  · rw [stallActive_of_trap ‹_›] at h
    cases h
  · simp only [h]

theorem issueActive_of_slot_trap {f : FaultInfo} (h : s.queueCheck is = .go) (hs : s.stallActive is = none)
    (hf : firstTrap (s.verdicts is) = some f) : s.issueActive is = s.takeTrap s.iss.pc f := by
  simp only [State.issueActive, h, hs, hf]

theorem issueActive_of_go (h : s.queueCheck is = .go) (hs : s.stallActive is = none)
    (hg : ∀ v ∈ s.verdicts is, v = .go) :
    s.issueActive is = ((s.modCur fun x => { x with served := 0 }).commitAll is).finishBundle := by
  simp only [State.issueActive, h, hs, firstTrap_go hg]

theorem issueBundle_of_level_trap {f : FaultInfo} (h : s.levelCheck is = .trap f) :
    s.issueBundle is = s.takeTrap s.iss.pc f := by
  simp only [State.issueBundle, h]

theorem issueBundle_of_drains (h : s.levelCheck is = .go) (hd : s.tretDrains is = true) :
    s.issueBundle is = s.emptyBundle s.iss.agent := by
  simp only [State.issueBundle, h, hd, if_true]

theorem issueBundle_of_inactive (h : s.levelCheck is = .go) (hd : s.tretDrains is = false)
    (ha : s.active is = false) : s.issueBundle is = s.finishBundle := by
  simp only [State.issueBundle, h, hd, ha, Bool.false_eq_true, if_false]

theorem issueBundle_of_acts (h : s.levelCheck is = .go) (hd : s.tretDrains is = false)
    (ha : s.active is = true) : s.issueBundle is = s.issueActive is := by
  simp only [State.issueBundle, h, hd, ha, Bool.false_eq_true, if_false, if_true]

end

theorem issueNext_of_error {s : State} {f : FaultInfo} (h : s.bundleAt s.thread.bank.pc = .error f) :
    s.issueNext = (s.modIss fun k => { k with pc := s.thread.bank.pc, nextPc := s.thread.bank.pc }).takeTrap
      s.thread.bank.pc f := by
  simp only [State.issueNext, h]

theorem issueNext_of_ok {s : State} {is : List Instr} {next : Word}
    (h : s.bundleAt s.thread.bank.pc = .ok (is, next)) :
    s.issueNext = (s.modIss fun k => { k with pc := s.thread.bank.pc, nextPc := next }).issueBundle is := by
  simp only [State.issueNext, h]

/-! ### One instruction and three NOPs -/

theorem marks_nop (s : State) : s.marks .nop = s := by
  have hi : Instr.incs .nop = 0#8 := rfl
  have hp : Vector.ofFn (fun q : Fin 4 => vget s.iss.pops q.val + (Instr.pops .nop).count (BitVec.ofNat 2 q.val)) =
      s.iss.pops := by
    ext k hk
    simp [vget, Instr.pops]
  rw [State.marks, State.modIss, hi, hp, BitVec.or_zero]

theorem commitSlot_nop (s : State) (k : Nat) :
    s.commitSlot k .nop = s.modIss fun i => { i with phase := .commit, pos := k } := by
  have h : exec .nop (s.modIss fun i => { i with phase := .commit, pos := k }) =
      .next (s.modIss fun i => { i with phase := .commit, pos := k }) := by
    rw [exec, execNop, issueSlot_commit _ _ _ _ rfl, marks_nop]
  rw [State.commitSlot, h]

/-- The NOPs behind an instruction leave what it did. -/
theorem commitAll_of_exec {s t : State} {i : Instr}
    (h : exec i (s.modIss fun k => { k with phase := .commit, pos := 0 }) = .next t) :
    s.commitAll [i, .nop, .nop, .nop] = t.modIss fun k => { k with phase := .commit, pos := 3 } := by
  have h0 : s.commitSlot 0 i = t := by rw [State.commitSlot, h]
  rw [commitAll_alone, h0, commitSlot_nop, commitSlot_nop, commitSlot_nop]
  rfl

/-! ### The turn up to the next bundle -/

/-- The agent runs, at its turn and at the boundary before its next bundle. -/
def State.AgentRuns (s : State) : Agent → Prop
  | .tile t => (s.tile t.toNat).run = .running ∧ ((s.begin_ (.tile t)).tile t.toNat).run = .running
  | .seq q => (s.seqCtx q.toNat).running = true ∧ (s.seqCtx q.toNat).ending = none

/-- A tile goes on: it runs, and no count-mode event is pending that it takes. -/
def State.AgentGoes (s : State) (a : Agent) : Prop :=
  ∀ t, a = .tile t → (s.tile t.toNat).run = .running ∧ (s.tile t.toNat).lateTrap = none

theorem cur_of_agent {s : State} {t : BitVec 11} (h : s.iss.agent = .tile t) : s.cur = s.tile t.toNat := by
  simp [State.cur, State.curId, h]

theorem pastEvents_of_goes {s : State} {t : BitVec 11} (go : State → State) (ha : s.iss.agent = .tile t)
    (h : s.AgentGoes (.tile t)) : s.pastEvents go = go s := by
  obtain ⟨hr, hl⟩ := h t rfl
  simp [State.pastEvents, cur_of_agent ha, hr, hl]

theorem pastEvents_of_lateTrap {s : State} {t : BitVec 11} (go : State → State) {f : FaultInfo} {x : Tile}
    (ha : s.iss.agent = .tile t) (hr : (s.tile t.toNat).run = .running)
    (hl : (s.tile t.toNat).lateTrap = some (f, x)) :
    s.pastEvents go = (s.modCur fun _ => x).takeTrap s.thread.bank.pc f := by
  simp [State.pastEvents, cur_of_agent ha, hr, hl]

theorem issueWithArray_of_not_held {s : State} {a : Agent} (h : s.arrayHeld a = false) :
    s.issueWithArray a = s.issueNext := by
  simp [State.issueWithArray, h]

theorem issueWithArray_of_stall {s z : State} {a : Agent} (h : s.arrayHeld a = true) (hz : s.stallNext = some z) :
    s.issueWithArray a = z := by
  simp [State.issueWithArray, h, hz]

theorem issueWithArray_of_no_stall {s : State} {a : Agent} (h : s.arrayHeld a = true) (hn : s.stallNext = none) :
    s.issueWithArray a = (s.landPoints a).pastEvents State.issueNext := by
  simp [State.issueWithArray, h, hn]

/-- The perform points of the bundle's cycle, where the agent's stalls hold its array, and then the bundle. -/
theorem issueWithArray_of_goes {s : State} {a : Agent} (ha : s.iss.agent = a)
    (hn : s.arrayHeld a = true → s.stallNext = none)
    (hg : (if s.arrayHeld a then s.landPoints a else s).AgentGoes a) :
    s.issueWithArray a = (if s.arrayHeld a then s.landPoints a else s).issueNext := by
  cases h : s.arrayHeld a
  case false => exact issueWithArray_of_not_held h
  case true =>
    rw [h, if_pos rfl] at hg
    rw [if_pos rfl]
    cases a with
    | tile t =>
      rw [issueWithArray_of_no_stall h (hn h), pastEvents_of_goes _ (by rw [landPoints_iss, ha]) hg]
    | seq q => cases (arrayHeld_seq s q).symm.trans h

section
variable {s : State} {a : Agent}

theorem turn_of_late (hr : s.AgentRuns a) (hl : (s.begin_ a).thread.late = true) :
    s.turn (.agent a) = .next (s.begin_ a).stall := by
  cases a with
  | tile t =>
    obtain ⟨h0, h1⟩ := hr
    have hc : (s.begin_ (.tile t)).cur.run = .running := h1
    simp [State.turn, State.tileTurn, h0, hc, hl]
  | seq q =>
    obtain ⟨h0, h1⟩ := hr
    simp [State.turn, State.seqTurn, h0, h1, hl]

theorem turn_tile {t : BitVec 11} (hr : s.AgentRuns (.tile t)) (hl : (s.begin_ (.tile t)).thread.late = false) :
    s.turn (.agent (.tile t)) =
      .next (((s.begin_ (.tile t)).land (.tile t)).pastEvents fun s => s.issueWithArray (.tile t)) := by
  obtain ⟨h0, h1⟩ := hr
  have hc : (s.begin_ (.tile t)).cur.run = .running := h1
  simp [State.turn, State.tileTurn, h0, hc, hl]

theorem turn_seq {q : BitVec 6} (hr : s.AgentRuns (.seq q)) (hl : (s.begin_ (.seq q)).thread.late = false) :
    s.turn (.agent (.seq q)) = .next ((s.begin_ (.seq q)).land (.seq q)).issueNext := by
  obtain ⟨h0, h1⟩ := hr
  simp [State.turn, State.seqTurn, h0, h1, hl]

theorem land_begin_agent (s : State) (a : Agent) : ((s.begin_ a).land a).iss.agent = a := by
  rw [land_iss, begin_iss]

theorem turn_of_goes (hr : s.AgentRuns a) (hl : (s.begin_ a).thread.late = false)
    (hg : ((s.begin_ a).land a).AgentGoes a) :
    s.turn (.agent a) = .next (((s.begin_ a).land a).issueWithArray a) := by
  cases a with
  | tile t => rw [turn_tile hr hl, pastEvents_of_goes _ (land_begin_agent s _) hg]
  | seq q => rw [turn_seq hr hl, issueWithArray_of_not_held (arrayHeld_seq _ q)]

theorem step_agent {r : List Turn} (ht : s.turns = .agent a :: r) (hs : s.modl.stopped = false) :
    step s = ({ s with turns := r, turnNo := s.turnNo + 1 } : State).turn (.agent a) := by
  simp [step, State.nextTurn, ht, hs]

end

/-- Settles O43: the turn up to the bundle at the PC, then what the first check that finds something makes of it. -/
theorem stepRunsTheBundle : Obligations.StepRunsTheBundle := by
  intro s a r is next ht hs m v u goes pc b c w vs drains hrun
  have hr : ({ s with turns := r, turnNo := s.turnNo + 1 } : State).AgentRuns a := by
    cases a <;> exact hrun
  have hva : v.iss.agent = a := land_begin_agent _ a
  have hua : u.iss.agent = a := by
    by_cases h : v.arrayHeld a <;> simp [u, h, landPoints_iss, hva]
  rw [step_agent ht hs]
  refine ⟨turn_of_late hr, fun hl => ⟨?_, ?_, ?_, ?_⟩⟩
  · rintro t f x rfl hv hx
    rw [turn_tile hr hl, pastEvents_of_lateTrap _ hva hv hx]
  · intro z hg hh hz
    rw [turn_of_goes hr hl hg, issueWithArray_of_stall hh hz]
  · rintro t f x rfl hg hh hn hu hx
    have huv : u = v.landPoints (.tile t) := if_pos hh
    rw [turn_of_goes hr hl hg, issueWithArray_of_no_stall hh hn, ← huv, pastEvents_of_lateTrap _ hua hu hx]
  intro hg hn hgu
  have hturn : State.turn { s with turns := r, turnNo := s.turnNo + 1 } (.agent a) = .next u.issueNext := by
    rw [turn_of_goes hr hl hg, issueWithArray_of_goes hva hn hgu]
  rw [hturn]
  refine ⟨fun f hf => congrArg _ (issueNext_of_error hf), fun hb => ?_⟩
  have hnext : u.issueNext = b.issueBundle is := issueNext_of_ok hb
  have hba : b.iss.agent = a := hua
  rw [hnext]
  refine ⟨fun f hf => congrArg _ (issueBundle_of_level_trap hf), fun hgo hd => ?_, fun hgo hd => ?_⟩
  · rw [issueBundle_of_drains hgo ((tretDrains_iff b is).mpr hd), hba]
  replace hd := tretDrains_eq_false hd
  refine ⟨fun ha => congrArg _ (issueBundle_of_inactive hgo hd ha), fun f ha hq => ?_, fun q ha hq => ?_,
    fun ha hq => ?_⟩
  all_goals rw [issueBundle_of_acts hgo hd ha]
  · exact congrArg _ (issueActive_of_queue_trap hq)
  · exact congrArg _ (issueActive_of_stall (stallActive_of_wait hq))
  refine ⟨fun hw => ?_, fun f hw hf => ?_, fun hv hon hc => ?_, fun hv hc => ?_⟩
  · exact congrArg _ (issueActive_of_stall (stallActive_of_waits hq hw))
  · have hs : b.stallActive is = none := stallActive_of_slot_trap hq hw (Option.isSome_of_eq_some hf)
    exact congrArg _ (issueActive_of_slot_trap hq hs hf)
  · exact congrArg _ (issueActive_of_stall (stallActive_of_conflict hq hv hon hc))
  · have hcommit : b.issueActive is = (c.commitAll is).finishBundle :=
      issueActive_of_go hq (stallActive_of_served hq hv hc) hv
    rw [hcommit]
    refine ⟨rfl, ?_⟩
    rintro i t rfl hi
    rw [commitAll_of_exec hi]

end Sys2Proof.Machine
end

section
/-! The end of a tile's bundle without scratchpad writes: the marked queues and cursors, the array cycle and the issue
cycle, then what its control adds (R62, R63, R70, R94, R100, R106, R107, R115, R116, R140, R304, R331). -/

namespace Sys2Proof.Machine

open Sys2Proof.Claims

/-! ### Two changes of a tile are one -/

theorem State.modTile_modTile (s : State) (t : Nat) (f g : Tile → Tile) :
    (s.modTile t f).modTile t g = s.modTile t fun x => g (f x) := by
  simp [State.modTile, State.setTile, State.tile]

theorem State.modTile_congr {s : State} {t : Nat} {f g : Tile → Tile} (h : f (s.tile t) = g (s.tile t)) :
    s.modTile t f = s.modTile t g := by
  rw [State.modTile, h, State.modTile]

/-! ### The array cycle beside a change of its tile -/

theorem arrayTick_cases (s : State) (a : Agent) :
    s.arrayTick a = s ∨ ∃ t, a = .tile t ∧ s.arrayTick a = s.modArr (t.toNat / 4) fun m => { m with age := m.age + 1 } := by
  unfold State.arrayTick State.arrayOf
  cases a with
  | tile t =>
    simp only
    split_ifs
    · exact .inr ⟨t, rfl, rfl⟩
    · exact .inl rfl
  | seq q => exact .inl rfl

theorem arrayTick_tile (s : State) (a : Agent) (k : Nat) : (s.arrayTick a).tile k = s.tile k := by
  rcases arrayTick_cases s a with h | ⟨t, -, h⟩
  · rw [h]
  · rw [h]; rfl

theorem arrayTick_iss (s : State) (a : Agent) : (s.arrayTick a).iss = s.iss := by
  rcases arrayTick_cases s a with h | ⟨t, -, h⟩
  · rw [h]
  · rw [h]; rfl

theorem arrayTick_modTile {s : State} {t : BitVec 11} {f : Tile → Tile}
    (hf : (f (s.tile t.toNat)).th.lvl = (s.tile t.toNat).th.lvl) :
    (s.modTile t.toNat f).arrayTick (.tile t) = (s.arrayTick (.tile t)).modTile t.toNat f := by
  have h : (s.modTile t.toNat f).arrayOf (.tile t) = s.arrayOf (.tile t) := by
    simp only [State.arrayOf, State.tile_modTile_self, hf]
    rfl
  simp only [State.arrayTick, h]
  split <;> rfl

theorem arrayTick_modIss (s : State) (a : Agent) (f : Issue → Issue) :
    (s.modIss f).arrayTick a = (s.arrayTick a).modIss f := by
  have h : (s.modIss f).arrayOf a = s.arrayOf a := by cases a <;> rfl
  simp only [State.arrayTick, h]
  split <;> rfl

/-! ### The state after a plain end -/

/-- The state after a bundle of a tile that ends: its marks taken, an array cycle passed, its thread as given. -/
def State.endWith (s : State) (t : BitVec 11) (th : Thread) : State :=
  (s.arrayTick (.tile t)).modTile t.toNat fun x => { (x.popQueues s.iss.pops).advance s.iss.incs with th := th }

/-- The thread after the back-edge test of a bundle, and the PC it goes on at (R100, R324). -/
def Thread.endTest (th : Thread) (pc next : Word) (cut : Bool) : Thread × Word :=
  if th.lvl ≠ .tl0 then (th, next)
  else
    let r := backEdge pc next cut th.loops th.li th.ps
    ({ th with loops := r.1, li := r.2.1, ps := r.2.2.1 }, r.2.2.2)

theorem Thread.endTest_eq (th : Thread) (pc next : Word) (cut : Bool) :
    (th.endTest pc next cut).1 = { th with
      loops := (th.endTest pc next cut).1.loops
      li := (th.endTest pc next cut).1.li
      ps := (th.endTest pc next cut).1.ps } := by
  unfold Thread.endTest
  split <;> rfl

theorem Thread.endTest_of_no_loop {th : Thread} {pc next : Word} {cut : Bool} (h : th.lvl ≠ .tl0 ∨ th.loops = []) :
    th.endTest pc next cut = (th, next) := by
  unfold Thread.endTest
  split
  · rfl
  · have hl : th.loops = [] := h.resolve_left ‹_›
    obtain ⟨lvl⟩ := th
    subst hl
    rfl

theorem Thread.tick_eq (t : Thread) (pc : Word) (ready : Nat) :
    t.tick pc ready = { t.modBank (fun b => { b with pc := pc, n := b.n + 1 }) with
      issue := t.issue + 1
      bundles := t.bundles + 1
      readyAt := ready } := rfl

theorem Thread.tick_pc (t : Thread) (pc : Word) (ready : Nat) : (t.tick pc ready).bank.pc = pc := by
  obtain ⟨lvl⟩ := t
  cases lvl <;> rfl

theorem Thread.tick_loopState (t : Thread) (pc : Word) (ready : Nat) :
    (t.tick pc ready).loops = t.loops ∧ (t.tick pc ready).li = t.li ∧ (t.tick pc ready).ps = t.ps := by
  simp [Thread.tick_eq]

section
variable {s : State} {t : BitVec 11}

theorem endWith_tile (th : Thread) : (s.endWith t th).tile t.toNat =
    { ((s.tile t.toNat).popQueues s.iss.pops).advance s.iss.incs with th := th } := by
  rw [State.endWith, State.tile_modTile_self, arrayTick_tile]

theorem endWith_iss (th : Thread) : (s.endWith t th).iss = s.iss := arrayTick_iss s _

/-- The control of the bundle leaves no trace in a plain end. -/
theorem endWith_modIss_control (k k' : Control) (th : Thread) :
    ((s.modIss fun i => { i with control := k }).endWith t th).modIss (fun i => { i with control := k' }) =
      (s.modIss fun i => { i with control := k' }).endWith t th := by
  simp only [State.endWith, arrayTick_modIss]
  rfl

variable (ha : s.iss.agent = .tile t)
include ha

theorem endTest_modTile (f : Tile → Tile) :
    let r := (f (s.tile t.toNat)).th.endTest s.iss.pc s.iss.nextPc (f (s.tile t.toNat)).cutPending
    (s.modTile t.toNat f).endTest = (s.modTile t.toNat fun x => { f x with th := r.1 }, r.2) := by
  have hth : (s.modTile t.toNat f).thread = (f (s.tile t.toNat)).th := by
    simp [State.thread, State.threadOf, ha]
  have hcut : ((s.modTile t.toNat f).onTile && (s.modTile t.toNat f).cur.cutPending) =
      (f (s.tile t.toNat)).cutPending := by
    simp [State.onTile, State.cur, State.curId, ha]
  simp only [State.endTest, Thread.endTest, hth, hcut, State.modTile_iss, ne_eq]
  split
  · exact Prod.ext (State.modTile_congr rfl) rfl
  · refine Prod.ext ?_ rfl
    simp only [State.modThread, State.modThreadOf, State.modTile_iss, ha, State.modTile_modTile]
    exact State.modTile_congr rfl

theorem tick_modTile {f : Tile → Tile} (hf : (f (s.tile t.toNat)).th.lvl = (s.tile t.toNat).th.lvl) (pc : Word) :
    (s.modTile t.toNat f).tick pc = (s.arrayTick (.tile t)).modTile t.toNat fun x =>
      { f x with th := (f x).th.tick pc (s.cycle + 1 + s.iss.cost) } := by
  simp only [State.tick, State.modTile_iss, ha, arrayTick_modTile hf, State.modThread, arrayTick_iss,
    State.modThreadOf, State.modTile_modTile]
  rfl

/-! ### The end under each control -/

theorem modCur_of_agent (f : Tile → Tile) : s.modCur f = s.modTile t.toNat f := by
  simp only [State.modCur, ha]

/-- What the back-edge test gives at the end of the bundle in issue of tile t: the thread and the PC it goes on at. -/
def State.loopsEnd (s : State) (t : BitVec 11) : Thread × Word :=
  (s.tile t.toNat).th.endTest s.iss.pc s.iss.nextPc (s.tile t.toNat).cutPending

/-- The thread of tile t after the end of a bundle that redirects nothing. -/
def State.afterPlain (s : State) (t : BitVec 11) : Thread :=
  (s.loopsEnd t).1.tick (s.loopsEnd t).2 (s.cycle + 1 + s.iss.cost)

/-- The thread of tile t after the end of a bundle that goes on at a PC. -/
def State.afterJump (s : State) (t : BitVec 11) (pc : Word) : Thread :=
  (s.tile t.toNat).th.tick pc (s.cycle + 1 + s.iss.cost)

theorem endTest_tick_marked :
    let m := s.modTile t.toNat fun x => (x.popQueues s.iss.pops).advance s.iss.incs
    m.endTest.1.tick m.endTest.2 = s.endWith t (s.afterPlain t) ∧ m.endTest.2 = (s.loopsEnd t).2 := by
  intro m
  have hm : m.endTest = (s.modTile t.toNat fun x =>
      { (x.popQueues s.iss.pops).advance s.iss.incs with th := (s.loopsEnd t).1 }, (s.loopsEnd t).2) :=
    endTest_modTile ha _
  have hl : (s.loopsEnd t).1.lvl = (s.tile t.toNat).th.lvl := by
    rw [State.loopsEnd, Thread.endTest_eq]
  rw [hm]
  exact ⟨tick_modTile ha (f := fun x =>
    { (x.popQueues s.iss.pops).advance s.iss.incs with th := (s.loopsEnd t).1 }) hl _, rfl⟩

theorem tick_marked (pc : Word) :
    (s.modTile t.toNat fun x => (x.popQueues s.iss.pops).advance s.iss.incs).tick pc =
      s.endWith t (s.afterJump t pc) := by
  rw [tick_modTile ha rfl]
  exact State.modTile_congr (by rw [arrayTick_tile]; rfl)

/-- A STEP parks its tile where a cut is pending whose target is unknown or reached. -/
theorem parks_endWith_iff (th : Thread) : (s.endWith t th).parks = true ↔ (s.tile t.toNat).cutPending = true ∧
    ∀ m b, (s.lslot (s.tile t.toNat).part.toNat (s.tile t.toNat).slot.toNat).cut = some ⟨some m, b⟩ →
      m ≤ (s.tile t.toNat).stepCnt := by
  have hon : (s.endWith t th).onTile = true := by rw [State.onTile, endWith_iss, ha]
  have hcur : (s.endWith t th).cur =
      { ((s.tile t.toNat).popQueues s.iss.pops).advance s.iss.incs with th := th } := by
    rw [cur_of_agent (by rw [endWith_iss, ha]), endWith_tile]
  have hslot (v k : Nat) : (s.endWith t th).lslot v k = s.lslot v k := by
    rcases arrayTick_cases s (.tile t) with h | ⟨u, -, h⟩
    all_goals
      rw [State.endWith, h]
      rfl
  simp only [State.parks, hon, hcur, hslot, Bool.true_and, Bool.and_eq_true]
  refine and_congr_right fun _ => ?_
  show (match (s.lslot (s.tile t.toNat).part.toNat (s.tile t.toNat).slot.toNat).cut with
    | some ⟨some m, _⟩ => decide (m ≤ (s.tile t.toNat).stepCnt)
    | _ => true) = true ↔ _
  rcases (s.lslot (s.tile t.toNat).part.toNat (s.tile t.toNat).slot.toNat).cut with _ | ⟨_ | m, b⟩
  · simp
  · simp
  · simp

variable (hw : s.iss.writes = []) (hr : (s.tile t.toNat).run ≠ .stopped)
include hw hr

/-- Without scratchpad writes the marks come first, then the control. -/
theorem finishBundle_eq :
    s.finishBundle =
      let m := s.modTile t.toNat fun x => (x.popQueues s.iss.pops).advance s.iss.incs
      match s.iss.control with
      | .jump pc => m.tick pc
      | .tret => (m.tick s.iss.nextPc).modThread fun t => t.tret
      | .end_ => m.finishEnd
      | .trap n pos =>
        ((m.endTest.1.tick m.endTest.2).freeze m.iss.agent).takeTrap m.endTest.2
          ⟨0x80 + n.setWidth 8, m.iss.pc, 1#8 <<< pos, false, false, false⟩
      | .step =>
        let u := m.endTest.1.tick m.endTest.2
        if u.parks then u.modCur fun x => { x with run := .parked, reported := false } else u
      | .refetch => m.endTest.1.tick m.endTest.2
      | .none => m.endTest.1.tick m.endTest.2 := by
  have hp : s.performWrites = s := by rw [State.performWrites, hw]; rfl
  have hs : s.stopped = false := by
    have hne : ((s.tile t.toNat).run == Run.stopped) = false := by simpa using hr
    simp [State.stopped, cur_of_agent ha, hne]
  simp only [State.finishBundle, hp, hs, Bool.false_eq_true, if_false, modCur_of_agent ha]
  rfl

theorem finishBundle_of_jump {pc : Word} (hc : s.iss.control = .jump pc) :
    s.finishBundle = s.endWith t (s.afterJump t pc) := by
  rw [finishBundle_eq ha hw hr, hc]
  exact tick_marked ha pc

theorem finishBundle_of_plain (hc : s.iss.control = .none ∨ s.iss.control = .refetch) :
    s.finishBundle = s.endWith t (s.afterPlain t) := by
  rw [finishBundle_eq ha hw hr]
  rcases hc with hc | hc
  all_goals
    rw [hc]
    exact (endTest_tick_marked ha).1

theorem finishBundle_of_tret (hc : s.iss.control = .tret) :
    s.finishBundle = (s.endWith t (s.afterJump t s.iss.nextPc)).modTile t.toNat fun x => { x with th := x.th.tret } := by
  rw [finishBundle_eq ha hw hr, hc]
  simp only [tick_marked ha, State.modThread, endWith_iss, ha]
  rfl

theorem finishBundle_of_trap {n : BitVec 7} {pos : Nat} (hc : s.iss.control = .trap n pos) :
    s.finishBundle = ((s.endWith t (s.afterPlain t)).freeze (.tile t)).takeTrap (s.loopsEnd t).2
      ⟨0x80 + n.setWidth 8, s.iss.pc, 1#8 <<< pos, false, false, false⟩ := by
  obtain ⟨hm, hpc⟩ := endTest_tick_marked ha
  rw [finishBundle_eq ha hw hr, hc]
  simp only [hm, State.modTile_iss, ha]
  rw [hpc]

theorem finishBundle_of_step (hc : s.iss.control = .step) :
    s.finishBundle = if (s.endWith t (s.afterPlain t)).parks then
      (s.endWith t (s.afterPlain t)).modTile t.toNat fun x => { x with run := .parked, reported := false }
    else s.endWith t (s.afterPlain t) := by
  have hm := (endTest_tick_marked ha).1
  have hcur (f : Tile → Tile) : (s.endWith t (s.afterPlain t)).modCur f =
      (s.endWith t (s.afterPlain t)).modTile t.toNat f :=
    modCur_of_agent (by rw [endWith_iss, ha]) f
  rw [finishBundle_eq ha hw hr, hc]
  simp only [hm, hcur]

theorem finishBundle_of_end (hc : s.iss.control = .end_) :
    let u := ((s.endWith t (s.afterJump t s.iss.nextPc)).modTile t.toNat fun x => { x with
      run := .ended, hasEnded := true, th := { x.th with loops := [], li := Vector.replicate 6 0 } }).rankEnd t.toNat
    s.finishBundle = if (u.cluster (t.toNat / 4)).arr.holder = some (BitVec.ofNat 2 t.toNat) then
      (u.modArr (t.toNat / 4) fun m => { m with spent := true, free := true }).endRun (t.toNat / 4)
    else u := by
  have hb : t.extractLsb' 0 2 = BitVec.ofNat 2 t.toNat := by
    apply BitVec.eq_of_toNat_eq
    simp
  rw [finishBundle_eq ha hw hr, hc]
  simp only [State.finishEnd, State.modTile_iss, tick_marked ha, State.modThread, endWith_iss, ha, State.modThreadOf,
    State.modTile_modTile, hb]
  rfl

end

/-! ### What a plain end changes -/

section
variable {s : State} {t : BitVec 11}

theorem endWith_cluster (th : Thread) (c : Nat) : (s.endWith t th).cluster c = s.cluster c ∨
    c = t.toNat / 4 ∧
      (s.endWith t th).cluster c = { s.cluster c with arr := { (s.cluster c).arr with age := (s.cluster c).arr.age + 1 } } := by
  have hc : (s.endWith t th).cluster c = (s.arrayTick (.tile t)).cluster c := rfl
  rw [hc]
  rcases arrayTick_cases s (.tile t) with h | ⟨u, hu, h⟩
  · exact .inl (by rw [h])
  · cases hu
    rw [h]
    by_cases hk : c = t.toNat / 4
    · subst hk
      exact .inr ⟨rfl, by simp [State.modArr]⟩
    · exact .inl (by simp [State.modArr, hk])

theorem endWith_eq (th : Thread) : s.endWith t th =
    { s with tiles := (s.endWith t th).tiles, clusters := (s.endWith t th).clusters } := by
  rcases arrayTick_cases s (.tile t) with h | ⟨u, -, h⟩
  all_goals
    rw [State.endWith, h]
    rfl

theorem vget_advance (x : Tile) (m : BitVec 8) {g : Nat} (hg : g < 8) :
    vget (x.advance m).cur g = if m.getLsbD g then vget x.cur g + 1 else vget x.cur g := by
  simp [Tile.advance, vget, hg]

/-- A thread that has gone through an issue cycle, with the loop state it has. -/
def Thread.Ticks (x th : Thread) (ready : Nat) : Prop :=
  th = { x.modBank (fun b => { b with pc := th.bank.pc, n := b.n + 1 }) with
    loops := th.loops
    li := th.li
    ps := th.ps
    issue := x.issue + 1
    bundles := x.bundles + 1
    readyAt := ready }

theorem ticks_tick (x : Thread) (pc : Word) (ready : Nat) : x.Ticks (x.tick pc ready) ready := by
  rw [Thread.Ticks, Thread.tick_pc]
  obtain ⟨lvl⟩ := x
  cases lvl <;> rfl

theorem ticks_endTest_tick (x : Thread) (pc next p : Word) (cut : Bool) (ready : Nat) :
    x.Ticks ((x.endTest pc next cut).1.tick p ready) ready := by
  rw [Thread.endTest_eq, Thread.Ticks, Thread.tick_pc]
  generalize (x.endTest pc next cut).1 = y
  obtain ⟨lvl⟩ := x
  cases lvl <;> rfl

theorem endsPlainly_of_endWith {th : Thread} (h : s.finishBundle = s.endWith t th)
    (hth : (s.tile t.toNat).th.Ticks th (s.cycle + 1 + s.iss.cost)) : EndsPlainly s t := by
  unfold EndsPlainly
  rw [h]
  intro x w y
  have hy : y = { (x.popQueues s.iss.pops).advance s.iss.incs with th := th } := endWith_tile th
  refine ⟨endWith_eq th, fun k hk => ?_, endWith_cluster th, ?_, fun g hg => ?_, ?_⟩
  · exact (State.tile_modTile_ne _ _ _ _ hk).trans (arrayTick_tile _ _ _)
  · rw [hy]
    rfl
  · rw [hy]
    exact vget_advance _ _ hg
  · rw [hy]
    exact hth

end

/-! ### The END of a context -/

theorem finishBundle_of_seq_end {s : State} {q : BitVec 6} (ha : s.iss.agent = .seq q) (hw : s.iss.writes = [])
    (hc : s.iss.control = .end_) :
    s.finishBundle = s.modSeq q.toNat fun y => { y with
      ending := some s.iss.pc
      th := ((s.seqCtx q.toNat).th.tick s.iss.nextPc (s.cycle + 1 + s.iss.cost)).dropLoops } := by
  have hp : s.performWrites = s := by rw [State.performWrites, hw]; rfl
  have hs : s.stopped = false := by simp [State.stopped, State.onTile, ha]
  have hm (f : Tile → Tile) : s.modCur f = s := by simp only [State.modCur, ha]
  have ht : s.arrayTick (.seq q) = s := rfl
  simp only [State.finishBundle, hp, hs, hm, hc, State.finishEnd, State.tick, ha, ht, State.modThread, Bool.false_eq_true,
    if_false, State.modThreadOf]
  simp [State.modSeq, State.seqCtx, ha]

/-- Settles O49: the end under each control is a plain end, at the back edge or at a PC, and what the control adds. -/
theorem bundleEnds : Obligations.BundleEnds := by
  refine ⟨fun s t ha hw hr => ?_, fun s q ha hw hc => finishBundle_of_seq_end ha hw hc⟩
  intro c x w y end_ cut parks
  have hplain : end_ .none = s.endWith t (s.afterPlain t) := by
    have h := finishBundle_of_plain (s := s.modIss fun i => { i with control := .none }) ha hw hr (.inl rfl)
    simp only [end_, h]
    exact endWith_modIss_control _ _ _
  have hjump (pc : Word) : end_ (.jump pc) = s.endWith t (s.afterJump t pc) := by
    have h := finishBundle_of_jump (s := s.modIss fun i => { i with control := .jump pc }) ha hw hr rfl
    simp only [end_, h]
    exact endWith_modIss_control _ _ _
  have hy {th : Thread} (h : s.finishBundle = s.endWith t th) : y.th = th := by
    simp only [y, w, h, endWith_tile]
  rw [hplain, hjump]
  refine ⟨?_, fun pc hc => ?_, fun hc hl => ?_, fun hc => finishBundle_of_plain ha hw hr (.inr hc), fun hc => ?_,
    fun n pos hc => ?_, finishBundle_of_tret ha hw hr, fun hc => ?_⟩
  · rintro (hc | hc | ⟨pc, hc⟩)
    · exact endsPlainly_of_endWith (finishBundle_of_plain ha hw hr (.inl hc)) (ticks_endTest_tick ..)
    · exact endsPlainly_of_endWith (finishBundle_of_plain ha hw hr (.inr hc)) (ticks_endTest_tick ..)
    · exact endsPlainly_of_endWith (finishBundle_of_jump ha hw hr hc) (ticks_tick ..)
  · rw [hy (finishBundle_of_jump ha hw hr hc)]
    exact ⟨Thread.tick_pc .., Thread.tick_loopState ..⟩
  · have hth : y.th = s.afterJump t s.iss.nextPc := by
      rw [hy (finishBundle_of_plain ha hw hr hc), State.afterPlain, State.loopsEnd, Thread.endTest_of_no_loop hl]
      rfl
    rw [hth]
    exact ⟨Thread.tick_pc .., Thread.tick_loopState ..⟩
  · have hw' : w = _ := finishBundle_of_step ha hw hr hc
    have hp := parks_endWith_iff ha (s.afterPlain t)
    exact ⟨fun h => by rw [hw', if_pos (hp.mpr h)], fun h => by rw [hw', if_neg fun k => h (hp.mp k)]⟩
  · have hpc : ((s.endWith t (s.afterPlain t)).tile t.toNat).th.bank.pc = (s.loopsEnd t).2 := by
      rw [endWith_tile]
      exact Thread.tick_pc ..
    rw [hpc]
    exact finishBundle_of_trap ha hw hr hc
  · have hw' : w = _ := finishBundle_of_end ha hw hr hc
    exact ⟨fun h => by rw [hw', if_neg h], fun h => by rw [hw', if_pos h]⟩

end Sys2Proof.Machine
end

section
/-! What the events of a cluster's array and of a tile's dictionary do where their conditions hold (R140 to R148, R168,
R174, R175, R187, R391). -/

namespace Sys2Proof.Machine

open Sys2Proof.Claims

/-! ### The array (R140 to R148) -/

section
variable {s : State} {a : Agent} {c : BitVec 9} {h : BitVec 2}

theorem execResultLanding_of_not_late (hl : (s.threadOf a).late = false) :
    exec (.resultLanding a) s = .next (s.land a) := by
  simp only [exec, execResultLanding, State.landDue, hl, Bool.false_eq_true, if_false]

theorem execResultLanding_of_late (hl : (s.threadOf a).late = true) : exec (.resultLanding a) s = .next s := by
  simp only [exec, execResultLanding, State.landDue, hl, if_true]

theorem execPerformPoint_of_free (hh : (s.cluster c.toNat).arr.holder = some h)
    (hf : (s.cluster c.toNat).arr.free = true) (hr : (s.tile (4 * c.toNat + h.toNat)).run ≠ .ended) :
    exec (.performPoint c) s =
      .next ((((s.landPoints (.tile (BitVec.ofNat 11 (4 * c.toNat + h.toNat)))).modArr c.toNat fun m =>
        { m with age := m.age + 1 }).performDue c.toNat).endRun c.toNat) := by
  simp only [exec, execPerformPoint, hh, hf, hr, Bool.not_true, Bool.false_eq_true, if_false, false_and]

/-- An array that its holder has not given back runs with its holder's bundles alone. -/
theorem execPerformPoint_of_held (hf : (s.cluster c.toNat).arr.free = false) :
    exec (.performPoint c) s = .next s := by
  cases hh : (s.cluster c.toNat).arr.holder with
  | none => simp only [exec, execPerformPoint, hh]
  | some k => simp only [exec, execPerformPoint, hh, hf, Bool.not_false, if_true]

theorem execLeaseGrant_of_waiter {k : Nat} (hh : (s.cluster c.toNat).arr.holder = none)
    (hk : nextHolder (s.cluster c.toNat).arr.last (s.leaseWaiters c.toNat) = some k) :
    exec (.leaseGrant c) s =
      .next ((s.modArr c.toNat fun m =>
          { MatArray.reset with holder := some (BitVec.ofNat 2 k), last := m.last }).modTile
        (4 * c.toNat + k) fun x => { x with lease := some true }) := by
  simp only [exec, execLeaseGrant, hh, hk]
  rfl

theorem endRun_arr (s : State) (c : Nat) {h : BitVec 2} (hh : (s.cluster c).arr.holder = some h)
    (he : (s.cluster c).arr.spent = true ∨ 32768 ≤ (s.cluster c).arr.age) (hp : (s.cluster c).arr.perfs = []) :
    ((s.endRun c).cluster c).arr = { (s.cluster c).arr with holder := none, last := h, free := false, cmds := [] } := by
  simp [State.endRun, State.modArr, hh, he, hp]

theorem execArrayParityError_of_holder (hh : (s.cluster c.toNat).arr.holder = some h) :
    exec (.arrayParityError c) s =
      .next (((s.killByEngine (4 * c.toNat + h.toNat) 2 0 0x12).modArr c.toNat fun _ =>
        { MatArray.reset with last := h }).clusterError c.toNat 1) := by
  simp only [exec, execArrayParityError, hh]
  rfl

end

/-! ### A pending count-mode event (R168) -/

theorem Tile.lateTrap_of_cons {x : Tile} {l : Late} {r : List Late} (hv : x.th.lvl = .tl0) (hl : x.late = l :: r) :
    x.lateTrap = some (⟨l.cause, l.addr, 1#8 <<< l.pos, false, false, true⟩,
      { x with late := r.filter fun e => e.at_ != l.at_ }) := by
  simp only [Tile.lateTrap, Tile.takeLate, hv, hl, if_true, Option.map_some]

theorem execCountEventTrap_of_pending {s u : State} {t : BitVec 11} {l : Late} {r : List Late}
    (hb : (s.atBoundary (.tile t)).land (.tile t) = u)
    (hr : (s.tile t.toNat).run = .running) (hf : (s.tile t.toNat).fill = none)
    (hd : (s.tile t.toNat).th.late = false) (hu : (u.tile t.toNat).run = .running)
    (hv : (u.tile t.toNat).th.lvl = .tl0) (hl : (u.tile t.toNat).late = l :: r) :
    exec (.countEventTrap t) s =
      .next ((({ u with iss := { Issue.reset with agent := .tile t } } : State).modTile t.toNat fun x =>
          { x with late := r.filter fun e => e.at_ != l.at_ }).takeTrap (u.tile t.toNat).th.b0.pc
        ⟨l.cause, l.addr, 1#8 <<< l.pos, false, false, true⟩) := by
  have hpc : (u.tile t.toNat).th.bank.pc = (u.tile t.toNat).th.b0.pc := by simp only [Thread.bank, hv]
  simp only [exec, execCountEventTrap, hr, hf, hd, Bool.not_false, and_self, if_true, hb, Tile.lateTrap_of_cons hv hl,
    if_pos hu, hpc]
  rfl

/-! ### The dictionary (R174, R175, R187, R391) -/

/-- A granule already read is not read again. -/
theorem fillRead_of_got {s : State} {t g : Nat} {f : Fill} (hf : (s.tile t).fill = some f)
    (hg : (ffind f.got g).isSome = true) : s.fillRead t g = s := by
  have hn : (ffind f.got g).isNone = false := by simpa using hg
  simp only [State.fillRead, hf, hn, Bool.false_eq_true, and_false, if_false]

theorem foldl_fillRead_of_got {s : State} {t : Nat} {f : Fill} (hf : (s.tile t).fill = some f) {gs : List Nat}
    (hg : ∀ g ∈ gs, (ffind f.got g).isSome = true) : gs.foldl (fun s g => s.fillRead t g) s = s := by
  induction gs with
  | nil => rfl
  | cons g gs ih =>
    rw [List.foldl_cons, fillRead_of_got hf (hg g (List.mem_cons_self ..))]
    exact ih fun k hk => hg k (List.mem_cons_of_mem _ hk)

theorem fillBank_bank (s : State) (t : Nat) (k : Bool) (b : DictBank) (m : Nat) (opens : Bool) :
    ((s.fillBank t k b m opens).tile t).bank k = b := by
  simp only [State.fillBank, State.tile_modTile_self]
  cases opens <;> cases k <;> rfl

theorem tile_clean (s : State) (p : Place → Bool) (t : Nat) : (s.clean p).tile t = s.tile t := by
  rw [State.clean]
  rfl

/-- A fill that has read its whole image writes the bank and its tag, and is over. -/
theorem fillDone_of_read {s : State} {t : Nat} {f : Fill} (hf : (s.tile t).fill = some f)
    (ha : (s.tile t).alive = true) (hg : ∀ g < f.granules, (ffind f.got g).isSome = true) :
    ((s.fillDone t).tile t).fill = none ∧ ((s.fillDone t).tile t).bank f.bank = ⟨f.entries, f.tag, none⟩ := by
  have hread : (List.range f.granules).foldl (fun s g => s.fillRead t g) s = s :=
    foldl_fillRead_of_got hf fun g hg' => hg g (List.mem_range.mp hg')
  let n := ((s.tile t).th.bankAt .tl0).n - 1
  have hx : (s.fillDone t).tile t =
      { (s.fillBank t f.bank ⟨f.entries, f.tag, none⟩ n f.opens).tile t with fill := none } := by
    simp only [State.fillDone, hf, hread, ha, Bool.not_true, Bool.false_eq_true, if_false]
    rw [State.cleanBank, tile_clean, State.tile_modTile_self]
  rw [hx]
  exact ⟨rfl, fillBank_bank s t f.bank _ n f.opens⟩

theorem debugRead_at (s : State) (t : BitVec 11) {off : Nat} (h : off < 0x100) :
    s.debugRead (debugBase t + off) true = some (s.debugReg t.toNat off) := by
  have ht := t.isLt
  have hin : 0x01000000 ≤ debugBase t + off ∧ debugBase t + off < 0x01000000 + 0x100 * 2048 := by
    unfold debugBase
    omega
  have hq : (debugBase t + off - 0x01000000) / 0x100 = t.toNat := by
    unfold debugBase
    omega
  have hm : (debugBase t + off - 0x01000000) % 0x100 = off := by
    unfold debugBase
    omega
  rw [State.debugRead, if_pos ⟨rfl, hin⟩, hq, hm]

theorem debugRead_refused (s : State) (a : Nat) : s.debugRead a false = none := if_neg fun h => Bool.noConfusion h.1

/-- Settles O26: each event in the case its conditions name. -/
theorem arrayEvents : Obligations.ArrayEvents := by
  refine ⟨fun s a c h k t l r => ⟨execResultLanding_of_not_late, execResultLanding_of_late, execPerformPoint_of_free,
    execPerformPoint_of_held, execLeaseGrant_of_waiter, fun hh he hp => ⟨s.endRun c.toNat, rfl, ?_⟩,
    execArrayParityError_of_holder, execCountEventTrap_of_pending rfl⟩, fun s t f x => ⟨fun hf ha hg => ?_, rfl, rfl⟩,
    fun s t => ⟨?_, debugRead_refused s⟩⟩
  · rw [endRun_arr s c.toNat hh he hp]
    exact ⟨rfl, rfl⟩
  · obtain ⟨hn, hb⟩ := fillDone_of_read hf ha hg
    exact ⟨s.fillDone t.toNat, rfl, hn, hb⟩
  · exact ⟨debugRead_at s t (by decide), debugRead_at s t (by decide), debugRead_at s t (by decide),
      debugRead_at s t (by decide), debugRead_at s t (by decide), debugRead_at s t (by decide),
      debugRead_at s t (by decide)⟩

end Sys2Proof.Machine
end

section
/-! The integer functions by their words (R82). -/

namespace Sys2Proof.Machine

theorem mulHigh_eq_extract (x y : Word) :
    mulHigh x y = (x.signExtend 128 * y.signExtend 128).extractLsb' 64 64 := by
  have hp : x.signExtend 128 * y.signExtend 128 = BitVec.ofInt 128 (x.toInt * y.toInt) := (BitVec.ofInt_mul _ _).symm
  apply BitVec.eq_of_toNat_eq
  rw [hp, mulHigh, BitVec.extractLsb'_toNat, BitVec.toNat_ofInt, BitVec.toNat_ofInt, Nat.shiftRight_eq_div_pow]
  omega

theorem toInt_minSigned (x y : Word) : (minSigned x y).toInt = min x.toInt y.toInt := by
  unfold minSigned
  split
  next h => exact (min_eq_left h).symm
  next h => exact (min_eq_right (not_le.mp h).le).symm

theorem toInt_maxSigned (x y : Word) : (maxSigned x y).toInt = max x.toInt y.toInt := by
  unfold maxSigned
  split
  next h => exact (max_eq_right h).symm
  next h => exact (max_eq_left (not_le.mp h).le).symm

theorem leadingZeros_zero : leadingZeros 0 = 64 := if_pos rfl

/-- The highest one bit of a word stands below its leading zeros. -/
theorem leadingZeros_of_ne_zero {x : Word} (h : x ≠ 0) : leadingZeros x < 64 ∧ 63 - leadingZeros x = x.toNat.log2 := by
  have hlog : x.toNat.log2 < 64 := (Nat.log2_lt (BitVec.toNat_ne.mp h)).mpr x.isLt
  rw [leadingZeros, if_neg h]
  omega

theorem getLsbD_above_log2 {x : Word} {k : Nat} (hk : x.toNat.log2 < k) : x.getLsbD k = false :=
  Nat.testBit_lt_two_pow (Nat.lt_log2_self.trans_le (Nat.pow_le_pow_right (by decide) hk))

theorem onesOf_eq_length_filter (x : Word) (n : Nat) : onesOf x n = ((List.range n).filter fun k => x.getLsbD k).length := by
  induction n with
  | zero => rfl
  | succ n ih =>
    rw [onesOf, ih, List.range_succ, List.filter_append, List.length_append, Nat.add_comm]
    cases h : x.getLsbD n <;> simp [h]

/-- Settles O3: the functions word by word. -/
theorem integerFunctions : Obligations.IntegerFunctions := by
  refine fun x y => ⟨mulHigh_eq_extract x y, toInt_minSigned x y, toInt_maxSigned x y, fun hx => ?_, fun hx => ?_,
    onesOf_eq_length_filter x 64⟩
  · rw [hx, leadingZeros_zero]
  · obtain ⟨hlt, hlog⟩ := leadingZeros_of_ne_zero hx
    rw [hlog]
    exact ⟨hlt, Nat.testBit_log2 (BitVec.toNat_ne.mp hx), fun k => getLsbD_above_log2⟩

end Sys2Proof.Machine
end

section
/-! NOP: its two words, and that it has no effect (R75, R108). -/

namespace Sys2Proof.Machine

theorem toNat_and_stop (w : BitVec 32) : (w &&& 0x7FFFFFFF).toNat = w.toNat % 2 ^ 31 := by
  rw [BitVec.toNat_and]
  exact Nat.and_two_pow_sub_one_eq_mod w.toNat 31

/-- A word decodes to NOP exactly when it is NOP's, but for the stop bit. -/
theorem decodeSlot_nop_iff (w : BitVec 32) : decodeSlot w = .ok .nop ↔ w = 0x18000000 ∨ w = 0x98000000 := by
  constructor
  · intro h
    have he : encode .nop = some (w &&& 0x7FFFFFFF) := (decodedWordsAreUnique.1 w .nop h).2
    have hn : encode .nop = some 0x18000000 := by decide
    have hw : w.toNat % 2 ^ 31 = 0x18000000 := toNat_and_stop w ▸ congrArg BitVec.toNat (Option.some.inj (he.symm.trans hn))
    bv_omega
  · rintro (rfl | rfl)
    · exact (slotRoundTrip .nop _ rfl rfl).1
    · exact (slotRoundTrip .nop 0x18000000 rfl rfl).2

/-- Settles O54: the words by the round trip, the effect by the frame of a slot that marks nothing. -/
theorem nopWords : Obligations.NopWords := by
  refine ⟨decodeSlot_nop_iff, fun s t hp ht => ?_⟩
  have he : t = s.marks .nop := eq_effect_of_commit (effect := fun u => u) hp ht
  rw [he, marks_nop]
  exact ⟨rfl, rfl, fun _ _ => rfl⟩

end Sys2Proof.Machine
end

section
/-! Returning from a trap: the level below runs again at EPC as entry left it (R116, R319, R322, R325). -/

namespace Sys2Proof.Machine

/-- A latch of a level that runs again stands where its result landed at exactly the resumed cycle (R325). -/
theorem vget_resume_lat (b : Bank) (pc : Word) {k : Nat} (hk : k < 8) :
    vget (b.resume pc).lat k = if (vget b.lat k).landed = b.n then vget b.lat k else ⟨0, 0⟩ := by
  have h : vget (b.resume pc).lat k = (b.resume pc).lat[k] := by simp [vget, hk]
  rw [h, Bank.resume, Vector.getElem_ofFn]

section
variable {t : Thread}

theorem Thread.bank_of_tl0 (h : t.lvl = .tl0) : t.bank = t.b0 := by
  rw [Thread.bank, h]

theorem Thread.tret_of_tl1 (h : t.lvl = .tl1) :
    t.tret = { t with lvl := .tl0, b0 := t.b0.resume (t.tr1.epc &&& ~~~3#64) } := by
  rw [Thread.tret, h]

theorem Thread.tret_of_tl2 (h : t.lvl = .tl2) :
    t.tret = { t with lvl := .tl1, b1 := t.b1.resume (t.tr2.epc &&& ~~~3#64) } := by
  rw [Thread.tret, h]

/-- Entry of TL1 and the return of its handler change TL0 by its resumption alone. -/
theorem Thread.tret_enter_tl1 (epc : Word) (f : FaultInfo) (q : Word) :
    (t.enter .tl1 epc f q).tret = { t with
      lvl := .tl0
      b0 := t.b0.resume (epc &&& ~~~3#64)
      b1 := t.b1.enter t.tr1.hbase
      tr1 := t.tr1.enter t.lvl epc f q } := by
  rw [Thread.tret_of_tl1 rfl]
  rfl

theorem Thread.getS_congr {u : Thread} (hs : u.s = t.s) (hh : u.bank.hi = t.bank.hi) (i : BitVec 5) : u.getS i = t.getS i := by
  rw [Thread.getS, Thread.getS, hs, hh]

theorem Thread.getP_congr {u : Thread} (hp : u.bank.p = t.bank.p) (i : BitVec 3) : u.getP i = t.getP i := by
  rw [Thread.getP, Thread.getP, hp]

end

/-- Settles O46: a return is the resumption of the level below, which keeps all of it but its PC and its latches. -/
theorem trapReturn : Obligations.TrapReturn := by
  refine fun t epc f q => ⟨fun h => ?_, fun h => ?_, fun h => ?_⟩
  · rw [Thread.tret_of_tl1 h]
    exact ⟨rfl, rfl, rfl, rfl, fun _ => vget_resume_lat t.b0 _⟩
  · rw [Thread.tret_of_tl2 h]
    exact ⟨rfl, rfl, rfl, rfl, fun _ => vget_resume_lat t.b1 _⟩
  · intro w
    have hw : w = _ := Thread.tret_enter_tl1 epc f q
    have hb : w.bank = t.bank.resume (epc &&& ~~~3#64) := by
      rw [hw, Thread.bank_of_tl0 h]
      rfl
    have hs : w.s = t.s := by rw [hw]
    refine ⟨by rw [hw], by rw [hb]; rfl, Thread.getS_congr hs (by rw [hb]; rfl), Thread.getP_congr (by rw [hb]; rfl), ?_⟩
    rw [hb, hw]
    exact ⟨rfl, rfl, rfl, rfl, rfl, rfl, rfl, rfl, rfl⟩

end Sys2Proof.Machine
end

section
/-! The back edge of a loop, one entry of the stack at a time (R98, R100). -/

namespace Sys2Proof.Machine

/-! ### Stage predicates -/

theorem getLsbD_stageMask (n : Nat) {j : Nat} (hj : j < 8) : (BitVec.ofNat 8 (2 ^ (n + 1) - 1)).getLsbD j = decide (j ≤ n) := by
  rw [BitVec.getLsbD_ofNat, Nat.testBit_two_pow_sub_one, decide_eq_true hj, Bool.true_and]
  exact decide_eq_decide.mpr Nat.lt_succ_iff

/-- A value under a mask over another one. -/
theorem getLsbD_masked (x y m : BitVec 8) {j : Nat} (hj : j < 8) :
    (x &&& m ||| y &&& ~~~m).getLsbD j = if m.getLsbD j then x.getLsbD j else y.getLsbD j := by
  rw [BitVec.getLsbD_or, BitVec.getLsbD_and, BitVec.getLsbD_and, BitVec.getLsbD_not, decide_eq_true hj]
  cases m.getLsbD j <;> simp

/-- Stage j takes the predicate of the stage below, stage 0 the new iteration; a predicate past the last stage stays. -/
theorem getLsbD_shiftStages (ps : BitVec 8) (g : BitVec 3) (more : Bool) {j : Nat} (hj : j < 8) :
    (shiftStages ps g more).getLsbD j =
      if j = 0 then more else ps.getLsbD (if j ≤ g.toNat then j - 1 else j) := by
  rw [shiftStages, getLsbD_masked _ _ _ hj, getLsbD_stageMask g.toNat hj, BitVec.getLsbD_or, BitVec.getLsbD_shiftLeft]
  cases j with
  | zero => cases more <;> simp
  | succ j =>
    have h1 : (if more then 1 else 0 : BitVec 8).getLsbD (j + 1) = false := by cases more <;> simp
    simp only [h1, Bool.or_false]
    by_cases hg : j + 1 ≤ g.toNat <;> simp [hg, hj]

/-- No stage runs after a back edge that starts no iteration and finds no stage below the last one running. -/
theorem shiftStages_drained_iff (ps : BitVec 8) (g : BitVec 3) (more : Bool) :
    shiftStages ps g more &&& BitVec.ofNat 8 (2 ^ (g.toNat + 1) - 1) = 0 ↔
      more = false ∧ ∀ j < g.toNat, ps.getLsbD j = false := by
  have hbit {j : Nat} (hj : j < 8) : (shiftStages ps g more &&& BitVec.ofNat 8 (2 ^ (g.toNat + 1) - 1)).getLsbD j =
      ((if j = 0 then more else ps.getLsbD (if j ≤ g.toNat then j - 1 else j)) && decide (j ≤ g.toNat)) := by
    rw [BitVec.getLsbD_and, getLsbD_shiftStages ps g more hj, getLsbD_stageMask g.toNat hj]
  constructor
  · intro h
    rw [h] at hbit
    refine ⟨by simpa using hbit (j := 0) (by decide), fun j hj => ?_⟩
    have hg : j + 1 ≤ g.toNat := hj
    simpa [hg] using hbit (j := j + 1) (by omega)
  · rintro ⟨rfl, h⟩
    refine BitVec.eq_of_getLsbD_eq fun j hj => ?_
    have h0 : (0 : BitVec 8).getLsbD j = false := BitVec.getLsbD_zero
    rw [hbit hj, h0]
    cases j with
    | zero => rfl
    | succ j =>
      by_cases hg : j + 1 ≤ g.toNat
      · simp [hg, h j hg]
      · simp [hg]

/-! ### The back-edge test, entry by entry (R100) -/

theorem vset_vset {α : Type} {n : Nat} (v : Vector α n) (i : Nat) (x y : α) : vset (vset v i x) i y = vset v i y := by
  simp [vset]

section
variable {pc next : Word} {cut : Bool} {e : LoopEntry} {r : List LoopEntry} {li : Vector Word 6} {ps : BitVec 8}

theorem backEdge_of_ne (h : e.endPc ≠ pc) : backEdge pc next cut (e :: r) li ps = (e :: r, li, ps, next) := by
  rw [backEdge, if_pos h]

theorem backEdge_loop_trip (h : e.endPc = pc) (hp : e.pipelined = false) (h0 : e.rem ≠ 0) :
    backEdge pc next cut (e :: r) li ps =
      ({ e with rem := e.rem - 1 } :: r, vset li r.length (vget li r.length + 1), ps, e.start) := by
  simp only [backEdge, h, hp, h0, ne_eq, not_true_eq_false, not_false_eq_true, Bool.false_eq_true, if_false, if_true]

theorem backEdge_loop_end (h : e.endPc = pc) (hp : e.pipelined = false) (h0 : e.rem = 0) :
    backEdge pc next cut (e :: r) li ps = backEdge pc next cut r (vset li r.length 0) ps := by
  simp only [backEdge, h, hp, h0, vset_vset, ne_eq, not_true_eq_false, Bool.false_eq_true, if_false]

/-- Whether no iteration of a LOOPP is left and no stage below its last one runs. -/
def LoopEntry.Drained (e : LoopEntry) (ps : BitVec 8) : Prop := e.rem = 0 ∧ ∀ j < e.stages.toNat, ps.getLsbD j = false

/-- Whether the back edge of a LOOPP starts an iteration. -/
def LoopEntry.more (e : LoopEntry) (cut : Bool) : Bool := e.rem != 0 && !cut

/-- The iterations left after the back edge of a LOOPP. -/
def LoopEntry.left (e : LoopEntry) (cut : Bool) : BitVec 32 := if e.more cut then e.rem - 1 else e.rem

/-- The test of the model for the end of a LOOPP. -/
theorem pipelined_ends_iff :
    (shiftStages ps e.stages (e.more cut) &&& BitVec.ofNat 8 (2 ^ (e.stages.toNat + 1) - 1) = 0 ∧ e.left cut = 0) ↔
      e.Drained ps := by
  rw [shiftStages_drained_iff, LoopEntry.Drained, LoopEntry.left]
  cases hm : e.more cut with
  | false => simp [and_comm]
  | true =>
    have h0 : e.rem ≠ 0 := by
      intro h
      simp [LoopEntry.more, h] at hm
    simp only [h0, Bool.true_eq_false, false_and]

theorem backEdge_loopp_end (h : e.endPc = pc) (hp : e.pipelined = true) (hd : e.Drained ps) :
    backEdge pc next cut (e :: r) li ps = backEdge pc next cut r (vset li r.length 0) e.saved := by
  have ht := (pipelined_ends_iff (cut := cut)).mpr hd
  rw [LoopEntry.left, LoopEntry.more] at ht
  simp only [backEdge, h, hp, ne_eq, not_true_eq_false, if_false, if_true, if_pos ht, vset_vset]

theorem backEdge_loopp_trip (h : e.endPc = pc) (hp : e.pipelined = true) (hd : ¬e.Drained ps) :
    backEdge pc next cut (e :: r) li ps =
      ({ e with rem := e.left cut } :: r, vset li r.length (vget li r.length + 1), shiftStages ps e.stages (e.more cut),
        e.start) := by
  have ht := mt (pipelined_ends_iff (cut := cut)).mp hd
  rw [LoopEntry.left, LoopEntry.more] at ht
  simp only [backEdge, h, hp, ne_eq, not_true_eq_false, if_false, if_true, if_neg ht]
  rfl

end

/-! ### The end of a bundle at the back edge -/

theorem Thread.endTest_of_tl0 {th : Thread} (hl : th.lvl = .tl0) (pc next : Word) (cut : Bool) :
    let b := backEdge pc next cut th.loops th.li th.ps
    th.endTest pc next cut = ({ th with loops := b.1, li := b.2.1, ps := b.2.2.1 }, b.2.2.2) :=
  if_neg (not_not.mpr hl)

section
variable {s : State} {t : BitVec 11}

/-- The back-edge test of the bundle in issue of tile t over a stack, loop indexes and stage predicates. -/
def State.backEdgeOf (s : State) (t : BitVec 11) (l : List LoopEntry) (li : Vector Word 6) (ps : BitVec 8) :
    List LoopEntry × Vector Word 6 × BitVec 8 × Word :=
  backEdge s.iss.pc s.iss.nextPc (s.tile t.toNat).cutPending l li ps

variable (hl : (s.tile t.toNat).th.lvl = .tl0)
include hl

/-- The loop state and the PC after a plain end are those of the back-edge test. -/
theorem afterPlain_of_backEdge {l : List LoopEntry} {li : Vector Word 6} {ps : BitVec 8} {pc : Word}
    (hb : s.backEdgeOf t (s.tile t.toNat).th.loops (s.tile t.toNat).th.li (s.tile t.toNat).th.ps = (l, li, ps, pc)) :
    (s.afterPlain t).bank.pc = pc ∧ (s.afterPlain t).loops = l ∧ (s.afterPlain t).li = li ∧ (s.afterPlain t).ps = ps := by
  rw [State.backEdgeOf] at hb
  rw [State.afterPlain, State.loopsEnd, Thread.endTest_of_tl0 hl, hb]
  exact ⟨Thread.tick_pc .., Thread.tick_loopState ..⟩

/-- Where the top loop ends the bundle ends as it would with the loops below alone. -/
theorem afterPlain_of_loop_end {r : List LoopEntry} {k : Nat} {ps : BitVec 8}
    (hb : s.backEdgeOf t (s.tile t.toNat).th.loops (s.tile t.toNat).th.li (s.tile t.toNat).th.ps =
      s.backEdgeOf t r (vset (s.tile t.toNat).th.li k 0) ps) :
    s.afterPlain t = (s.modTile t.toNat fun x => { x with th := { x.th with
      loops := r, li := vset x.th.li k 0, ps := ps } }).afterPlain t := by
  simp only [State.backEdgeOf] at hb
  simp only [State.afterPlain, State.loopsEnd, State.tile_modTile_self, State.modTile_iss, State.modTile_cycle]
  rw [Thread.endTest_of_tl0 hl, Thread.endTest_of_tl0 (by exact hl), hb]

end

theorem finishBundle_thread {s : State} {t : BitVec 11} (ha : s.iss.agent = .tile t) (hc : s.iss.control = .none)
    (hw : s.iss.writes = []) (hr : (s.tile t.toNat).run ≠ .stopped) :
    (s.finishBundle.tile t.toNat).th = s.afterPlain t := by
  rw [finishBundle_of_plain ha hw hr (.inl hc), endWith_tile]

/-- Settles O50: the test of the top entry decides between the next trip and the loops below. -/
theorem backEdges : Obligations.BackEdges := by
  intro s t e r ha hc hw hr hl hloops hk x th k trip ends more drained
  have hth : th = s.afterPlain t := finishBundle_thread ha hc hw hr
  have hb : s.backEdgeOf t x.th.loops x.th.li x.th.ps = backEdge s.iss.pc s.iss.nextPc x.cutPending (e :: r) x.th.li x.th.ps := by
    rw [State.backEdgeOf, hloops]
  have htrip {rem : BitVec 32} {ps : BitVec 8} (h : backEdge s.iss.pc s.iss.nextPc x.cutPending (e :: r) x.th.li x.th.ps =
      ({ e with rem := rem } :: r, vset x.th.li k (vget x.th.li k + 1), ps, e.start)) : trip rem ∧ th.ps = ps := by
    obtain ⟨hpc, hlo, hli, hps⟩ := afterPlain_of_backEdge hl (hb.trans h)
    refine ⟨⟨?_, ?_, ?_, ?_⟩, ?_⟩ <;> rw [hth]
    · exact hpc
    · exact hlo
    · rw [hli, vget_vset_self _ _ _ hk]
    · intro j hj
      rw [hli, vget_vset_ne _ _ _ _ hj]
    · exact hps
  have hends {ps : BitVec 8} (h : backEdge s.iss.pc s.iss.nextPc x.cutPending (e :: r) x.th.li x.th.ps =
      backEdge s.iss.pc s.iss.nextPc x.cutPending r (vset x.th.li k 0) ps) : ends ps := by
    refine (hth.trans (afterPlain_of_loop_end hl (hb.trans h))).trans (finishBundle_thread ?_ ?_ ?_ ?_).symm
    · exact ha
    · exact hc
    · exact hw
    · rw [State.tile_modTile_self]
      exact hr
  have hmore : e.more x.cutPending = true ↔ more := by simp [LoopEntry.more, more]
  refine ⟨fun he => ?_, fun he hp => ⟨fun h0 => ?_, fun h0 => ?_⟩, fun he hp => ⟨fun hd => ?_, fun hd => ?_⟩⟩
  · rw [hth, hloops]
    exact afterPlain_of_backEdge hl (hb.trans (backEdge_of_ne he))
  · exact htrip (backEdge_loop_trip he hp h0)
  · exact hends (backEdge_loop_end he hp h0)
  · exact hends (backEdge_loopp_end he hp hd)
  · obtain ⟨ht, hps⟩ := htrip (backEdge_loopp_trip he hp hd)
    refine ⟨fun h => ?_, fun h => ?_, fun j hj => ?_⟩
    · rwa [LoopEntry.left, if_pos (hmore.mpr h)] at ht
    · rwa [LoopEntry.left, if_neg (mt hmore.mp h)] at ht
    · rw [hps, getLsbD_shiftStages _ _ _ hj]
      split
      · exact hmore
      · rfl

end Sys2Proof.Machine
end

section
/-! A slot of the common frame by the conditions of its effect: where its check passes and its effect is another one's, and
where it waits (R62, R63, R70, R72). -/

namespace Sys2Proof.Machine

open Sys2Proof.Claims

section
variable {i : Instr} {check : State → Verdict} {effect : State → State} {c : State → Prop}
  (he : ∀ s, exec i s = issueSlot i check effect s)
include he

/-- A slot whose own check passes and whose effect is f where c holds, c not depending on what a slot marks. -/
theorem does_of_issueSlot_where {f : State → State} (hg : ∀ s, c s → check s = .go) (hm : ∀ s, c s → c (s.marks i))
    (hf : ∀ s, c s → effect s = f s) : Does i c f := by
  refine ⟨finds_of_issueSlot he hg, fun s hp hc => ?_, fun s hs hc => ?_⟩
  · rw [he, issueSlot_commit i check effect s hp, hf _ (hm s hc)]
  · rw [he, issueSlot_go i check effect s hs.1 hs.2 (hg _ hc), hf _ (hm _ hc)]

/-- A slot that its own check makes wait registers its request. -/
theorem waits_of_issueSlot {r : State → Option WaitReq} (hw : ∀ s, c s → check s = .wait (r s)) : Waits i c r := by
  refine ⟨finds_of_issueSlot he hw, fun s hs hc => ?_⟩
  rw [he, issueSlot_wait i check effect s _ hs.1 hs.2 (hw _ hc)]

end

end Sys2Proof.Machine
end

section
/-! The scalar integer slots (R82 to R87): each is the mould of a scalar result, or of the divide group, with its own
latency, destination and value. -/

namespace Sys2Proof.Machine

open Sys2Proof.Claims

section
variable {i : Instr} {lat : Nat} {n : Bool} {d : SDst} {v : State → Word}

theorem writesScalar_of_scalarOp (he : ∀ s, exec i s = scalarOp i lat n d v s) : WritesScalar i lat n d v :=
  does_of_issueSlot he fun _ _ => rfl

/-- The slots whose result is a truth value. -/
theorem writesScalar_of_truth {q : State → Prop} [DecidablePred q]
    (he : ∀ s, exec i s = scalarOp i lat n d (fun u => truth (decide (q u))) s) :
    WritesScalar i lat n d fun u => if q u then 1 else 0 := by
  have hv (u : State) : truth (decide (q u)) = if q u then 1 else 0 := by
    by_cases h : q u <;> simp [truth, h]
  exact funext hv ▸ writesScalar_of_scalarOp he

end

/-- Settles O2: each slot is the mould of a scalar result; MOVSB and MOVC push the write of their register alone. -/
theorem scalarIntegerSlots : Obligations.ScalarIntegerSlots := by
  refine ⟨fun n d dw a b i7 i14 imm k p => ?_, fun a c => ?_⟩
  · refine ⟨?_, ?_, ?_, ?_, ?_, ?_, ?_, ?_, ?_, ?_, ?_, ?_, ?_, ?_, writesScalar_of_truth fun _ => rfl,
      writesScalar_of_truth fun _ => rfl, writesScalar_of_truth fun _ => rfl, ?_, ?_, ?_, ?_, ?_, ?_, ?_, ?_, ?_, ?_,
      writesScalar_of_truth fun _ => rfl, writesScalar_of_truth fun _ => rfl⟩
    all_goals exact writesScalar_of_scalarOp fun _ => rfl
  · exact ⟨does_of_issueSlot (fun _ => rfl) fun _ _ => rfl, does_of_issueSlot (fun _ => rfl) fun _ _ => rfl⟩

/-! ### The divide group (R84) -/

theorem divSigned_eq_sdiv (x y : Word) : divSigned x y = x.sdiv y := by
  apply BitVec.eq_of_toInt_eq
  rw [divSigned, BitVec.toInt_ofInt, BitVec.toInt_sdiv]

theorem ofNat_div_eq_udiv (x y : Word) : BitVec.ofNat 64 (x.toNat / y.toNat) = x / y := by
  apply BitVec.eq_of_toNat_eq
  rw [BitVec.toNat_ofNat, BitVec.toNat_udiv, Nat.mod_eq_of_lt ((Nat.div_le_self _ _).trans_lt x.isLt)]

theorem remSigned_eq_srem (x y : Word) : remSigned x y = x.srem y := by
  rw [remSigned, ← BitVec.toInt_srem, BitVec.ofInt_toInt]

section
variable {i : Instr} {n : Bool} {d : BitVec 5} {a b : SOp} {f : Word → Word → Word}
  (he : ∀ s, exec i s = divideOp i n d a b f s)
include he

theorem does_of_divideOp {g : Word → Word → Word} (hf : ∀ x y, f x y = g x y) :
    Does i (fun u => u.readS b ≠ 0) fun u => u.dstS 12 n (.reg d) (g (u.readS a) (u.readS b)) := by
  obtain rfl : f = g := funext₂ hf
  exact does_of_issueSlot he fun _ h => checkThat_true _ (bne_iff_ne.mpr h)

theorem faults_of_divideOp : Faults i (fun u => u.readS b = 0) 0x05 (fun u => u.iss.pc) false :=
  faults_of_issueSlot he fun _ h => checkThat_false _ (bne_eq_false_iff_eq.mpr h)

end

theorem State.threadOf_tile (s : State) (t : BitVec 11) : s.threadOf (.tile t) = (s.tile t.toNat).th := rfl

@[simp] theorem holdArray_iss (s : State) (t : Nat) : (s.holdArray t).iss = s.iss := by
  obtain ⟨k, h⟩ := holdArray_eq s t
  rw [h]
  rfl

/-- Of the traps that enter a level FP_INVALID alone sets a flag of FPCTL (R30, R84). -/
theorem takeTrap_fpctl {s : State} {t : BitVec 11} {m : Lvl} {epc : Word} {f : FaultInfo} (h : s.iss.agent = .tile t)
    (hr : (s.tile t.toNat).th.route f.cause = some m) (hc : f.cause ≠ 0x11) :
    (s.takeTrap epc f).thread.fpctl = s.thread.fpctl := by
  have hi : (s.takeTrap epc f).iss = s.iss := by
    rw [takeTrap_eq_enter h hr, State.modTile_iss, holdArray_iss, stickyInvalid_iss]
  obtain ⟨-, -, -, -, hf⟩ := Thread.enter_keeps ((s.tile t.toNat).th.raised f.cause) m epc f ((s.tile t.toNat).q0.headD 0)
  rw [State.thread, hi, State.thread, h, State.threadOf_tile, State.threadOf_tile, takeTrap_tile_self h hr]
  exact hf.trans (if_neg hc)

/-- Settles O4: the group is one mould with three functions; DIVZERO is no FP_INVALID. -/
theorem divideGroup : Obligations.DivideGroup := by
  intro n d a b
  have hdiv (s : State) : exec (.div n d a b) s = divideOp (.div n d a b) n d a b divSigned s := rfl
  have hdivu (s : State) : exec (.divu n d a b) s =
      divideOp (.divu n d a b) n d a b (fun x y => BitVec.ofNat 64 (x.toNat / y.toNat)) s := rfl
  have hrem (s : State) : exec (.rem n d a b) s = divideOp (.rem n d a b) n d a b remSigned s := rfl
  refine ⟨does_of_divideOp hdiv divSigned_eq_sdiv, does_of_divideOp hdivu ofNat_div_eq_udiv,
    does_of_divideOp hrem remSigned_eq_srem, faults_of_divideOp hdiv, faults_of_divideOp hdivu, faults_of_divideOp hrem,
    fun s t pc f h hc hr => ?_⟩
  obtain ⟨m, hm⟩ := Option.isSome_iff_exists.mp hr
  exact takeTrap_fpctl h (hc ▸ hm) (hc ▸ by decide)

end Sys2Proof.Machine
end

section
/-! The scalar float slots and the predicate slots (R88 to R93): the FP_INVALID check, and the moulds of a float result, a
comparison and a predicate. -/

namespace Sys2Proof.Machine

open Sys2Proof.Claims

section
variable {s : State} {f : Flags}

theorem fpCheck_go (h : s.ivm = true ∨ f &&& fIV = 0) : s.fpCheck f = .go :=
  checkThat_true _ (by simpa using h)

theorem fpCheck_trap (hi : s.ivm = false) (hf : f &&& fIV ≠ 0) : s.fpCheck f = s.faultPc cFP_INVALID :=
  checkThat_false _ (by simpa [hi] using hf)

end

section
variable {i : Instr} {n : Bool}

/-- A slot whose own check is that of FP_INVALID (R30). -/
theorem floats_of_issueSlot {fl : State → Flags} {effect : State → State}
    (he : ∀ s, exec i s = issueSlot i (fun u => u.fpCheck (fl u)) effect s) : Floats i fl effect :=
  ⟨does_of_issueSlot he fun _ h => fpCheck_go h, faults_of_issueSlot he fun _ ⟨hi, hf⟩ => fpCheck_trap hi hf⟩

theorem writesFloat_of_floatOp {lat : Nat} {d : SDst} {r : State → Nat × Flags}
    (he : ∀ s, exec i s = floatOp i lat n d r s) : WritesFloat i lat n d r :=
  floats_of_issueSlot he

theorem floats_of_compareOp {p : BitVec 3} {r : State → Bool × Flags} (he : ∀ s, exec i s = compareOp i n p r s) :
    Floats i (fun u => (r u).2) fun u => u.dstFP 2 n p (r u) :=
  floats_of_issueSlot he

theorem does_of_predOp {p : BitVec 3} {b : State → Bool} (he : ∀ s, exec i s = predOp i n p b s) :
    Does i free fun u => u.dstP 1 n p (b u) :=
  does_of_issueSlot he fun _ _ => rfl

end

/-- FP_INVALID sets the sticky IV of the issuing thread (R30). -/
theorem stickyInvalid_fpctl (s : State) : (s.stickyInvalid 0x11).thread.fpctl = s.thread.fpctl ||| 0x10 := by
  rw [State.stickyInvalid, if_pos (show (0x11 : BitVec 8) = cFP_INVALID from rfl), State.thread_modThread]

/-- Settles O5: each slot is the mould of a float result or of a comparison. -/
theorem scalarFloatSlots : Obligations.ScalarFloatSlots := by
  refine ⟨fun m n d dw p a b t f fd fa c => ⟨?_, ?_, ?_, ?_, ?_, ?_, ?_, ?_, ?_, ?_, ?_, ?_, ?_⟩, stickyInvalid_fpctl⟩
  iterate 8 · exact writesFloat_of_floatOp fun _ => rfl
  all_goals exact floats_of_compareOp fun _ => rfl

/-- Settles O6: each slot is the mould of a predicate; p0 reads 1 and keeps no write. -/
theorem predicateSlots : Obligations.PredicateSlots := by
  refine ⟨fun n p x y a => ⟨?_, ?_, ?_, ?_⟩, fun t => ⟨t.getP_zero, t.putP_zero⟩⟩
  · have hv (u : State) : decide (u.readS a ≠ 0) = (u.readS a != 0) := decide_not
    simp only [hv]
    exact does_of_predOp fun _ => rfl
  all_goals exact does_of_predOp fun _ => rfl

end Sys2Proof.Machine
end

section
/-! The branches (R94 to R96). -/

namespace Sys2Proof.Machine

open Sys2Proof.Claims

section
variable {i : Instr} {w : Nat} {off : BitVec w} {g : Bool} {p : BitVec 3}
  (he : ∀ s, exec i s = issueSlot i noCheck (fun u => if u.thread.getP p != g then u.jump (u.offsetPc off) else u) s)
include he

/-- A conditional branch whose predicate is not its guard is taken (R94). -/
theorem does_of_branch_taken :
    Does i (fun u => u.thread.getP p ≠ g) fun u => goesTo (u.iss.pc + 4 * off.signExtend 64) u :=
  does_of_issueSlot_where he (fun _ _ => rfl) (fun _ h => h) fun _ h => if_pos (bne_iff_ne.mpr h)

/-- A conditional branch whose predicate is its guard is not taken (R94). -/
theorem does_of_branch_not_taken : Does i (fun u => u.thread.getP p = g) fun u => u :=
  does_of_issueSlot_where he (fun _ _ => rfl) (fun _ h => h) fun _ h => if_neg (by simp [h])

end

/-- A target is a multiple of 4 where its two low bits are zero (R95). -/
theorem setWidth_two_eq_zero_iff (x : Word) : x.setWidth 2 = 0#2 ↔ x.toNat % 4 = 0 := by
  rw [← BitVec.toNat_inj, BitVec.toNat_setWidth]
  rfl

theorem exec_jr (a : SOp) (s : State) : exec (.jr a) s =
    issueSlot (.jr a) (fun u => checkThat ((u.readS a).setWidth 2 == 0#2) (u.faultAt cALIGN (u.readS a)))
      (fun u => u.jump (u.readS a)) s := rfl

/-- Settles O22: each branch marks the control of its bundle; the check of JR looks at the low bits of its target. -/
theorem branches : Obligations.Branches := by
  refine fun g n p i19 i14 i32 d dw a => ⟨does_of_issueSlot (fun _ => rfl) fun _ _ => rfl,
    does_of_issueSlot (fun _ => rfl) fun _ _ => rfl, does_of_branch_taken fun _ => rfl,
    does_of_branch_not_taken (off := i14) fun _ => rfl, does_of_branch_taken fun _ => rfl,
    does_of_branch_not_taken (off := i32) fun _ => rfl, does_of_issueSlot (fun _ => rfl) fun _ _ => rfl,
    does_of_issueSlot (fun _ => rfl) fun _ _ => rfl, does_of_issueSlot (exec_jr a) fun s h => ?_,
    faults_of_issueSlot (exec_jr a) fun s h => ?_⟩
  · exact checkThat_true _ (beq_iff_eq.mpr ((setWidth_two_eq_zero_iff _).mpr h))
  · exact checkThat_false _ (beq_eq_false_iff_ne.mpr (mt (setWidth_two_eq_zero_iff _).mp h))

end Sys2Proof.Machine
end

section
/-! The loop slots (R98, R99, R102): push, skip, full stack, and break. -/

namespace Sys2Proof.Machine

open Sys2Proof.Claims

/-! ### What a slot marks is not read by a fetch -/

section
variable (s : State) (i : Instr)

theorem fetchWord_marks (a : Word) : (s.marks i).fetchWord a = s.fetchWord a := rfl

theorem fetchWords_marks (a : Word) (n : Nat) : (s.marks i).fetchWords a n = s.fetchWords a n := by
  induction n generalizing a with
  | zero => rfl
  | succ n ih => simp only [State.fetchWords, fetchWord_marks, ih]

theorem pcAfter_marks (a : Word) : (s.marks i).pcAfter a = s.pcAfter a := by
  rw [State.pcAfter, fetchWords_marks]
  rfl

end

/-! ### The loop stack of a thread -/

/-- A push in one step: the entry on top, its index 0, stage 0 on for a LOOPP (R98, R99). -/
theorem Thread.pushLoop_eq (t : Thread) (start endPc : Word) (count : BitVec 32) (stages : Option (BitVec 3)) :
    t.pushLoop start endPc count stages = { t with
      loops := ⟨start, endPc, count - 1, stages.isSome, stages.getD 0, t.ps⟩ :: t.loops
      li := vset t.li t.loops.length 0
      ps := if stages.isSome then 1 else t.ps } := by
  cases stages <;> rfl

theorem Thread.popLoop_of_cons {t : Thread} {e : LoopEntry} {r : List LoopEntry} (h : t.loops = e :: r) :
    t.popLoop = { t with loops := r, li := vset t.li r.length 0, ps := if e.pipelined then e.saved else t.ps } := by
  rw [Thread.popLoop, h]

/-! ### LOOP and LOOPP (R99) -/

section
variable {s : State} {a : SOp} {endPc : Word} {stages : Option (BitVec 3)}

theorem loopCheck_of_count (h : (s.readS a).setWidth 32 ≠ 0#32) :
    s.loopCheck a endPc = checkThat (decide (s.thread.loops.length < 6)) (s.faultPc cLOOP_STACK) :=
  if_neg h

theorem loopCheck_of_skip {next : Word} (h : (s.readS a).setWidth 32 = 0#32) (hn : s.pcAfter endPc = .ok next) :
    s.loopCheck a endPc = .go := by
  rw [State.loopCheck, if_pos h, hn]

theorem loopEnter_of_count (h : (s.readS a).setWidth 32 ≠ 0#32) :
    s.loopEnter a endPc stages = s.modThread fun t => t.pushLoop s.iss.nextPc endPc ((s.readS a).setWidth 32) stages :=
  if_neg h

theorem loopEnter_of_skip {next : Word} (h : (s.readS a).setWidth 32 = 0#32) (hn : s.pcAfter endPc = .ok next) :
    s.loopEnter a endPc stages = s.jump next := by
  rw [State.loopEnter]
  simp only [h, if_true, hn]

end

/-- A slot with the check and the effect of a loop slot pushes, skips, or meets a full stack. -/
theorem enters_of_loopSlot {i : Instr} {a : SOp} {w : Nat} {off : BitVec w} {stages : Option (BitVec 3)}
    (he : ∀ s, exec i s = issueSlot i (fun u => u.loopCheck a (u.loopEndPc off))
      (fun u => u.loopEnter a (u.loopEndPc off) stages) s) :
    Enters i a (fun u => u.iss.pc + 4 * off.setWidth 64) stages := by
  refine ⟨does_of_issueSlot_where he ?_ (fun _ h => h) ?_, fun next => does_of_issueSlot_where he ?_ ?_ ?_,
    faults_of_issueSlot he ?_⟩
  · rintro s ⟨hc, hl⟩
    exact (loopCheck_of_count hc).trans (checkThat_true _ (decide_eq_true hl))
  · rintro s ⟨hc, -⟩
    simp only [loopEnter_of_count hc, Thread.pushLoop_eq]
    rfl
  · rintro s ⟨hc, hn⟩
    exact loopCheck_of_skip hc hn
  · rintro s ⟨hc, hn⟩
    exact ⟨hc, (pcAfter_marks s i _).trans hn⟩
  · rintro s ⟨hc, hn⟩
    exact loopEnter_of_skip hc hn
  · rintro s ⟨hc, hl⟩
    exact (loopCheck_of_count hc).trans (checkThat_false _ (decide_eq_false (not_lt.mpr hl)))

/-! ### LBRK (R102) -/

section
variable {s : State} {p : BitVec 3}

theorem lbrk_of_false (h : s.thread.getP p = false) : s.lbrkCheck p = .go ∧ s.lbrk p = s := by
  simp only [State.lbrkCheck, State.lbrk, h, Bool.false_eq_true, if_false, and_self]

theorem lbrkCheck_of_empty (h : s.thread.getP p = true) (hl : s.thread.loops = []) : s.lbrkCheck p = s.faultPc cLOOP_STACK := by
  simp only [State.lbrkCheck, h, if_true, hl]

theorem lbrk_of_cons {e : LoopEntry} {r : List LoopEntry} {next : Word} (h : s.thread.getP p = true)
    (hl : s.thread.loops = e :: r) (hn : s.pcAfter e.endPc = .ok next) :
    s.lbrkCheck p = .go ∧ s.lbrk p = (s.modThread Thread.popLoop).jump next := by
  simp only [State.lbrkCheck, State.lbrk, h, if_true, hl, hn, and_self]

end

theorem State.modThread_congr {s : State} {f g : Thread → Thread} (h : f s.thread = g s.thread) :
    s.modThread f = s.modThread g := by
  cases ha : s.iss.agent with
  | tile t =>
    simp only [State.thread, State.threadOf, ha] at h
    simp only [State.modThread, State.modThreadOf, ha]
    exact State.modTile_congr (by rw [h])
  | seq q =>
    simp only [State.thread, State.threadOf, ha] at h
    simp only [State.modThread, State.modThreadOf, ha, State.modSeq, h]

theorem exec_lbrk (p : BitVec 3) (s : State) :
    exec (.lbrk p) s = issueSlot (.lbrk p) (fun u => u.lbrkCheck p) (fun u => u.lbrk p) s := rfl

/-- Settles O23: the loop slots are one mould; LBRK by its predicate and the top of the stack. -/
theorem loops : Obligations.Loops := by
  refine fun a o12 o7 o16 g p next => ⟨enters_of_loopSlot fun _ => rfl, enters_of_loopSlot fun _ => rfl,
    enters_of_loopSlot fun _ => rfl, enters_of_loopSlot fun _ => rfl, fun e r => ?_, ?_, ?_⟩
  · refine does_of_issueSlot_where (exec_lbrk p) ?_ ?_ ?_
    · rintro s ⟨hp, hl, hn⟩
      exact (lbrk_of_cons hp hl hn).1
    · rintro s ⟨hp, hl, hn⟩
      exact ⟨hp, hl, (pcAfter_marks s _ _).trans hn⟩
    · rintro s ⟨hp, hl, hn⟩
      have hpop : s.modThread Thread.popLoop = s.modThread fun t => { t with
          loops := r, li := vset t.li r.length 0, ps := if e.pipelined then e.saved else t.ps } :=
        State.modThread_congr (Thread.popLoop_of_cons hl)
      rw [(lbrk_of_cons hp hl hn).2, hpop]
      rfl
  · exact does_of_issueSlot_where (exec_lbrk p) (fun _ h => (lbrk_of_false h).1) (fun _ h => h) fun _ h => (lbrk_of_false h).2
  · exact faults_of_issueSlot (exec_lbrk p) fun s ⟨hp, hl⟩ => lbrkCheck_of_empty hp hl

end Sys2Proof.Machine
end

section
/-! Control slots: the checks of STEP and SLEEP, and what keeps a tile from a step boundary (R106, R113 to R116, R267,
R304, R320). -/

namespace Sys2Proof.Machine

open Sys2Proof.Claims

/-! ### At rest (R106, R267, R320) -/

theorem HSlot.inFlight_iff (h : HSlot) :
    h.inFlight = true ↔ (h.st = .busy ∨ h.st = .orphan) ∧ ¬(h.loc = true ∧ h.rem = true) := by
  simp only [HSlot.inFlight, Bool.and_eq_true, Bool.or_eq_true, beq_iff_eq, Bool.not_eq_true', ← Bool.not_eq_true]

theorem WDir.unquiet_iff (d : WDir) : d.unquiet = true ↔ d.started ≠ none ∨ d.posted = true ∨ d.locks ≠ [] := by
  simp [WDir.unquiet, Option.isSome_iff_ne_none, or_assoc]

section
variable {x : Tile}

theorem Tile.unquiet_of_inFlight {k : Nat} (h : (List.range 256).find? (fun k => (x.hslot k).inFlight) = some k) :
    x.unquiet = some (handleValue k (x.hslot k)) := by
  simp only [Tile.unquiet, h]

theorem Tile.unquiet_of_landed (h : (List.range 256).find? (fun k => (x.hslot k).inFlight) = none) :
    x.unquiet = ((List.range 256).find? fun w => (x.dir w).unquiet).map fun w => windowValue w (x.dir w).gen := by
  simp only [Tile.unquiet, h]

/-- A tile is at a step boundary where every handle slot and every window is at rest. -/
theorem Tile.unquiet_eq_none_iff :
    x.unquiet = none ↔ ∀ k < 256, (x.hslot k).inFlight = false ∧ (x.dir k).unquiet = false := by
  cases h : (List.range 256).find? fun k => (x.hslot k).inFlight with
  | some k =>
    obtain ⟨hf, hk, -⟩ := List.find?_range_eq_some.mp h
    rw [Tile.unquiet_of_inFlight h]
    exact iff_of_false nofun fun hq => Bool.false_ne_true ((hq k (List.mem_range.mp hk)).1.symm.trans hf)
  | none =>
    rw [Tile.unquiet_of_landed h, Option.map_eq_none_iff]
    simp only [List.find?_range_eq_none, Bool.not_eq_true'] at h ⊢
    exact ⟨fun hd k hk => ⟨h k hk, hd k hk⟩, fun hq k hk => (hq k hk).2⟩

/-- The word that STEP_NOT_QUIET reports: the lowest handle slot in flight, else the lowest window not at rest. -/
theorem Tile.unquiet_eq_some {w : Word} (hw : x.unquiet = some w) :
    (∃ k < 256, (x.hslot k).inFlight = true ∧ (∀ j < k, (x.hslot j).inFlight = false) ∧
      w = BitVec.ofNat 64 (k + 256 * (x.hslot k).gen.toNat)) ∨
    (∀ j < 256, (x.hslot j).inFlight = false) ∧
      ∃ k < 256, (x.dir k).unquiet = true ∧ (∀ j < k, (x.dir j).unquiet = false) ∧
        w = BitVec.ofNat 64 (k + 256 * (x.dir k).gen.toNat + 0x10000) := by
  cases h : (List.range 256).find? fun k => (x.hslot k).inFlight with
  | some k =>
    rw [Tile.unquiet_of_inFlight h] at hw
    simp only [List.find?_range_eq_some, List.mem_range, Bool.not_eq_true'] at h
    obtain ⟨hf, hk, hlow⟩ := h
    exact .inl ⟨k, hk, hf, hlow, (Option.some.inj hw).symm⟩
  | none =>
    rw [Tile.unquiet_of_landed h] at hw
    obtain ⟨k, hd, rfl⟩ := Option.map_eq_some_iff.mp hw
    simp only [List.find?_range_eq_none, List.find?_range_eq_some, List.mem_range, Bool.not_eq_true'] at h hd
    obtain ⟨hu, hk, hlow⟩ := hd
    exact .inr ⟨h, k, hk, hu, hlow, rfl⟩

end

/-! ### STEP (R106) -/

section
variable {s : State}

theorem holdsLease_iff (s : State) : s.holdsLease = true ↔ s.arr.holder = some (BitVec.ofNat 2 s.curId) := by
  rw [State.holdsLease, beq_iff_eq]
  rfl

theorem stepCheck_of_lease (h : s.arr.holder = some (BitVec.ofNat 2 s.curId)) : s.stepCheck = s.faultPc cSTEP_IN_LEASE := by
  rw [State.stepCheck, checkThat_false _ (by rw [(holdsLease_iff s).mpr h]; rfl)]
  rfl

theorem leaseFree_go {f : Verdict} (h : s.arr.holder ≠ some (BitVec.ofNat 2 s.curId)) : checkThat (!s.holdsLease) f = .go :=
  checkThat_true _ (by rw [Bool.eq_false_iff.mpr (mt (holdsLease_iff s).mp h)]; rfl)

theorem stepCheck_go (h : s.arr.holder ≠ some (BitVec.ofNat 2 s.curId)) (hq : s.cur.unquiet = none) : s.stepCheck = .go := by
  rw [State.stepCheck, andThen_eq_go (leaseFree_go h), hq]

theorem stepCheck_of_unquiet {w : Word} (h : s.arr.holder ≠ some (BitVec.ofNat 2 s.curId)) (hq : s.cur.unquiet = some w) :
    s.stepCheck = s.faultAt cSTEP_NOT_QUIET w := by
  rw [State.stepCheck, andThen_eq_go (leaseFree_go h), hq]

/-! ### SLEEP (R114, R304) -/

/-- What a sleeping tile waits for: a record in q0 or q1, or a cut. -/
theorem sleepOver_tile_iff (h : s.onTile = true) :
    s.sleepOver = true ↔ s.cur.q0 ≠ [] ∨ s.cur.q1 ≠ [] ∨ s.cur.cutPending = true := by
  cases ha : s.iss.agent with
  | tile t =>
    rw [cur_of_agent ha, State.sleepOver, ha]
    simp [or_assoc]
  | seq q =>
    rw [State.onTile, ha] at h
    cases h

/-- What a sleeping context waits for: a retired launch or a start record. -/
theorem sleepOver_seq_iff {q : BitVec 6} (h : s.iss.agent = .seq q) :
    s.sleepOver = true ↔ (∃ l ∈ (s.seqCtx q.toNat).slots.toList, l.st = .complete ∨ l.st = .killed) ∨
      ∃ v, s.partOfSeq q.toNat = some v ∧ (s.part v).inbox ≠ [] := by
  rw [State.sleepOver, h]
  simp only [Bool.or_eq_true, List.any_eq_true, beq_iff_eq]
  refine or_congr_right ?_
  cases s.partOfSeq q.toNat with
  | none => simp
  | some v => simp

end

theorem exec_sleep (s : State) :
    exec .sleep s = issueSlot .sleep (fun u => if u.sleepOver then .go else .wait none) (fun u => u) s := rfl

theorem exec_step (i : BitVec 14) (s : State) : exec (.step i) s = issueSlot (.step i) (fun u => u.stepCheck)
    (fun u => (u.modCur fun x => { x with stepNo := i, stepCnt := x.stepCnt + 1 }).modIss fun k =>
      { k with control := .step }) s := rfl

theorem does_sleep {c : State → Prop} (h : ∀ s, c s → s.sleepOver = true) : Does .sleep c fun u => u :=
  does_of_issueSlot exec_sleep fun s hc => if_pos (h s hc)

theorem waits_sleep {c : State → Prop} (h : ∀ s, c s → ¬s.sleepOver = true) : Waits .sleep c fun _ => none :=
  waits_of_issueSlot exec_sleep fun s hc => if_neg (h s hc)

/-- Settles O24: a slot without a check of its own by its effect, STEP by its check, SLEEP by what it waits for. -/
theorem controlSlots : Obligations.ControlSlots := by
  refine ⟨fun n i14 t d pop stg => ⟨does_of_issueSlot (fun _ => rfl) fun _ _ => rfl,
    does_of_issueSlot (fun _ => rfl) fun _ _ => rfl, does_of_issueSlot (exec_step i14) fun s ⟨h, hq⟩ => stepCheck_go h hq,
    does_of_issueSlot (fun _ => rfl) fun _ _ => rfl, does_of_issueSlot (fun _ => rfl) fun _ _ => rfl,
    does_of_issueSlot (fun _ => rfl) fun _ _ => rfl, does_of_issueSlot (fun _ => rfl) fun _ _ => rfl,
    does_sleep fun s ⟨ht, h⟩ => (sleepOver_tile_iff ht).mpr h, waits_sleep fun s ⟨ht, h0, h1, hc⟩ => ?_,
    fun q => ⟨does_sleep fun s ⟨ha, h⟩ => (sleepOver_seq_iff ha).mpr h, waits_sleep fun s ⟨ha, hl, hi⟩ => ?_⟩,
    fun w => faults_of_issueSlot (exec_step i14) fun s ⟨h, hq⟩ => stepCheck_of_unquiet h hq, HSlot.inFlight_iff,
    WDir.unquiet_iff, fun x => Tile.unquiet_eq_none_iff,
    faults_of_issueSlot (exec_step i14) fun s h => stepCheck_of_lease h⟩, fun x w => Tile.unquiet_eq_some⟩
  · rw [sleepOver_tile_iff ht, h0, h1, hc]
    simp
  · rw [sleepOver_seq_iff ha]
    rintro (⟨l, hm, hst⟩ | ⟨v, hv, hb⟩)
    · exact hst.elim (hl l hm).1 (hl l hm).2
    · exact hb (hi v hv)

end Sys2Proof.Machine
end

section
/-! The ends of launches and of programs: TILE_FREE, START_RECORD and SEQUENCER_END (R107, R232, R303, R304, R312, R326). -/

namespace Sys2Proof.Machine

/-! ### Tiles freed (R107, R232, R312, R326) -/

section
variable {s : State} {t : BitVec 11}

/-- An ended and drained tile of a launch that no kill has marked is freed, and the last one completes the launch. -/
theorem execTileFree_of_drained (hr : (s.tile t.toNat).run = .ended) (hd : s.drained t.toNat = true)
    (hc : (s.lslot (s.tile t.toNat).part.toNat (s.tile t.toNat).slot.toNat).cause = 0) :
    let v := (s.tile t.toNat).part.toNat
    let k := (s.tile t.toNat).slot.toNat
    let u := s.releaseTile t.toNat
    execTileFree t s = .next (if u.ranks v k = [] ∧ (u.lslot v k).st = .running then
      (u.freeLaunch v k).modLslot v k fun l => l.retire .complete else u) := by
  have hno : ¬((s.tile t.toNat).run ≠ .ended ∨ (!s.drained t.toNat) = true ∨
      (s.lslot (s.tile t.toNat).part.toNat (s.tile t.toNat).slot.toNat).cause ≠ 0) := by simp [hr, hd, hc]
  simp only [execTileFree, if_neg hno, List.isEmpty_iff]

/-- A tile of a launch whose context has been killed waits for the halt. -/
theorem execTileFree_of_killed (hc : (s.lslot (s.tile t.toNat).part.toNat (s.tile t.toNat).slot.toNat).cause ≠ 0) :
    execTileFree t s = .next s :=
  congrArg Host.Outcome.next (if_pos (.inr (.inr hc)))

end

/-! ### Start records (R303) -/

/-- The thread that a start record leaves: at the entry, s1 the argument, everything else cleared. -/
theorem Thread.startAt_cleared (t : Thread) (e : BitVec 32) (arg : Word) (cycle : Nat) :
    let y := t.startAt e.toNat arg cycle
    y.b0.pc = e.setWidth 64 ∧ (∀ i < 28, vget y.s i = if i = 1 then arg else 0) ∧ (∀ i < 4, vget y.b0.hi i = 0) ∧
      y.b0.sb = 0 ∧ y.b0.p = 1 ∧ (∀ i < 8, (vget y.b0.lat i).val = 0) ∧ y.loops = [] ∧ (∀ i < 6, vget y.li i = 0) ∧
      y.fpctl = 0x100 := by
  refine ⟨BitVec.ofNat_toNat .., fun i hi => ?_, fun i hi => ?_, rfl, rfl, fun i hi => ?_, rfl, fun i hi => ?_, rfl⟩
  · show vget (vset (Vector.replicate 28 0) 1 arg) i = _
    split
    next h => rw [h, vget_vset_self _ _ _ (by decide)]
    next h =>
      rw [vget_vset_ne _ _ _ _ h]
      simp [vget, hi]
  · simp [Thread.startAt, Bank.reset, vget, hi]
  · simp [Thread.startAt, Bank.reset, vget, hi]
  · simp [Thread.startAt, Thread.dropLoops, vget, hi]

/-- The state when a context has taken the oldest start record of its partition (R303, R378). -/
def State.tookRecord (s : State) (v : Nat) (rest : List StartRec) : State :=
  (s.modPart v fun p => { p with inbox := rest }).raise v 2

section
variable {s : State} {v : BitVec 6} {r : StartRec} {rest : List StartRec} (hin : (s.part v.toNat).inbox = r :: rest)
  (hen : (s.part v.toNat).en = true) (hrun : (s.seqCtx (s.part v.toNat).seqNo).running = false)
  (hdone : (s.seqCtx (s.part v.toNat).seqNo).done = none) (hp : s.partOfSeq (s.part v.toNat).seqNo = some v.toNat)
include hin hen hrun hdone hp

theorem execStartRecord_of_error {c : BitVec 8}
    (h : (s.tookRecord v.toNat rest).startProgram (s.part v.toNat).seqNo r = .error c) :
    execStartRecord v s =
      .next ((s.tookRecord v.toNat rest).doneRecord (s.part v.toNat).seqNo ⟨r.tag, 0, c.setWidth 64 ||| 0x100⟩) := by
  rw [State.tookRecord] at h ⊢
  simp [execStartRecord, hin, hen, hrun, hdone, hp, h]

theorem execStartRecord_of_ok {bs : List Byte}
    (h : (s.tookRecord v.toNat rest).startProgram (s.part v.toNat).seqNo r = .ok bs) :
    execStartRecord v s = .next ((s.tookRecord v.toNat rest).modSeq (s.part v.toNat).seqNo fun x => { x with
      cmd := writeBytes [] 0 bs
      running := true
      tag := r.tag
      ending := none
      th := x.th.startAt (r.entryLen.extractLsb' 32 32).toNat r.arg (s.tookRecord v.toNat rest).cycle }) := by
  rw [State.tookRecord] at h ⊢
  simp [execStartRecord, hin, hen, hrun, hdone, hp, h]

end

/-! ### The end of a program (R303, R304) -/

theorem execSequencerEnd_of_over {s : State} {q : BitVec 6} {pc : Word} (he : (s.seqCtx q.toNat).ending = some pc)
    (ho : ∀ e ∈ (s.seqCtx q.toNat).launches, e.2.over = true) : execSequencerEnd q s =
      .next ((s.modSeq q.toNat fun x => { x with
        running := false
        ending := none
        slots := Vector.ofFn fun i => (x.slot i.val).clear }).doneRecord q.toNat ⟨(s.seqCtx q.toNat).tag, pc, 0⟩) := by
  have ha : ((s.seqCtx q.toNat).launches.all fun e => e.2.over) = true := List.all_eq_true.mpr ho
  simp only [execSequencerEnd, he, ha, Bool.not_true, Bool.false_eq_true, if_false]

/-- Settles O33: each event in the case its conditions name; the started thread by its fields. -/
theorem launchEnds : Obligations.LaunchEnds := by
  refine ⟨?_, ?_, fun s q pc => execSequencerEnd_of_over⟩
  · intro s t hr hd v k u
    exact ⟨execTileFree_of_drained hr hd, execTileFree_of_killed⟩
  · intro s v r rest p u hin hen hrun hdone hp
    refine ⟨fun c => execStartRecord_of_error hin hen hrun hdone hp, fun bs hbs => ?_⟩
    obtain ⟨hpc, hs, hhi, hsb, hpr, hlat, hloops, hli, hfp⟩ := Thread.startAt_cleared (u.seqCtx p.seqNo).th
      (r.entryLen.extractLsb' 32 32) r.arg u.cycle
    refine ⟨_, execStartRecord_of_ok hin hen hrun hdone hp hbs, ?_⟩
    rw [State.seqCtx_modSeq_self]
    exact ⟨rfl, rfl, hpc, hs, hhi, hsb, hpr, hlat, hloops, hli, hfp⟩

end Sys2Proof.Machine
end

section
/-! The vector row slots, native and wide, and the column select (R118 to R131, R136 to R138): each is the mould of a row
with flags, or of a row that moves bits. -/

namespace Sys2Proof.Machine

open Sys2Proof.Claims

section
variable {i : Instr} {lat : Nat} {n : Bool} {d : VOp}

theorem writesRow_of_rowFlagOp {r : State → Row × Flags} (he : ∀ s, exec i s = rowFlagOp i lat n d r s) :
    WritesRow i lat n d r :=
  floats_of_issueSlot he

theorem movesRow_of_rowOp {r : State → Row} (he : ∀ s, exec i s = rowOp i lat n d r s) : MovesRow i lat n d r :=
  does_of_issueSlot he fun _ _ => rfl

end

/-- Settles O7: seventeen slots are the mould of a row with flags, nine that of a moved row. -/
theorem vectorRowSlots : Obligations.VectorRowSlots := by
  intro n d k a b x
  refine ⟨?_, ?_, ?_, ?_, ?_, ?_, ?_, ?_, ?_, ?_, ?_, ?_, ?_, ?_, ?_, ?_, ?_, ?_, ?_, ?_, ?_, ?_, ?_, ?_, ?_, ?_⟩
  iterate 17 · exact writesRow_of_rowFlagOp fun _ => rfl
  all_goals exact movesRow_of_rowOp fun _ => rfl

/-- Settles O8: each wide form is the mould of a row with flags. -/
theorem wideVectorSlots : Obligations.WideVectorSlots := by
  intro m n sat d a b f fd fa part
  refine ⟨?_, ?_, ?_, ?_, ?_, ?_, ?_, ?_, ?_⟩
  all_goals exact writesRow_of_rowFlagOp fun _ => rfl

/-- Settles O10: the check is that of FP_INVALID, and the destination's form decides what is written beside the latch. -/
theorem columnSelect : Obligations.ColumnSelect := by
  intro n d g o inc a b k f v
  exact ⟨floats_of_issueSlot fun _ => rfl, floats_of_issueSlot fun _ => rfl, floats_of_issueSlot fun _ => rfl⟩

end Sys2Proof.Machine
end

section
/-! The vector memory slots (R132, R133, R135): what the check of a row and of a strided row answers at an address at
fault. -/

namespace Sys2Proof.Machine

open Sys2Proof.Claims

theorem faultAcc_eq (s : State) (wr : Bool) (c : BitVec 8) (a : Word) :
    s.faultAcc wr c a = .trap ⟨c, a, 1#8 <<< s.iss.pos, wr, false, false⟩ := by
  cases wr <;> rfl

/-! ### Rows (R132) -/

section
variable {s : State} {a : Word} {wr : Bool}

theorem vldCheck_of_unaligned (h : a.toNat % 64 ≠ 0) : s.vldCheck a wr = s.faultAcc wr 0x06 a := if_pos h

theorem vldCheck_of_outside (h : a.toNat % 64 = 0) (ho : outsideSpad a.toNat 512 ≠ none) :
    s.vldCheck a wr = s.faultAcc wr 0x17 a :=
  (if_neg (not_not.mpr h)).trans (if_pos (Option.isSome_iff_ne_none.mpr ho))

/-- A store of a row inside a view reads no damaged word. -/
theorem vldCheck_store (h : a.toNat % 64 = 0) (ho : outsideSpad a.toNat 512 = none) : s.vldCheck a true = .go := by
  simp [State.vldCheck, h, ho, checkThat]

end

section
variable {i : Instr} {effect : State → State} {addr : State → Word} {wr : Bool}
  (he : ∀ s, exec i s = issueSlot i (fun u => u.vldCheck (addr u) wr) effect s)
include he

theorem faults_of_unaligned_row : Faults i (fun u => (addr u).toNat % 64 ≠ 0) 0x06 addr wr :=
  faults_of_issueSlot he fun s h => (vldCheck_of_unaligned h).trans (faultAcc_eq s wr _ _)

theorem faults_of_row_outside :
    Faults i (fun u => (addr u).toNat % 64 = 0 ∧ outsideSpad (addr u).toNat 512 ≠ none) 0x17 addr wr :=
  faults_of_issueSlot he fun s ⟨h, ho⟩ => (vldCheck_of_outside h ho).trans (faultAcc_eq s wr _ _)

end

/-! ### Strided rows (R133) -/

/-- An address at fault stands before the damaged words of a gather. -/
theorem vldsCheck_of_strideCheck {s : State} {wr : Bool} {xs : List Word} {c : BitVec 8} {x : Word}
    (h : s.strideCheck wr xs = s.faultAcc wr c x) :
    s.vldsCheck wr xs = .trap ⟨c, x, 1#8 <<< s.iss.pos, wr, false, false⟩ := by
  rw [State.vldsCheck, h, faultAcc_eq]
  rfl

section
variable {i : Instr} {effect : State → State} {a b : SOp} {wr : Bool}
  (he : ∀ s, exec i s = issueSlot i (fun u => u.vldsCheck wr (strideAddrs (u.readS a) (u.readS b))) effect s)
include he

theorem faults_of_unaligned_element (k : Nat) (x : Word) :
    Faults i (fun u => reaches a b k x u ∧ x.toNat % 4 ≠ 0) 0x06 (fun _ => x) wr :=
  faults_of_issueSlot he fun s ⟨⟨hk, good⟩, h⟩ => vldsCheck_of_strideCheck ((strideCheck_first s wr _ k x hk good).1 h)

theorem faults_of_element_outside (k : Nat) (x : Word) :
    Faults i (fun u => reaches a b k x u ∧ x.toNat % 4 = 0 ∧ outsideSpad x.toNat 4 ≠ none) 0x17 (fun _ => x) wr :=
  faults_of_issueSlot he fun s ⟨⟨hk, good⟩, h, ho⟩ =>
    vldsCheck_of_strideCheck ((strideCheck_first s wr _ k x hk good).2 h ho)

end

theorem exec_vld (n : Bool) (d : VDn) (a : SOp) (i : BitVec 7) (s : State) : exec (.vld n d a i) s =
    issueSlot (.vld n d a i) (fun u => u.vldCheck (u.rowAddr a i) false)
      (fun u => (u.readView u.curId (spadView (u.rowAddr a i).toNat).1 (spadView (u.rowAddr a i).toNat).2 512).2.dstV 6 n d.op
        (rowOf (u.readView u.curId (spadView (u.rowAddr a i).toNat).1 (spadView (u.rowAddr a i).toNat).2 512).1)) s := rfl

theorem exec_vst (d : VDn) (a : SOp) (i : BitVec 7) (s : State) : exec (.vst d a i) s =
    issueSlot (.vst d a i) (fun u => u.vldCheck (u.rowAddr a i) true)
      (fun u => u.deferWrite (spadView (u.rowAddr a i).toNat).1 (spadView (u.rowAddr a i).toNat).2
        (rowBytes (u.readV .int32 d.op))) s := rfl

theorem exec_vlds (n : Bool) (d : VDn) (a b : SOp) (s : State) : exec (.vlds n d a b) s =
    issueSlot (.vlds n d a b) (fun u => u.vldsCheck false (strideAddrs (u.readS a) (u.readS b)))
      (fun u => (u.gather (strideAddrs (u.readS a) (u.readS b)) []).2.dstV 10 n d.op
        (packRow 32 (u.gather (strideAddrs (u.readS a) (u.readS b)) []).1)) s := rfl

theorem exec_vsts (d : VDn) (a b : SOp) (s : State) : exec (.vsts d a b) s =
    issueSlot (.vsts d a b) (fun u => u.vldsCheck true (strideAddrs (u.readS a) (u.readS b)))
      (fun u => (strideAddrs (u.readS a) (u.readS b)).zipIdx.foldl (fun w x => w.deferWrite (spadView x.1.toNat).1
        (spadView x.1.toNat).2 (leBytes 4 (elem 32 (u.readV .int32 d.op) x.2))) u) s := rfl

/-- Settles O9: the checks of rows and of strided rows pass, or answer the first address at fault. -/
theorem vectorMemorySlots : Obligations.VectorMemorySlots := by
  intro n d a b i
  refine ⟨does_of_issueSlot (exec_vld n d a i) fun _ h => h,
    does_of_issueSlot (exec_vst d a i) fun _ ⟨h, ho⟩ => vldCheck_store h ho,
    does_of_issueSlot (exec_vlds n d a b) fun _ h => h, does_of_issueSlot (exec_vsts d a b) fun _ h => h,
    does_of_issueSlot (fun _ => rfl) fun _ h => checkThat_true _ (by simpa using h),
    does_of_issueSlot (fun _ => rfl) fun _ _ => rfl, faults_of_unaligned_row (exec_vld n d a i),
    faults_of_unaligned_row (exec_vst d a i), faults_of_row_outside (exec_vld n d a i),
    faults_of_row_outside (exec_vst d a i),
    fun k x => ⟨faults_of_unaligned_element (exec_vlds n d a b) k x, faults_of_unaligned_element (exec_vsts d a b) k x,
      faults_of_element_outside (exec_vlds n d a b) k x, faults_of_element_outside (exec_vsts d a b) k x⟩⟩

end Sys2Proof.Machine
end

section
/-! The checks of a scalar access of a tile (R134, R192, R193, R203, R204, R208, R213): the range of its first byte, then the
end of that range, alignment, and what stands behind the address. -/

namespace Sys2Proof.Machine

open Sys2Proof.Claims

/-! ### Ranges (R192, R193) -/

theorem rangeOf_eq_some_iff (a : Nat) (x : Nat × Nat) : rangeOf a = some x ↔
    x ∈ [(0x0, 0x2FFFFF), (0x400000, 0x6FFFFF), (0x100000000, 0x17FFFFFFF)] ∧ x.1 ≤ a ∧ a ≤ x.2 := by
  have hr : rangeOf a = if a ≤ 0x2FFFFF then some (0x0, 0x2FFFFF) else
      if 0x400000 ≤ a ∧ a ≤ 0x6FFFFF then some (0x400000, 0x6FFFFF) else
      if 0x100000000 ≤ a ∧ a ≤ 0x17FFFFFFF then some (0x100000000, 0x17FFFFFFF) else none := by
    unfold rangeOf ranges
    grind
  rw [hr]
  constructor
  · split_ifs with h1 h2 h3
    · rintro ⟨⟩
      simp [h1]
    · rintro ⟨⟩
      simp [h2]
    · rintro ⟨⟩
      simp [h3]
    · nofun
  · rintro ⟨hm, h1, h2⟩
    simp only [List.mem_cons, List.not_mem_nil, or_false] at hm
    rcases hm with rfl | rfl | rfl
    · exact if_pos h2
    · rw [if_neg (by omega), if_pos ⟨h1, h2⟩]
    · rw [if_neg (by omega), if_neg (by omega), if_pos ⟨h1, h2⟩]

section
variable {a n : Nat}

theorem outside_of_no_range (h : rangeOf a = none) : outside a n = some a := by
  rw [outside, h]

theorem outside_of_range {r : Nat × Nat} (h : rangeOf a = some r) :
    outside a n = if a + n ≤ r.2 + 1 then none else some (r.2 + 1) := by
  rw [outside, h]

/-- An access lies in one range where it starts in one and does not pass its end. -/
theorem outside_eq_none_iff : outside a n = none ↔ ∃ r, rangeOf a = some r ∧ a + n ≤ r.2 + 1 := by
  cases h : rangeOf a with
  | none => simp [outside_of_no_range h]
  | some r => simp [outside_of_range h]

end

/-! ### The check, part by part -/

section
variable {s : State} {t : BitVec 11} {a : Word} {size need : Nat} {wr : Bool} (ha : s.iss.agent = .tile t)
include ha

theorem target_of_outside {x : Nat} (h : outside a.toNat size = some x) : s.target a size = .error x := by
  rw [State.target, ha]
  simp only [h]

theorem target_of_inside (h : outside a.toNat size = none) : s.target a size = .ok (tileTarget (t.toNat / 4) a.toNat) := by
  rw [State.target, ha]
  simp only [h]

theorem accessCheck_of_outside {x : Nat} (h : outside a.toNat size = some x) :
    s.accessCheck a size need wr = s.faultAcc wr 0x17 (BitVec.ofNat 64 x) := by
  rw [State.accessCheck, target_of_outside ha h]
  rfl

theorem accessCheck_of_unaligned (h : outside a.toNat size = none) (hm : a.toNat % size ≠ 0) :
    s.accessCheck a size need wr = s.faultAcc wr 0x06 a := by
  rw [State.accessCheck, target_of_inside ha h]
  exact if_pos hm

/-- An aligned access to the slice is decided by its translation. -/
theorem accessCheck_slice (h : outside a.toNat size = none) (hm : a.toNat % size = 0) (hs : 0x6FFFFF < a.toNat) :
    s.accessCheck a size need wr = match s.translate (t.toNat / 4) (a.toNat - 0x100000000) need with
      | .error c => s.faultAcc wr c a
      | .ok _ => .go := by
  rw [State.accessCheck, target_of_inside ha h, tileTarget, if_neg (not_le.mpr hs)]
  exact if_neg (not_not.mpr hm)

/-- An aligned access to the scratchpad is stopped by a damaged word that it reads. -/
theorem accessCheck_scratchpad (h : outside a.toNat size = none) (hm : a.toNat % size = 0) (hs : a.toNat ≤ 0x6FFFFF) :
    s.accessCheck a size need wr =
      if need ≠ rW ∧ s.spadBad t.toNat (linOf (spadView a.toNat).1 (spadView a.toNat).2) size = true then
        s.faultAcc wr 0x12 a
      else .go := by
  have hc : s.curId = t.toNat := by rw [State.curId, ha]
  rw [State.accessCheck, target_of_inside ha h, tileTarget, if_pos hs]
  show (if a.toNat % size ≠ 0 then _ else checkThat (need == rW || !s.spadBad s.curId _ size) (s.faultAcc wr cECC a)) = _
  rw [if_neg (not_not.mpr hm), hc, checkThat]
  by_cases hn : need = rW
  · simp [hn]
  · cases hb : s.spadBad t.toNat (linOf (spadView a.toNat).1 (spadView a.toNat).2) size <;> simp [hn, cECC]

/-- An access that passes has neither of the first two faults. -/
theorem accessCheck_go (h : s.accessCheck a size need wr = .go) : outside a.toNat size = none ∧ a.toNat % size = 0 := by
  have hne (c : BitVec 8) (x : Word) : s.faultAcc wr c x ≠ .go := by simp [faultAcc_eq]
  have ho : outside a.toNat size = none := by
    by_contra hx
    obtain ⟨x, hx⟩ := Option.ne_none_iff_exists'.mp hx
    exact hne _ _ (accessCheck_of_outside ha hx ▸ h)
  refine ⟨ho, ?_⟩
  by_contra hm
  exact hne _ _ (accessCheck_of_unaligned ha ho hm ▸ h)

end

theorem linOf_spadView (a : Nat) :
    linOf (spadView a).1 (spadView a).2 = if a < 0x400000 then a else swizzle (a - 0x400000) := by
  unfold spadView
  split <;> rfl

/-- Settles O12: the check goes by the range of the first byte, and inside it by alignment, translation and damage. -/
theorem scalarAccessChecks : Obligations.ScalarAccessChecks := by
  intro s t a size need wr ha hsz
  refine ⟨accessCheck_go ha, fun h => ?_, fun r h hp => ?_, fun r h hin => ?_, outside_eq_none_iff,
    rangeOf_eq_some_iff _⟩
  · rw [accessCheck_of_outside ha (outside_of_no_range h), BitVec.ofNat_toNat, BitVec.setWidth_eq]
  · exact accessCheck_of_outside ha ((outside_of_range h).trans (if_neg (by omega)))
  · have ho : outside a.toNat size = none := outside_eq_none_iff.mpr ⟨r, h, hin⟩
    refine ⟨accessCheck_of_unaligned ha ho, fun hm hs => ?_, fun hm hs => ?_⟩
    · have hc := accessCheck_slice (need := need) (wr := wr) ha ho hm (by omega)
      exact ⟨fun c ht => by rw [hc, ht], fun q ht => by rw [hc, ht]⟩
    · rw [accessCheck_scratchpad ha ho hm hs, linOf_spadView]

end Sys2Proof.Machine
end

section
/-! The bytes of a write through a view of a scratchpad (R195, R196): the swizzle is its own inverse and moves no byte within
its granule, so a write cut at granule boundaries lands byte by byte at the offsets of its view. -/

namespace Sys2Proof.Machine

/-! ### Views -/

theorem swizzle_parts (y : Nat) : swizzle y / 1024 = y / 1024 ∧ swizzle y / 64 % 16 = (y / 64 % 16) ^^^ (y / 1024 % 16) ∧
    swizzle y % 64 = y % 64 := by
  have hx : (y / 64 % 16) ^^^ (y / 1024 % 16) < 2 ^ 4 := Nat.xor_lt_two_pow (by omega) (by omega)
  unfold swizzle
  generalize (y / 64 % 16) ^^^ (y / 1024 % 16) = x at hx
  omega

theorem swizzle_swizzle (y : Nat) : swizzle (swizzle y) = y := by
  obtain ⟨h1, h2, h3⟩ := swizzle_parts y
  rw [swizzle, h1, h2, h3, Nat.xor_assoc, Nat.xor_self, Nat.xor_zero]
  omega

theorem swizzle_add {y j : Nat} (h : y % 64 + j < 64) : swizzle (y + j) = swizzle y + j := by
  have h1 : (y + j) / 64 = y / 64 := by omega
  have h2 : (y + j) / 1024 = y / 1024 := by omega
  have h3 : (y + j) % 64 = y % 64 + j := by omega
  rw [swizzle, swizzle, h1, h2, h3]
  omega

theorem linOf_linOf (swz : Bool) (y : Nat) : linOf swz (linOf swz y) = y := by
  cases swz
  · rfl
  · exact swizzle_swizzle y

theorem linOf_add (swz : Bool) {y j : Nat} (h : y % 64 + j < 64) : linOf swz (y + j) = linOf swz y + j := by
  cases swz
  · rfl
  · exact swizzle_add h

/-! ### Pieces -/

/-- The byte that stands at linear offset z once bytes are written at an offset of a view, b having stood there. -/
def overlaid (swz : Bool) (off : Nat) (bs : List Byte) (z : Nat) (b : Byte) : Byte :=
  if off ≤ linOf swz z ∧ linOf swz z < off + bs.length then bs.getD (linOf swz z - off) unlisted else b

theorem overlaid_nil (swz : Bool) (off z : Nat) (b : Byte) : overlaid swz off [] z b = b :=
  if_neg (by simp)

/-- Bytes written in two parts, one behind the other. -/
theorem overlaid_append (swz : Bool) (off : Nat) (xs ys : List Byte) (z : Nat) (b : Byte) :
    overlaid swz off (xs ++ ys) z b = overlaid swz (off + xs.length) ys z (overlaid swz off xs z b) := by
  unfold overlaid
  generalize linOf swz z = y
  rw [List.length_append]
  by_cases hx : y < off + xs.length
  · have hy : ¬(off + xs.length ≤ y ∧ y < off + xs.length + ys.length) := by omega
    rw [if_neg hy]
    by_cases h0 : off ≤ y
    · rw [if_pos (by omega), if_pos ⟨h0, hx⟩, List.getD_append _ _ _ _ (by omega)]
    · rw [if_neg (by omega), if_neg (by omega)]
  · have hn : ¬(off ≤ y ∧ y < off + xs.length) := by omega
    rw [if_neg hn]
    by_cases h1 : y < off + xs.length + ys.length
    · rw [if_pos (by omega), if_pos (by omega), List.getD_append_right _ _ _ _ (by omega), Nat.sub_sub]
    · rw [if_neg (by omega), if_neg (by omega)]

/-- Bytes within one granule lie at their place in the linear view one behind the other. -/
theorem readByte_putPiece (x : Tile) (swz : Bool) {off : Nat} {bs : List Byte} (h : off % 64 + bs.length ≤ 64) (z : Nat) :
    readByte (x.putPiece swz off bs).spad z = overlaid swz off bs z (readByte x.spad z) := by
  have hin {j : Nat} (hj : j < bs.length) : z = linOf swz off + j ↔ linOf swz z = off + j := by
    rw [← linOf_add swz (by omega)]
    exact ⟨fun e => by rw [e, linOf_linOf], fun e => by rw [← e, linOf_linOf]⟩
  rw [Tile.putPiece, readByte_writeBytes, overlaid]
  by_cases hz : linOf swz off ≤ z ∧ z < linOf swz off + bs.length
  · have h1 := (hin (j := z - linOf swz off) (by omega)).mp (by omega)
    rw [if_pos hz, if_pos (by omega), h1, Nat.add_sub_cancel_left]
  · have h1 : ¬(off ≤ linOf swz z ∧ linOf swz z < off + bs.length) := fun hc => by
      have := (hin (j := linOf swz z - off) (by omega)).mpr (by omega)
      omega
    rw [if_neg hz, if_neg h1]

/-- A tile with a piece of a write through a view in its scratchpad and in the granule's history (R198). -/
def Tile.withPiece (x : Tile) (swz : Bool) (p : Nat × List Byte) : Tile :=
  let y := x.putPiece swz p.1 p.2
  let g := linOf swz p.1 / 64
  { y with views := fput x.views g (⟨y.gran g, some swz, none⟩ :: x.history g) }

/-- One piece of a write through a view. -/
def State.writePiece (s : State) (t : Nat) (swz : Bool) (p : Nat × List Byte) : State :=
  (s.modTile t fun x => x.withPiece swz p).cleanPiece t swz p.1 p.2

theorem writeView_eq (s : State) (t : Nat) (swz : Bool) (off : Nat) (bs : List Byte) :
    s.writeView t swz off bs = (pieces off bs).foldl (fun s p => s.writePiece t swz p) s := rfl

theorem writePiece_tile_self (s : State) (t : Nat) (swz : Bool) (p : Nat × List Byte) :
    (s.writePiece t swz p).tile t = (s.tile t).withPiece swz p :=
  State.tile_modTile_self s t fun x => x.withPiece swz p

theorem writePiece_tile_ne (s : State) {t k : Nat} (swz : Bool) (p : Nat × List Byte) (hk : k ≠ t) :
    (s.writePiece t swz p).tile k = s.tile k :=
  State.tile_modTile_ne s t k (fun x => x.withPiece swz p) hk

theorem readByte_splitGran (t : Nat) (swz : Bool) (z n : Nat) (s : State) (off : Nat) (bs : List Byte) (h : bs.length < n) :
    readByte (((splitGran n off bs).foldl (fun s p => s.writePiece t swz p) s).tile t).spad z =
      overlaid swz off bs z (readByte (s.tile t).spad z) := by
  induction n generalizing s off bs with
  | zero => omega
  | succ n ih =>
    rw [splitGran]
    rcases hne : bs with _ | ⟨b, r⟩
    · exact (overlaid_nil ..).symm
    · rw [← hne]
      have hlen : 0 < bs.length := hne ▸ Nat.succ_pos _
      have hemp : bs.isEmpty = false := hne ▸ rfl
      have hk : off % 64 + (bs.take (64 - off % 64)).length ≤ 64 := by
        rw [List.length_take]
        omega
      simp only [hemp, Bool.false_eq_true, if_false, List.foldl_cons]
      rw [ih _ _ _ (by rw [List.length_drop]; omega), writePiece_tile_self, Tile.withPiece, readByte_putPiece _ _ hk]
      by_cases hl : bs.length ≤ 64 - off % 64
      · rw [List.drop_eq_nil_of_le hl, overlaid_nil, List.take_of_length_le hl]
      · have ht : (bs.take (64 - off % 64)).length = 64 - off % 64 := by
          rw [List.length_take]
          omega
        have ha := overlaid_append swz off (bs.take (64 - off % 64)) (bs.drop (64 - off % 64)) z (readByte (s.tile t).spad z)
        rw [ht, List.take_append_drop] at ha
        exact ha.symm

/-- A byte of a scratchpad after a write through a view. -/
theorem readByte_writeView (s : State) (t : Nat) (swz : Bool) (off : Nat) (bs : List Byte) (z : Nat) :
    readByte ((s.writeView t swz off bs).tile t).spad z = overlaid swz off bs z (readByte (s.tile t).spad z) :=
  readByte_splitGran t swz z _ s off bs (Nat.lt_succ_self _)

/-! ### What a write through a view changes -/

/-- A state that differs from another only in the scratchpad of tile t, its histories and damaged words. -/
structure SpadOnly (t : Nat) (s u : State) : Prop where
  eq : u = { s with tiles := u.tiles, modl := u.modl }
  self : u.tile t = { s.tile t with spad := (u.tile t).spad, views := (u.tile t).views }
  other : ∀ k, k ≠ t → u.tile k = s.tile k

theorem SpadOnly.refl (t : Nat) (s : State) : SpadOnly t s s := ⟨rfl, rfl, fun _ _ => rfl⟩

theorem SpadOnly.iss_eq {t : Nat} {s u : State} (h : SpadOnly t s u) : u.iss = s.iss := by rw [h.eq]

theorem SpadOnly.th_eq {t : Nat} {s u : State} (h : SpadOnly t s u) : (u.tile t).th = (s.tile t).th := by rw [h.self]

theorem SpadOnly.run_eq {t : Nat} {s u : State} (h : SpadOnly t s u) : (u.tile t).run = (s.tile t).run := by rw [h.self]

theorem SpadOnly.trans {t : Nat} {s u w : State} (h : SpadOnly t s u) (k : SpadOnly t u w) : SpadOnly t s w := by
  refine ⟨?_, ?_, fun j hj => (k.other j hj).trans (h.other j hj)⟩
  · rw [k.eq, h.eq]
  · rw [k.self, h.self]

theorem spadOnly_foldl {α : Type} {t : Nat} {f : State → α → State} (hf : ∀ s x, SpadOnly t s (f s x)) (l : List α)
    (s : State) : SpadOnly t s (l.foldl f s) := by
  induction l generalizing s with
  | nil => exact .refl t s
  | cons x r ih => exact (hf s x).trans (ih _)

theorem spadOnly_writePiece (s : State) (t : Nat) (swz : Bool) (p : Nat × List Byte) :
    SpadOnly t s (s.writePiece t swz p) := by
  refine ⟨rfl, ?_, fun k hk => writePiece_tile_ne s swz p hk⟩
  rw [writePiece_tile_self]
  rfl

theorem spadOnly_writeView (s : State) (t : Nat) (swz : Bool) (off : Nat) (bs : List Byte) :
    SpadOnly t s (s.writeView t swz off bs) := by
  rw [writeView_eq]
  exact spadOnly_foldl (fun s p => spadOnly_writePiece s t swz p) _ s

end Sys2Proof.Machine
end

section
/-! The end of a bundle with scratchpad writes, no load of its tile being outstanding and no posted store's bytes taken (R134,
R274): the writes land in slot order, then the bundle ends as one without writes. -/

namespace Sys2Proof.Machine

open Sys2Proof.Claims

/-! ### Scratchpad writes in slot order -/

/-- No earlier access of the thread performs with a scratchpad store of it. -/
def Thread.Unburdened (th : Thread) : Prop := th.unperformed = [] ∧ ∀ p ∈ th.posts, p.took = none

theorem Thread.postsFor_eq_nil {th : Thread} {need : Post → Bool} (h : ∀ p ∈ th.posts, need p = false) :
    th.postsFor need = [] := by
  have hf (l : List Post) (hl : ∀ p ∈ l, need p = false) :
      l.foldl (fun l p => if need p || l.any p.before then p :: l else l) [] = [] := by
    induction l with
    | nil => rfl
    | cons p r ih =>
      rw [List.foldl_cons, hl p (List.mem_cons_self ..)]
      exact ih fun q hq => hl q (List.mem_cons_of_mem _ hq)
  exact hf _ fun p hp => h p (List.mem_reverse.mp hp)

theorem performEarlier_of_unburdened {s : State} {a : Agent} (h : (s.threadOf a).Unburdened) (seq pos : Nat) :
    s.performEarlier a seq pos = s := by
  obtain ⟨hl, hp⟩ := h
  rw [State.performEarlier, hl, List.filter_nil, List.foldl_nil, State.performPosts,
    Thread.postsFor_eq_nil fun p hq => by rw [hp p hq]; rfl]
  rfl

section
variable {s : State} {t : BitVec 11} (ha : s.iss.agent = .tile t) (hr : (s.tile t.toNat).run = .running)
  (hb : (s.tile t.toNat).th.Unburdened)
include ha hr hb

theorem performWrite_eq_writeView (w : SpadWrite) : s.performWrite w = s.writeView t.toNat w.swz w.addr w.bytes := by
  have hc : s.curId = t.toNat := by rw [State.curId, ha]
  have he : s.performEarlier s.iss.agent s.thread.bundles w.pos = s :=
    performEarlier_of_unburdened (by rw [ha]; exact hb) _ _
  have hal : s.cur.alive = true := by rw [cur_of_agent ha, Tile.alive, hr]; rfl
  simp only [State.performWrite, he, hal, hc, if_true]

theorem performWrites_of_unburdened (ws : List SpadWrite) (z : Nat) :
    SpadOnly t.toNat s (ws.foldl State.performWrite s) ∧
      readByte ((ws.foldl State.performWrite s).tile t.toNat).spad z =
        ws.foldl (fun b w => overlaid w.swz w.addr w.bytes z b) (readByte (s.tile t.toNat).spad z) := by
  induction ws generalizing s with
  | nil => exact ⟨.refl _ s, rfl⟩
  | cons w r ih =>
    have hw := spadOnly_writeView s t.toNat w.swz w.addr w.bytes
    obtain ⟨h1, h2⟩ := ih (s := s.writeView t.toNat w.swz w.addr w.bytes) (by rw [hw.iss_eq, ha]) (hw.run_eq.trans hr)
      (by rw [hw.th_eq]; exact hb)
    rw [List.foldl_cons, List.foldl_cons, performWrite_eq_writeView ha hr hb]
    exact ⟨hw.trans h1, h2.trans (by rw [readByte_writeView])⟩

end

/-! ### The end of the bundle -/

theorem Thread.getS_endTest_tick (x : Thread) (pc next p : Word) (cut : Bool) (ready : Nat) (k : BitVec 5) :
    ((x.endTest pc next cut).1.tick p ready).getS k = x.getS k := by
  rw [ticks_endTest_tick x pc next p cut ready]
  refine Thread.getS_congr (x.modBank_s _) ?_ k
  obtain ⟨lvl⟩ := x
  cases lvl <;> rfl

end Sys2Proof.Machine
end

section
/-! The frame of a store (R132, R133, R134, R195, R208, R209, R300). -/

namespace Sys2Proof.Machine

open Sys2Proof.Claims

/-! ### Bytes of a value (R7) -/

@[simp] theorem length_leBytes (n x : Nat) : (leBytes n x).length = n := by
  induction n generalizing x with
  | zero => rfl
  | succ n ih => rw [leBytes, List.length_cons, ih]

@[simp] theorem length_rowBytes (r : Row) : (rowBytes r).length = 512 := length_leBytes 512 _

theorem getD_leBytes {n j : Nat} (x : Nat) (h : j < n) : (leBytes n x).getD j unlisted = BitVec.ofNat 8 (x / 256 ^ j) := by
  induction n generalizing x j with
  | zero => omega
  | succ n ih =>
    cases j with
    | zero => simp [leBytes]
    | succ j => rw [leBytes, List.getD_cons_succ, ih _ (by omega), Nat.div_div_eq_div_mul, Nat.pow_succ']

/-- Byte j of a little-endian value. -/
theorem getD_leBytes_toNat {w n j : Nat} (v : BitVec w) (h : j < n) :
    (leBytes n v.toNat).getD j unlisted = v.extractLsb' (8 * j) 8 := by
  rw [getD_leBytes _ h]
  apply BitVec.eq_of_toNat_eq
  rw [BitVec.toNat_ofNat, BitVec.extractLsb'_toNat, Nat.shiftRight_eq_div_pow, Nat.pow_mul]

/-- Byte j of a 32-bit element of a row. -/
theorem getD_leBytes_elem {j : Nat} (r : Row) (k : Nat) (h : j < 4) :
    (leBytes 4 (elem 32 r k)).getD j unlisted = r.extractLsb' (32 * k + 8 * j) 8 := by
  have he : elem 32 r k = (r.extractLsb' (32 * k) 32).toNat := by
    rw [BitVec.extractLsb'_toNat, Nat.shiftRight_eq_div_pow, elem]
  rw [he, getD_leBytes_toNat _ h]
  ext m hm
  simp only [BitVec.getElem_extractLsb', BitVec.getLsbD_extractLsb', Nat.add_assoc]
  have : 8 * j + m < 32 := by omega
  simp [this]

/-! ### A store slot alone in its bundle (R208) -/

/-- What a slot alone in its bundle leaves where its checks pass. -/
theorem eq_of_alone {i : Instr} {check : State → Verdict} {effect : State → State} {s w : State}
    (he : exec i s = issueSlot i check effect s) (hs : Ready i s) (hc : check s.aloneBundle = .go) (hw : exec i s = .next w) :
    w = (effect (s.aloneBundle.marks i)).finishBundle := by
  rw [he, issueSlot_go i check effect s hs.1 hs.2 hc] at hw
  exact (Host.Outcome.next.inj hw).symm

/-- A scalar store reads its address and its value at issue; the marks of its bundle change neither. -/
theorem exec_of_stores {i : Instr} {size : Nat} {addr v : State → Word} (h : stores i = some (size, addr, v)) :
    (∀ s, exec i s = storeOp i size addr v s) ∧ ∀ u j, addr (State.marks u j) = addr u ∧ v (State.marks u j) = v u := by
  cases i with
  | stB | stH | stW | stD | stx =>
    cases h
    exact ⟨fun _ => rfl, fun _ _ => ⟨rfl, rfl⟩⟩
  | _ => cases h

theorem eq_of_store {i : Instr} {size : Nat} {addr v : State → Word} {s w : State} (h : stores i = some (size, addr, v))
    (hs : Ready i s) (hc : s.aloneBundle.accessCheck (addr s.aloneBundle) size rW true = .go) (hw : exec i s = .next w) :
    w = ((s.aloneBundle.marks i).store (addr s.aloneBundle) size (v s.aloneBundle)).finishBundle := by
  obtain ⟨he, hm⟩ := exec_of_stores h
  have h := eq_of_alone (he s) hs hc hw
  rwa [(hm _ i).1, (hm _ i).2] at h

/-- An access that passes has a place, and a translation where that is in a slice. -/
theorem target_of_accessCheck {s : State} {a : Word} {size need : Nat} {wr : Bool} (h : s.accessCheck a size need wr = .go) :
    ∃ tg, s.target a size = .ok tg ∧ ∀ c w, tg = .hbm c w → ∃ q, s.translate c w need = .ok q := by
  have hne (c : BitVec 8) (x : Word) : s.faultAcc wr c x ≠ .go := by simp [faultAcc_eq]
  rw [State.accessCheck] at h
  cases ht : s.target a size with
  | error x => rw [ht] at h; exact absurd h (hne _ _)
  | ok tg =>
    refine ⟨tg, rfl, ?_⟩
    rintro c w rfl
    cases hq : s.translate c w need with
    | ok q => exact ⟨q, rfl⟩
    | error e =>
      rw [ht] at h
      simp only [hq] at h
      split at h
      · exact absurd h (hne _ _)
      · exact absurd h (hne _ _)

/-! ### What a store of a tile leaves -/

section
variable {t : BitVec 11}

theorem storeLeaves_trans {s u w : State} (h : StoreLeaves s u t) (k : StoreLeaves u w t) : StoreLeaves s w t := by
  obtain ⟨h1, h2, h3, h4, h5, h6, h7, h8, h9⟩ := h
  obtain ⟨k1, k2, k3, k4, k5, k6, k7, k8, k9⟩ := k
  exact ⟨k1.trans h1, fun j hj => (k2 j hj).trans (h2 j hj), k3.trans h3, fun j => (k4 j).trans (h4 j), k5.trans h5,
    k6.trans h6, k7.trans h7, k8.trans h8, k9.trans h9⟩

theorem storeLeaves_of_spadOnly {s u : State} (h : SpadOnly t.toNat s u) : StoreLeaves s u t := by
  refine ⟨?_, h.other, ?_, fun k => ?_, ?_, ?_, ?_, ?_, ?_⟩
  · rw [h.eq]
  · rw [h.eq]
  all_goals rw [h.self]

theorem storeLeaves_addPost (s : State) (p : Post) :
    StoreLeaves s (s.modTile t.toNat fun x => { x with th := x.th.addPost p }) t := by
  refine ⟨rfl, fun k hk => State.tile_modTile_ne s _ k _ hk, rfl, fun k => ?_, ?_, ?_, ?_, ?_, ?_⟩
  all_goals rw [State.tile_modTile_self] <;> rfl

theorem storeLeaves_endWith {s : State} {pc next p : Word} {cut : Bool} {ready : Nat} :
    StoreLeaves s (s.endWith t (((s.tile t.toNat).th.endTest pc next cut).1.tick p ready)) t := by
  refine ⟨?_, fun k hk => ?_, ?_, fun k => ?_, ?_, ?_, ?_, ?_, ?_⟩
  · rw [endWith_eq]
  · exact (State.tile_modTile_ne _ _ _ _ hk).trans (arrayTick_tile _ _ _)
  · rw [endWith_eq]
  all_goals rw [endWith_tile]
  · exact Thread.getS_endTest_tick ..
  iterate 4 · rfl
  · rw [ticks_endTest_tick (s.tile t.toNat).th pc next p cut ready]
    simp

end

section
variable {s : State} {t : BitVec 11} (ha : s.iss.agent = .tile t) (hr : (s.tile t.toNat).run = .running)
  (hc : s.iss.control = .none)
include ha hr hc

/-- A bundle without control whose writes change the scratchpad alone changes no register at its end. -/
theorem finishBundle_of_spadOnly (hu : SpadOnly t.toNat s s.performWrites) :
    StoreLeaves s s.finishBundle t ∧ (s.finishBundle.tile t.toNat).th.posts = (s.tile t.toNat).th.posts ∧
      (s.finishBundle.tile t.toNat).spad = (s.performWrites.tile t.toNat).spad := by
  have hi : s.performWrites.iss = s.iss := hu.iss_eq
  have hua : s.performWrites.iss.agent = .tile t := by rw [hi, ha]
  have hs : s.performWrites.stopped = false := by
    simp [State.stopped, cur_of_agent hua, hu.run_eq, hr]
  have hf : s.finishBundle = s.performWrites.endWith t (s.performWrites.afterPlain t) := by
    simp only [State.finishBundle, hs, modCur_of_agent hua, State.modTile_iss, hi, hc, Bool.false_eq_true, if_false]
    rw [← hi]
    exact (endTest_tick_marked hua).1
  refine ⟨storeLeaves_trans (storeLeaves_of_spadOnly hu) (hf ▸ storeLeaves_endWith), ?_, ?_⟩
  · rw [hf, endWith_tile]
    show ((s.performWrites.loopsEnd t).1.tick _ _).posts = _
    rw [State.loopsEnd, ticks_endTest_tick (s.performWrites.tile t.toNat).th, ← hu.th_eq]
    exact Thread.modBank_posts ..
  · rw [hf, endWith_tile]
    rfl

/-- The end of a bundle with scratchpad writes, where nothing performs with them. -/
theorem finishBundle_of_writes (hb : (s.tile t.toNat).th.Unburdened) :
    StoreLeaves s s.finishBundle t ∧ (s.finishBundle.tile t.toNat).th.posts = (s.tile t.toNat).th.posts ∧
      ∀ z, readByte (s.finishBundle.tile t.toNat).spad z =
        s.iss.writes.foldl (fun b w => overlaid w.swz w.addr w.bytes z b) (readByte (s.tile t.toNat).spad z) := by
  have hw := performWrites_of_unburdened ha hr hb s.iss.writes
  obtain ⟨hl, hp, hm⟩ := finishBundle_of_spadOnly ha hr hc (hw 0).1
  exact ⟨hl, hp, fun z => by rw [hm]; exact (hw z).2⟩

/-- The end of a bundle without scratchpad writes. -/
theorem finishBundle_of_no_writes (hw : s.iss.writes = []) :
    StoreLeaves s s.finishBundle t ∧ (s.finishBundle.tile t.toNat).th.posts = (s.tile t.toNat).th.posts ∧
      (s.finishBundle.tile t.toNat).spad = (s.tile t.toNat).spad := by
  have hp : s.performWrites = s := by rw [State.performWrites, hw]; rfl
  obtain ⟨hl, hps, hm⟩ := finishBundle_of_spadOnly ha hr hc (by rw [hp]; exact .refl _ s)
  exact ⟨hl, hps, hm.trans (by rw [hp])⟩

end

/-! ### Bytes that writes cover -/

section
variable {swz : Bool} {off : Nat} {bs : List Byte}

theorem overlaid_covered {j : Nat} (hj : j < bs.length) (b : Byte) :
    overlaid swz off bs (linOf swz (off + j)) b = bs.getD j unlisted := by
  rw [overlaid, linOf_linOf, if_pos (by omega), Nat.add_sub_cancel_left]

theorem overlaid_uncovered {z : Nat} (h : ∀ j < bs.length, z ≠ linOf swz (off + j)) (b : Byte) :
    overlaid swz off bs z b = b := by
  refine if_neg fun hz => h (linOf swz z - off) (by omega) ?_
  rw [Nat.add_sub_cancel' hz.1, linOf_linOf]

end

/-- Of writes in order the last one that covers a byte stands. -/
theorem foldl_overlaid_last (ws : Nat → SpadWrite) {n k j z : Nat} (hk : k < n) (hj : j < (ws k).bytes.length)
    (hz : z = linOf (ws k).swz ((ws k).addr + j))
    (hl : ∀ k' < n, k < k' → ∀ j' < (ws k').bytes.length, z ≠ linOf (ws k').swz ((ws k').addr + j')) (b : Byte) :
    ((List.range n).map ws).foldl (fun b w => overlaid w.swz w.addr w.bytes z b) b = (ws k).bytes.getD j unlisted := by
  induction n with
  | zero => omega
  | succ n ih =>
    rw [List.range_succ, List.map_append, List.foldl_append, List.map_singleton, List.foldl_cons, List.foldl_nil]
    by_cases hn : k = n
    · subst hn
      rw [hz, overlaid_covered hj]
    · rw [overlaid_uncovered (hl n (by omega) (by omega))]
      exact ih (by omega) fun k' hk' => hl k' (by omega)

/-- A byte that no write covers keeps its value. -/
theorem foldl_overlaid_uncovered {ws : List SpadWrite} {z : Nat}
    (h : ∀ w ∈ ws, ∀ j < w.bytes.length, z ≠ linOf w.swz (w.addr + j)) (b : Byte) :
    ws.foldl (fun b w => overlaid w.swz w.addr w.bytes z b) b = b := by
  induction ws with
  | nil => rfl
  | cons w r ih =>
    rw [List.foldl_cons, overlaid_uncovered (h w (List.mem_cons_self ..))]
    exact ih fun v hv => h v (List.mem_cons_of_mem _ hv)

/-! ### Stores of a tile (R132, R133, R134, R208, R209) -/

section
variable {s : State} {t : BitVec 11} (ha : s.iss.agent = .tile t) (hr : (s.tile t.toNat).run = .running)
  (hc : s.iss.control = .none) (hw : s.iss.writes = [])
include ha hr hc hw

/-- A bundle whose one effect is a scratchpad write changes exactly its bytes. -/
theorem frame_of_deferWrite (hb : (s.tile t.toNat).th.Unburdened) (swz : Bool) (off : Nat) (bs : List Byte) :
    let w := (s.deferWrite swz off bs).finishBundle
    (∀ j < bs.length, readByte (w.tile t.toNat).spad (linOf swz (off + j)) = bs.getD j unlisted) ∧
      (∀ z, (∀ j < bs.length, z ≠ linOf swz (off + j)) →
        readByte (w.tile t.toNat).spad z = readByte (s.tile t.toNat).spad z) ∧
      (w.tile t.toNat).th.posts = (s.tile t.toNat).th.posts ∧ StoreLeaves s w t := by
  obtain ⟨hl, hp, hm⟩ := finishBundle_of_writes (s := s.deferWrite swz off bs) ha hr hc hb
  have hws : (s.deferWrite swz off bs).iss.writes = [⟨s.iss.pos, swz, off, bs⟩] := by
    show s.iss.writes ++ _ = _
    rw [hw, List.nil_append]
  simp only [hws, List.foldl_cons, List.foldl_nil] at hm
  exact ⟨fun j hj => (hm _).trans (overlaid_covered hj _), fun z hz => (hm z).trans (overlaid_uncovered hz _), hp, hl⟩

/-- A bundle whose one effect is a posted write changes no byte of the scratchpad. -/
theorem frame_of_addPost (id : Nat) (p : Post) :
    let w := (State.modThread { s with nextId := id } fun th => th.addPost p).finishBundle
    (w.tile t.toNat).spad = (s.tile t.toNat).spad ∧ (w.tile t.toNat).th.posts = (s.tile t.toNat).th.posts ++ [p] ∧
      StoreLeaves s w t := by
  have hm : (State.modThread { s with nextId := id } fun th => th.addPost p) =
      State.modTile { s with nextId := id } t.toNat fun x => { x with th := x.th.addPost p } := by
    simp only [State.modThread, ha, State.modThreadOf]
  rw [hm]
  obtain ⟨hl, hp, hsp⟩ := finishBundle_of_no_writes
    (s := State.modTile { s with nextId := id } t.toNat fun x => { x with th := x.th.addPost p }) ha
    (by rw [State.tile_modTile_self]; exact hr) hc hw
  rw [State.tile_modTile_self] at hp hsp
  exact ⟨hsp, hp, storeLeaves_trans (storeLeaves_addPost { s with nextId := id } p) hl⟩

end

section
variable {s : State} {a : Word} {size : Nat} {v : Word}

theorem store_scratchpad {swz : Bool} {off : Nat} (h : s.target a size = .ok (.spad swz off)) :
    s.store a size v = s.deferWrite swz off (leBytes size v.toNat) := by
  rw [State.store, h]

theorem store_slice {c o pa : Nat} {g : Bool} (h : s.target a size = .ok (.hbm c o)) (hq : s.translate c o rW = .ok (pa, g)) :
    s.store a size v = State.modThread { s with nextId := s.nextId + 1 }
      fun th => th.addPost ⟨s.nextId, pa, scopeOf s.iss.agent pa, .store (leBytes size v.toNat), none⟩ := by
  rw [State.store, h]
  simp only [hq]
  rfl

end

/-- The frame of a scalar store of a tile. -/
theorem scalarStore_frame {s w : State} {i : Instr} {t : BitVec 11} {size : Nat} {addr v : State → Word}
    (h : stores i = some (size, addr, v)) (ha : s.iss.agent = .tile t) (hs : Ready i s)
    (hr : (s.tile t.toNat).run = .running) :
    let b := s.aloneBundle
    ((addr b).toNat ≤ 0x6FFFFF → (s.tile t.toNat).th.Unburdened) →
    b.accessCheck (addr b) size rW true = .go → exec i s = .next w →
    let x := s.tile t.toNat
    let y := w.tile t.toNat
    let at_ (j : Nat) : Nat := linOf (spadView (addr b).toNat).1 ((spadView (addr b).toNat).2 + j)
    ((addr b).toNat ≤ 0x6FFFFF →
      (∀ j < size, readByte y.spad (at_ j) = (v b).extractLsb' (8 * j) 8) ∧
      (∀ z, (∀ j < size, z ≠ at_ j) → readByte y.spad z = readByte x.spad z) ∧ y.th.posts = x.th.posts) ∧
    (0x6FFFFF < (addr b).toNat →
      y.spad = x.spad ∧ ∃ id pa g, b.translate (t.toNat / 4) ((addr b).toNat - 0x100000000) rW = .ok (pa, g) ∧
        y.th.posts = x.th.posts ++ [⟨id, pa, scopeOf (.tile t) pa, .store (leBytes size (v b).toNat), none⟩]) ∧
    StoreLeaves s w t := by
  intro b hb hc hw x y at_
  have hwe := eq_of_store h hs hc hw
  have hab : b.iss.agent = .tile t := ha
  have hin := target_of_inside (size := size) hab (accessCheck_go hab hc).1
  by_cases hsp : (addr b).toNat ≤ 0x6FFFFF
  · have ht : (b.marks i).target (addr b) size = .ok (.spad _ _) := hin.trans (congrArg _ (if_pos hsp))
    rw [store_scratchpad ht] at hwe
    obtain ⟨h1, h2, h3, h4⟩ := frame_of_deferWrite (s := b.marks i) ha hr rfl rfl (hb hsp) (spadView (addr b).toNat).1
      (spadView (addr b).toNat).2 (leBytes size (v b).toNat)
    rw [length_leBytes, ← hwe] at h1 h2
    rw [← hwe] at h3 h4
    exact ⟨fun _ => ⟨fun j hj => (h1 j hj).trans (getD_leBytes_toNat _ hj), h2, h3⟩, fun hn => absurd hsp (not_le.mpr hn), h4⟩
  · have ht : b.target (addr b) size = .ok (.hbm _ _) := hin.trans (congrArg _ (if_neg hsp))
    obtain ⟨tg, htg, hq⟩ := target_of_accessCheck hc
    obtain ⟨⟨pa, g⟩, hq⟩ := hq _ _ (Except.ok.inj (htg.symm.trans ht))
    rw [store_slice (s := b.marks i) ht hq, show (b.marks i).iss.agent = .tile t from ha] at hwe
    obtain ⟨h1, h2, h3⟩ := frame_of_addPost (s := b.marks i) ha hr rfl rfl ((b.marks i).nextId + 1)
      ⟨(b.marks i).nextId, pa, scopeOf (.tile t) pa, .store (leBytes size (v b).toNat), none⟩
    rw [← hwe] at h1 h2 h3
    exact ⟨fun hn => absurd hn hsp, fun _ => ⟨h1, _, pa, g, hq, h2⟩, h3⟩

/-! ### Strided rows -/

/-- The scratchpad write of one element of a VSTS. -/
def elementWrite (pos : Nat) (r : Row) (x : Word × Nat) : SpadWrite :=
  ⟨pos, (spadView x.1.toNat).1, (spadView x.1.toNat).2, leBytes 4 (elem 32 r x.2)⟩

theorem length_elementWrite (pos : Nat) (r : Row) (x : Word × Nat) : (elementWrite pos r x).bytes.length = 4 :=
  length_leBytes 4 _

theorem foldl_deferWrite_elements (r : Row) (l : List (Word × Nat)) (s : State) :
    l.foldl (fun w x => w.deferWrite (spadView x.1.toNat).1 (spadView x.1.toNat).2 (leBytes 4 (elem 32 r x.2))) s =
      s.modIss fun k => { k with writes := k.writes ++ l.map (elementWrite k.pos r) } := by
  induction l generalizing s with
  | nil => simp [State.modIss]
  | cons x l ih =>
    rw [List.foldl_cons, ih]
    simp [State.deferWrite, State.modIss, elementWrite]

theorem zipIdx_strideAddrs (a b : Word) :
    (strideAddrs a b).zipIdx = (List.range 128).map fun k => ((strideAddrs a b).getD k 0, k) := by
  have hl : (strideAddrs a b).length = 128 := by simp [strideAddrs]
  refine List.ext_getElem (by simp [hl]) fun k h1 h2 => ?_
  have hk : k < (strideAddrs a b).length := by simpa using h1
  simp [List.getElem?_eq_getElem hk]

/-- The frame of a VSTS: where elements meet the highest one stands. -/
theorem vsts_frame {s w : State} {t : BitVec 11} {d : VDn} {a b : SOp} (ha : s.iss.agent = .tile t)
    (hr : (s.tile t.toNat).run = .running) (hb : (s.tile t.toNat).th.Unburdened) (hs : Ready (.vsts d a b) s) :
    let u := s.aloneBundle
    let row := u.readV .int32 d.op
    let at_ (e : Word) (j : Nat) : Nat := linOf (spadView e.toNat).1 ((spadView e.toNat).2 + j)
    let el (k : Nat) : Word := (strideAddrs (u.readS a) (u.readS b)).getD k 0
    u.vldsCheck true (strideAddrs (u.readS a) (u.readS b)) = .go → exec (.vsts d a b) s = .next w →
    (∀ k < 128, ∀ j < 4, (∀ k' < 128, k < k' → ∀ j' < 4, at_ (el k') j' ≠ at_ (el k) j) →
      readByte (w.tile t.toNat).spad (at_ (el k) j) = row.extractLsb' (32 * k + 8 * j) 8) ∧
    (∀ z, (∀ k < 128, ∀ j < 4, z ≠ at_ (el k) j) →
      readByte (w.tile t.toNat).spad z = readByte (s.tile t.toNat).spad z) ∧
    (w.tile t.toNat).th.posts = (s.tile t.toNat).th.posts ∧ StoreLeaves s w t := by
  intro u row at_ el hc hw
  have hwe := eq_of_alone (exec_vsts d a b s) hs hc hw
  let m := u.marks (.vsts d a b)
  let ws (k : Nat) : SpadWrite := elementWrite m.iss.pos row (el k, k)
  let e := m.modIss fun k => { k with writes := (List.range 128).map ws }
  have hwe : w = e.finishBundle := by
    rw [hwe, foldl_deferWrite_elements]
    show (m.modIss fun k => { k with writes := [] ++ List.map _ _ }).finishBundle = _
    rw [List.nil_append, zipIdx_strideAddrs, List.map_map]
    rfl
  obtain ⟨hl, hp, hm⟩ := finishBundle_of_writes (s := e) ha hr rfl hb
  rw [← hwe] at hl hp hm
  have hlen (k : Nat) : (ws k).bytes.length = 4 := length_elementWrite ..
  refine ⟨fun k hk j hj hlast => ?_, fun z hz => ?_, hp, hl⟩
  · refine (hm _).trans ((foldl_overlaid_last ws hk (by rw [hlen]; exact hj) rfl (fun k' hk' hlt j' hj' => ?_) _).trans ?_)
    · rw [hlen] at hj'
      exact (hlast k' hk' hlt j' hj').symm
    · exact getD_leBytes_elem row k hj
  · refine (hm z).trans (foldl_overlaid_uncovered (fun x hx j hj => ?_) _)
    obtain ⟨k, hk, rfl⟩ := List.mem_map.mp hx
    rw [hlen] at hj
    exact hz k (List.mem_range.mp hk) j hj

/-- The frame of a VST. -/
theorem vst_frame {s w : State} {t : BitVec 11} {d : VDn} {a : SOp} {i : BitVec 7} (ha : s.iss.agent = .tile t)
    (hr : (s.tile t.toNat).run = .running) (hb : (s.tile t.toNat).th.Unburdened) (hs : Ready (.vst d a i) s) :
    let u := s.aloneBundle
    let at_ (j : Nat) : Nat := linOf (spadView (u.rowAddr a i).toNat).1 ((spadView (u.rowAddr a i).toNat).2 + j)
    u.vldCheck (u.rowAddr a i) true = .go → exec (.vst d a i) s = .next w →
    (∀ j < 512, readByte (w.tile t.toNat).spad (at_ j) = (u.readV .int32 d.op).extractLsb' (8 * j) 8) ∧
    (∀ z, (∀ j < 512, z ≠ at_ j) → readByte (w.tile t.toNat).spad z = readByte (s.tile t.toNat).spad z) ∧
    (w.tile t.toNat).th.posts = (s.tile t.toNat).th.posts ∧ StoreLeaves s w t := by
  intro u at_ hc hw
  have hwe := eq_of_alone (exec_vst d a i s) hs hc hw
  obtain ⟨h1, h2, h3, h4⟩ := frame_of_deferWrite (s := u.marks (.vst d a i)) ha hr rfl rfl hb
    (spadView (u.rowAddr a i).toNat).1 (spadView (u.rowAddr a i).toNat).2 (rowBytes (u.readV .int32 d.op))
  have hwe : w = ((u.marks (.vst d a i)).deferWrite (spadView (u.rowAddr a i).toNat).1 (spadView (u.rowAddr a i).toNat).2
    (rowBytes (u.readV .int32 d.op))).finishBundle := hwe
  rw [length_rowBytes, ← hwe] at h1 h2
  rw [← hwe] at h3 h4
  exact ⟨fun j hj => (h1 j hj).trans (getD_leBytes_toNat _ hj), h2, h3, h4⟩

/-! ### Stores of a sequencer context (R300) -/

/-- What a store of a sequencer context leaves as it was. -/
structure SeqStoreLeaves (s w : State) (q : Nat) : Prop where
  hbm : w.hbm = s.hbm
  tiles : w.tiles = s.tiles
  clusters : w.clusters = s.clusters
  others : ∀ k, k ≠ q → w.seqCtx k = s.seqCtx k
  getS : ∀ k, (w.seqCtx q).th.getS k = (s.seqCtx q).th.getS k
  fpctl : (w.seqCtx q).th.fpctl = (s.seqCtx q).th.fpctl
  slots : (w.seqCtx q).slots = (s.seqCtx q).slots

theorem SeqStoreLeaves.trans {s u w : State} {q : Nat} (h : SeqStoreLeaves s u q) (k : SeqStoreLeaves u w q) :
    SeqStoreLeaves s w q :=
  ⟨k.hbm.trans h.hbm, k.tiles.trans h.tiles, k.clusters.trans h.clusters, fun j hj => (k.others j hj).trans (h.others j hj),
    fun j => (k.getS j).trans (h.getS j), k.fpctl.trans h.fpctl, k.slots.trans h.slots⟩

theorem seqStoreLeaves_modSeq (s : State) (q : Nat) {f : Seq → Seq}
    (hS : ∀ k, (f (s.seqCtx q)).th.getS k = (s.seqCtx q).th.getS k)
    (hf : (f (s.seqCtx q)).th.fpctl = (s.seqCtx q).th.fpctl) (hl : (f (s.seqCtx q)).slots = (s.seqCtx q).slots) :
    SeqStoreLeaves s (s.modSeq q f) q := by
  refine ⟨rfl, rfl, rfl, fun k hk => State.seqCtx_modSeq_ne s q k f hk, fun k => ?_, ?_, ?_⟩
  all_goals rw [State.seqCtx_modSeq_self]
  · exact hS k
  · exact hf
  · exact hl

/-- Two states with the same memory, tiles, clusters and contexts. -/
theorem seqStoreLeaves_of_parts {s w : State} (q : Nat) (hb : w.hbm = s.hbm) (ht : w.tiles = s.tiles)
    (hk : w.clusters = s.clusters) (hq : w.seqs = s.seqs) : SeqStoreLeaves s w q := by
  have hx (k : Nat) : w.seqCtx k = s.seqCtx k := by rw [State.seqCtx, hq, State.seqCtx]
  exact ⟨hb, ht, hk, fun k _ => hx k, fun k => by rw [hx], by rw [hx], by rw [hx]⟩

theorem State.modSeq_modSeq (s : State) (q : Nat) (f g : Seq → Seq) :
    (s.modSeq q f).modSeq q g = s.modSeq q fun x => g (f x) := by
  simp [State.modSeq, State.seqCtx]

theorem State.modSeq_congr {s : State} {q : Nat} {f g : Seq → Seq} (h : f (s.seqCtx q) = g (s.seqCtx q)) :
    s.modSeq q f = s.modSeq q g := by
  rw [State.modSeq, h, State.modSeq]

theorem tick_of_seq {s : State} {q : BitVec 6} (ha : s.iss.agent = .seq q) (pc : Word) :
    s.tick pc = s.modSeq q.toNat fun x => { x with th := x.th.tick pc (s.cycle + 1 + s.iss.cost) } := by
  have ht : s.arrayTick (.seq q) = s := rfl
  simp only [State.tick, ha, ht, State.modThread, State.modThreadOf]

section
variable {s : State} {q : BitVec 6} (ha : s.iss.agent = .seq q) (hc : s.iss.control = .none) (hw : s.iss.writes = [])
include ha hc hw

/-- The end of a bundle of a context that redirects nothing: the back-edge test and an issue cycle. -/
theorem finishBundle_of_seq_plain : s.finishBundle = s.modSeq q.toNat fun x => { x with
    th := (x.th.endTest s.iss.pc s.iss.nextPc false).1.tick (x.th.endTest s.iss.pc s.iss.nextPc false).2
      (s.cycle + 1 + s.iss.cost) } := by
  have hp : s.performWrites = s := by rw [State.performWrites, hw]; rfl
  have hs : s.stopped = false := by simp [State.stopped, State.onTile, ha]
  have hm (f : Tile → Tile) : s.modCur f = s := by simp only [State.modCur, ha]
  have hth : s.thread = (s.seqCtx q.toNat).th := by rw [State.thread, ha]; rfl
  have hon : s.onTile = false := by rw [State.onTile, ha]
  simp only [State.finishBundle, hp, hs, hm, hc, Bool.false_eq_true, if_false, State.endTest, Thread.endTest, hth, hon,
    Bool.false_and]
  by_cases hl : (s.seqCtx q.toNat).th.lvl = .tl0
  · simp only [hl, ne_eq, not_true, if_false, State.modThread, ha, State.modThreadOf]
    rw [tick_of_seq (by exact ha), State.modSeq_modSeq]
    exact State.modSeq_congr (by simp only [hl, not_true, if_false]; rfl)
  · simp only [hl, ne_eq, not_false_iff, if_true]
    rw [tick_of_seq ha]
    exact State.modSeq_congr (by simp only [hl, not_false_iff, if_true])

/-- A bundle whose one effect is a change of its context that keeps registers and launch slots: its end keeps what the
change left of the command memory and of the posted writes. -/
theorem frame_of_modSeq {f : Seq → Seq} (hS : ∀ k, (f (s.seqCtx q.toNat)).th.getS k = (s.seqCtx q.toNat).th.getS k)
    (hf : (f (s.seqCtx q.toNat)).th.fpctl = (s.seqCtx q.toNat).th.fpctl)
    (hl : (f (s.seqCtx q.toNat)).slots = (s.seqCtx q.toNat).slots) :
    let w := (s.modSeq q.toNat f).finishBundle
    (w.seqCtx q.toNat).cmd = (f (s.seqCtx q.toNat)).cmd ∧
      (w.seqCtx q.toNat).th.posts = (f (s.seqCtx q.toNat)).th.posts ∧ SeqStoreLeaves s w q.toNat := by
  intro w
  have hw : w = s.modSeq q.toNat fun x => { f x with
      th := ((f x).th.endTest s.iss.pc s.iss.nextPc false).1.tick ((f x).th.endTest s.iss.pc s.iss.nextPc false).2
        (s.cycle + 1 + s.iss.cost) } :=
    (finishBundle_of_seq_plain (s := s.modSeq q.toNat f) ha hc hw).trans (State.modSeq_modSeq s q.toNat f _)
  have ht := ticks_endTest_tick (f (s.seqCtx q.toNat)).th s.iss.pc s.iss.nextPc
    ((f (s.seqCtx q.toNat)).th.endTest s.iss.pc s.iss.nextPc false).2 false (s.cycle + 1 + s.iss.cost)
  rw [hw, State.seqCtx_modSeq_self]
  refine ⟨rfl, ?_, seqStoreLeaves_modSeq s _ (fun k => (Thread.getS_endTest_tick ..).trans (hS k)) ?_ hl⟩
  · rw [ht]
    exact Thread.modBank_posts ..
  · rw [ht]
    exact (Thread.modBank_fpctl ..).trans hf

end

section
variable {s : State} {q a n : Nat} {tg : Target} (h : s.seqTarget q a n = .ok tg)
include h

theorem seqTarget_of_lt (ha : a < 0x20000) : tg = .cmd a := by
  rw [State.seqTarget, if_pos ha] at h
  split at h
  · exact (Except.ok.inj h).symm
  · cases h

theorem seqTarget_of_le (ha : 0x20000 ≤ a) : ∃ c o, tg = .hbm c o := by
  rw [State.seqTarget, if_neg (not_lt.mpr ha)] at h
  split at h
  · cases h
  · dsimp only at h
    split at h
    · cases h
    · split at h
      · cases h
      · split at h
        · exact ⟨_, _, (Except.ok.inj h).symm⟩
        · split at h
          · exact ⟨_, _, (Except.ok.inj h).symm⟩
          · cases h

end

theorem store_command {s : State} {q : BitVec 6} {a v : Word} {size off : Nat} (ha : s.iss.agent = .seq q)
    (h : s.target a size = .ok (.cmd off)) :
    s.store a size v = s.modSeq q.toNat fun x => { x with cmd := writeLe x.cmd off size v.toNat } := by
  rw [State.store, h]
  simp only [ha]

/-- The frame of a scalar store of a sequencer context. -/
theorem seqStore_frame {s w : State} {i : Instr} {q : BitVec 6} {size : Nat} {addr v : State → Word}
    (h : stores i = some (size, addr, v)) (ha : s.iss.agent = .seq q) (hs : Ready i s) :
    let b := s.aloneBundle
    b.accessCheck (addr b) size rW true = .go → exec i s = .next w →
    let x := s.seqCtx q.toNat
    let y := w.seqCtx q.toNat
    ((addr b).toNat < 0x20000 →
      (∀ z, readByte y.cmd z = if (addr b).toNat ≤ z ∧ z < (addr b).toNat + size then
        (v b).extractLsb' (8 * (z - (addr b).toNat)) 8 else readByte x.cmd z) ∧ y.th.posts = x.th.posts) ∧
    (0x20000 ≤ (addr b).toNat →
      y.cmd = x.cmd ∧ ∃ id c o pa g, b.seqTarget q.toNat (addr b).toNat size = .ok (.hbm c o) ∧
        b.translate c o rW = .ok (pa, g) ∧
        y.th.posts = x.th.posts ++ [⟨id, pa, scopeOf (.seq q) pa, .store (leBytes size (v b).toNat), none⟩]) ∧
    SeqStoreLeaves s w q.toNat := by
  intro b hc hw x y
  have hwe := eq_of_store h hs hc hw
  have htq : b.target (addr b) size = b.seqTarget q.toNat (addr b).toNat size := by
    rw [State.target]
    have hab : b.iss.agent = .seq q := ha
    rw [hab]
  obtain ⟨tg, ht, hq⟩ := target_of_accessCheck hc
  have htg := htq.symm.trans ht
  have hsm (id : Nat) : SeqStoreLeaves s { b.marks i with nextId := id } q.toNat := seqStoreLeaves_of_parts _ rfl rfl rfl rfl
  by_cases hcm : (addr b).toNat < 0x20000
  · obtain rfl := seqTarget_of_lt htg hcm
    rw [store_command (s := b.marks i) ha ht] at hwe
    obtain ⟨hm, hp, hl⟩ := frame_of_modSeq (s := b.marks i) ha rfl rfl
      (f := fun x => { x with cmd := writeLe x.cmd (addr b).toNat size (v b).toNat }) (fun _ => rfl) rfl rfl
    rw [← hwe] at hm hp hl
    refine ⟨fun _ => ⟨fun z => ?_, hp⟩, fun hn => absurd hcm (not_lt.mpr hn), (hsm _).trans hl⟩
    show readByte (w.seqCtx q.toNat).cmd z = _
    rw [hm, writeLe, readByte_writeBytes, length_leBytes]
    exact if_ctx_congr Iff.rfl (fun hz => getD_leBytes_toNat _ (by omega)) fun _ => rfl
  · obtain ⟨c, o, rfl⟩ := seqTarget_of_le htg (not_lt.mp hcm)
    obtain ⟨⟨pa, g⟩, hq⟩ := hq c o rfl
    rw [store_slice (s := b.marks i) ht hq, State.modThread, show (b.marks i).iss.agent = .seq q from ha] at hwe
    obtain ⟨hm, hp, hl⟩ := frame_of_modSeq (s := { b.marks i with nextId := (b.marks i).nextId + 1 }) ha rfl rfl
      (f := fun x => { x with
        th := x.th.addPost ⟨(b.marks i).nextId, pa, scopeOf (.seq q) pa, .store (leBytes size (v b).toNat), none⟩ })
      (fun _ => rfl) rfl rfl
    have hwe : w = (State.modSeq { b.marks i with nextId := (b.marks i).nextId + 1 } q.toNat _).finishBundle := hwe
    rw [← hwe] at hm hp hl
    exact ⟨fun hn => absurd hn hcm, fun _ => ⟨hm, _, c, o, pa, g, htg, hq, hp⟩, (hsm _).trans hl⟩

/-! ### A posted store performs (R209) -/

theorem spad_modThreadOf (s : State) (a : Agent) (f : Thread → Thread) (j : Nat) :
    ((s.modThreadOf a f).tile j).spad = (s.tile j).spad := by
  cases a with
  | tile t =>
    by_cases hj : j = t.toNat
    · subst hj
      simp [State.modThreadOf]
    · simp [State.modThreadOf, hj]
  | seq q => rfl

/-- A posted store that may perform changes exactly its bytes. -/
theorem postedStore_frame {s : State} {a : Agent} {k : Nat} {p : Post} {bs : List Byte}
    (hf : (s.threadOf a).posts.find? (fun q => q.id == k) = some p) (hm : (s.threadOf a).mayApply p = true)
    (hp : p.op = .store bs) :
    ∃ w, exec (.atomicUnitApply a k) s = .next w ∧
      (∀ z, readByte w.hbm z = if p.pa ≤ z ∧ z < p.pa + bs.length then bs.getD (z - p.pa) 0 else readByte s.hbm z) ∧
      ∀ j, (w.tile j).spad = (s.tile j).spad := by
  let u := s.modThreadOf a fun t => { t with posts := t.posts.filter fun q => q.id != p.id }
  refine ⟨u.hbmWrite p.pa bs, ?_, fun z => ?_, fun j => ?_⟩
  · show execAtomicUnitApply a k s = _
    simp only [execAtomicUnitApply, hf, hm, if_true, State.performPost, State.postDamage, hp, Bool.false_eq_true, if_false,
      State.applyPost]
    rfl
  · show readByte (writeBytes u.hbm p.pa bs) z = _
    rw [readByte_writeBytes, State.modThreadOf_hbm]
    rfl
  · obtain ⟨d, hd⟩ := (recordsOnly_hbmWrite u p.pa bs).tile j
    rw [hd]
    exact spad_modThreadOf s a _ j

/-- Settles O52: the store's one effect, then the end of its bundle. -/
theorem storeFrame : Obligations.StoreFrame := by
  refine ⟨fun s w i t size addr v h ha hs hr => scalarStore_frame h ha hs hr, fun s w t d a b i ha hr hl hp => ?_,
    fun s w i q size addr v h ha hs => ?_, fun s a k p bs hf hm hp => postedStore_frame hf hm hp⟩
  · exact ⟨vst_frame ha hr ⟨hl, hp⟩, vsts_frame ha hr ⟨hl, hp⟩⟩
  · intro b hc hw x y
    obtain ⟨h1, h2, hl⟩ := seqStore_frame h ha hs hc hw
    exact ⟨h1, h2, hl.hbm, hl.tiles, hl.clusters, hl.others, hl.getS, hl.fpctl, hl.slots⟩

end Sys2Proof.Machine
end

section
/-! The lease, the matrix and cell commands and the scale loads (R143 to R168, R291): each check that asks for the lease
begins with the same one, which decides between LEASE_REQUIRED and the checks behind it. -/

namespace Sys2Proof.Machine

open Sys2Proof.Claims

/-! ### The checks of the lease (R143, R146) -/

section
variable {s : State} {last : Nat}

theorem leaseGranted_iff (s : State) : s.leaseGranted = true ↔ hasLease s := by
  rw [State.leaseGranted, Bool.and_eq_true, beq_iff_eq, beq_iff_eq, hasLease]

theorem leaseCheck_eq_go_iff : s.leaseCheck last = .go ↔
    s.arr.holder = some (BitVec.ofNat 2 s.curId) ∧ s.arr.spent = false ∧ last ≤ 32768 := by
  rw [State.leaseCheck, State.faultPc, checkThat_eq_go (faultAt_ne_go _ _ _)]
  simp [and_assoc]

theorem andThen_faultPc (c : BitVec 8) (v : Verdict) : (s.faultPc c).andThen v = s.faultPc c := rfl

section
variable (h : s.arr.holder ≠ some (BitVec.ofNat 2 s.curId) ∨ s.arr.spent = true)
include h

theorem leaseCheck_trap : s.leaseCheck last = s.faultPc cLEASE_REQUIRED := by
  refine checkThat_false _ ?_
  rcases h with hh | hs
  · rw [beq_eq_false_iff_ne.mpr hh, Bool.false_and, Bool.false_and]
  · rw [hs, Bool.not_true, Bool.and_false, Bool.false_and]

/-- Every other check of a command stands behind that of the lease (R146, R291). -/
theorem leaseCheck_andThen_trap (v : Verdict) : (s.leaseCheck last).andThen v = s.faultPc cLEASE_REQUIRED := by
  rw [leaseCheck_trap h, andThen_faultPc]

theorem mmaCheck_trap (f : MmaF) (a b : VOp) : s.mmaCheck f a b = s.faultPc cLEASE_REQUIRED := by
  rw [State.mmaCheck, leaseCheck_andThen_trap h, andThen_faultPc]

theorem mmcCheck_trap (f : MmcF) (a b : VOp) : s.mmcCheck f a b = s.faultPc cLEASE_REQUIRED := by
  rw [State.mmcCheck, leaseCheck_andThen_trap h, andThen_faultPc]

end

end

/-! ### The moulds of the commands -/

section
variable {i : Instr} {d : BitVec 4} {a b : VOp}

theorem does_of_mmaOp {f : MmaF} (he : ∀ s, exec i s = mmaOp i d f a b s) :
    Does i (fun u => u.mmaCheck f a b = .go) fun u => u.mma d f a b :=
  does_of_issueSlot he fun _ h => h

theorem needsLease_of_mmaOp {f : MmaF} (he : ∀ s, exec i s = mmaOp i d f a b s) : NeedsLease i :=
  faults_of_issueSlot he fun _ h => mmaCheck_trap h f a b

theorem counts_of_mmcOp {f : MmcF} (he : ∀ s, exec i s = mmcOp i d f a b s) : Counts i d f a b :=
  does_of_issueSlot he fun _ h => h

theorem needsLease_of_mmcOp {f : MmcF} (he : ∀ s, exec i s = mmcOp i d f a b s) : NeedsLease i :=
  faults_of_issueSlot he fun _ h => mmcCheck_trap h f a b

end

section
variable {i : Instr} {occ off : Nat} {cmd : State → ACmd} (he : ∀ s, exec i s = cellOp i occ off cmd s)
include he

theorem cells_of_cellOp : Cells i occ off cmd := does_of_issueSlot he fun _ h => leaseCheck_eq_go_iff.mpr h

theorem needsLease_of_cellOp : NeedsLease i := faults_of_issueSlot he fun _ h => leaseCheck_trap h

end

section
variable {i : Instr} {w : Img} {a : SOp} {wr : Bool} {cmd : Bool → Nat → ACmd}
  (he : ∀ s, exec i s = imageOp i w a wr cmd s)
include he

theorem does_of_imageOp :
    Does i (fun u => u.leaseCheck (u.arr.cellStart + imgCycles w + 1) = .go ∧ u.imageCheck w (u.readS a) wr = .go)
      fun u => u.addCell (imgCycles w) (cmd (spadView (u.readS a).toNat).1 (spadView (u.readS a).toNat).2)
        [(1, .read), (imgCycles w + 1, .write)] :=
  does_of_issueSlot he fun _ ⟨hl, hi⟩ => (andThen_eq_go hl).trans hi

theorem needsLease_of_imageOp : NeedsLease i :=
  faults_of_issueSlot he fun s h => leaseCheck_andThen_trap h (s.imageCheck w (s.readS a) wr)

end

section
variable {i : Instr} {q restart : Bool} {scm : Scm} {a b : SOp}
  (he : ∀ s, exec i s = issueSlot i (fun u => u.sldCheck q restart (u.readS a) (u.readS b))
    (fun u => u.sld q restart scm (u.readS a) (u.readS b)) s)
include he

theorem does_of_scaleLoad : Does i (fun u => u.sldCheck q restart (u.readS a) (u.readS b) = .go)
    fun u => u.sld q restart scm (u.readS a) (u.readS b) :=
  does_of_issueSlot he fun _ h => h

theorem needsLease_of_scaleLoad : NeedsLease i :=
  faults_of_issueSlot he fun _ h => leaseCheck_andThen_trap h _

end

/-! ### The lease (R143, R145) -/

theorem exec_mlease (s : State) : exec .mlease s =
    issueSlot .mlease (fun u => if u.leaseGranted then .go else .wait (some .lease))
      (fun u => u.modCur fun x => { x with lease := none }) s := rfl

theorem exec_mrel (s : State) : exec .mrel s =
    issueSlot .mrel (fun u => checkThat (u.arr.holder == some (BitVec.ofNat 2 u.curId)) (u.faultPc cLEASE_REQUIRED))
      (fun u => (u.modArr u.curCluster fun m => { m with spent := true }).endRun u.curCluster) s := rfl

/-- Settles O14: MLEASE and MREL by the holder, each other command by its mould; the check of the lease comes first. -/
theorem matrixSlots : Obligations.MatrixSlots := by
  refine ⟨⟨?mlease, ?waits, ?mrel, ?released⟩, fun d a b f g => ?_, fun a bank acc eb d m w => ?_,
    fun q restart scm a b d imm => ?_, fun d a b x y f g bank acc q restart eb m w scm => ⟨?_, ?_, ?_⟩⟩
  case mlease => exact does_of_issueSlot exec_mlease fun s h => if_pos ((leaseGranted_iff s).mpr h)
  case waits => exact waits_of_issueSlot exec_mlease fun s h => if_neg (mt (leaseGranted_iff s).mp h)
  case mrel => exact does_of_issueSlot exec_mrel fun _ h => checkThat_true _ (beq_iff_eq.mpr h)
  case released => exact faults_of_issueSlot exec_mrel fun _ h => checkThat_false _ (beq_eq_false_iff_ne.mpr h)
  · refine ⟨?_, ?_, ?_, ?_, ?_, ?_, ?_, ?_, ?_, ?_, ?_, ?_⟩
    iterate 5 · exact does_of_mmaOp fun _ => rfl
    all_goals exact counts_of_mmcOp fun _ => rfl
  · refine ⟨?_, ?_, ?_, ?_, ?_, ?_, ?_, ?_, ?_, ?_, does_of_imageOp fun _ => rfl, does_of_imageOp fun _ => rfl⟩
    all_goals exact cells_of_cellOp fun _ => rfl
  · exact ⟨does_of_scaleLoad fun _ => rfl, does_of_scaleLoad fun _ => rfl, does_of_scaleLoad fun _ => rfl,
      does_of_issueSlot (fun _ => rfl) fun _ _ => rfl, does_of_issueSlot (fun _ => rfl) fun _ _ => rfl⟩
  · refine ⟨?_, ?_, ?_, ?_, ?_, ?_, ?_, ?_, ?_, ?_, ?_, ?_⟩
    iterate 5 · exact needsLease_of_mmaOp fun _ => rfl
    all_goals exact needsLease_of_mmcOp fun _ => rfl
  · -- Each meaning is named, so that its mould is read off it and not off the whole of exec.
    exact ⟨needsLease_of_cellOp fun s => (rfl : execCfoldCb0 x s = _),
      needsLease_of_cellOp fun s => (rfl : execCfoldCb1 x s = _),
      needsLease_of_cellOp fun s => (rfl : execCfoldW bank eb s = _),
      needsLease_of_cellOp fun s => (rfl : execCmergeCb0 s = _), needsLease_of_cellOp fun s => (rfl : execCmergeCb1 s = _),
      needsLease_of_cellOp fun s => (rfl : execCclr s = _), needsLease_of_cellOp fun s => (rfl : execAclr d s = _),
      needsLease_of_cellOp fun s => (rfl : execCdrain m d s = _),
      needsLease_of_cellOp fun s => (rfl : execCdrainAdd m d s = _),
      needsLease_of_cellOp fun s => (rfl : execCdrainW m d acc s = _), needsLease_of_imageOp fun _ => rfl,
      needsLease_of_imageOp fun _ => rfl⟩
  · exact ⟨needsLease_of_scaleLoad fun _ => rfl, needsLease_of_scaleLoad fun _ => rfl, needsLease_of_scaleLoad fun _ => rfl⟩

end Sys2Proof.Machine
end

section
/-! The moulds of the accesses, copies and window transfers by the checks of their own (R208, R214, R218, R227, R241). -/

namespace Sys2Proof.Machine

open Sys2Proof.Claims

section
variable {i : Instr}

theorem loads_of_loadOp {n : Bool} {d : SDst} {size : Nat} {signed : Bool} {addr : State → Word}
    (he : ∀ s, exec i s = loadOp i n d size signed addr s) : Loads i n d size signed addr :=
  does_of_issueSlot he fun _ h => h

theorem stores_of_storeOp {size : Nat} {addr v : State → Word} (he : ∀ s, exec i s = storeOp i size addr v s) :
    Stores i size addr v :=
  does_of_issueSlot he fun _ h => h

/-- A handle of a slot with nothing in flight passes (R227). -/
theorem handleCheck_go {s : State} {v : Word} (hm : s.cur.handleMatch v = .slot)
    (hb : (s.cur.hslot (slotNo v)).st ≠ .busy) : s.handleCheck v = .go := by
  simp only [State.handleCheck, hm, if_neg hb]

theorem copyCheck_go {h : State → Word} {p : State → CopyP} {s : State} (hs : mayStart h p s) :
    s.copyCheck (h s) (p s) = .go := by
  obtain ⟨hm, hb, hf, hq⟩ := hs
  rw [State.copyCheck, andThen_eq_go (handleCheck_go hm hb), hf]
  exact if_pos hq

theorem starts_of_copyOp {h : State → Word} {p : State → CopyP} {a : DOp} (he : ∀ s, exec i s = copyOp i h p a s) :
    Starts i h p a :=
  does_of_issueSlot he fun _ hs => copyCheck_go hs

theorem transfers_of_winOp {h : State → Word} {p : State → WinP} {a : DOp} (he : ∀ s, exec i s = winOp i h a p s) :
    Transfers i h a p :=
  does_of_issueSlot he fun _ hs => hs

end

end Sys2Proof.Machine
end

section
/-! DLOAD, DSEL and FFENCE, and the dictionary slot: it runs as the wide instruction it expands to, so what that instruction
does it does (R77, R172, R174, R176, R177). -/

namespace Sys2Proof.Machine

open Sys2Proof.Claims

/-! ### DLOAD (R174) -/

theorem exec_dload (k : Bool) (a b : SOp) (s : State) : exec (.dload k a b) s =
    issueSlot (.dload k a b) (fun u => u.dloadCheck k (u.readS a) (u.readS b))
      (fun u => u.dload k (u.readS a) (u.readS b)) s := rfl

section
variable {s : State} {k : Bool} {a n : Word}

theorem dloadCheck_of_count (h : 2048 < n.toNat) : s.dloadCheck k a n = s.faultAt cVIEW_RANGE (a + 32768) :=
  if_pos h

theorem dloadCheck_of_unaligned (h0 : 0 < n.toNat) (hn : n.toNat ≤ 2048) (ha : a.toNat % 64 ≠ 0) :
    s.dloadCheck k a n = s.faultAt cALIGN a := by
  have hz : n ≠ 0 := by
    rintro rfl
    exact absurd h0 (by decide)
  rw [State.dloadCheck, if_neg (not_lt.mpr hn), if_neg hz, if_pos ha]

end

/-! ### What a dictionary slot expands to (R77, R80, R172) -/

/-- A wide instruction does in the place of a dictionary slot what it does by itself. -/
theorem execWide_eq_exec {k : Instr} (h : k.wide.isSome = true) (s : State) : execWide k s = exec k s := by
  cases k with
  | li | addiW | andiW | oriW | xoriW | muliW | sltiW | seqiW | fcvtW | fcmpW => rfl
  | vaddW | vsubW | vmulW | vfmaW | vmaxW | vminW | vcvt | vrsumW | vrmaxW | cselkW => rfl
  | mmaW | mmcW | cfoldW | cdrainW | sldW | lysetW => rfl
  | ldx | stx | cpyW | cpyrW | waccW | wgacW => rfl
  | brW | jalW | brpW | loopW | looppW => rfl
  | _ => exact absurd h Bool.false_ne_true

theorem exec_dictionarySlot (e : BitVec 11) (h i j : BitVec 6) (s : State) :
    exec (.dictionarySlot e h i j) s = execDictionarySlot e h i j s := rfl

section
variable {e : BitVec 11} {h i j : BitVec 6} {s : State} {k : Instr}

theorem exec_dictionarySlot_alone (hp : s.iss.phase = .alone) (hx : s.aloneBundle.expand s.iss.pos e h i j = .ok k)
    (hw : k.wide.isSome = true) : exec (.dictionarySlot e h i j) s = exec k s := by
  rw [← execWide_eq_exec hw, exec_dictionarySlot]
  replace hx : s.aloneBundle.expand s.aloneBundle.iss.pos e h i j = .ok k := hx
  simp only [execDictionarySlot, hp, hx]

theorem exec_dictionarySlot_bundled (hp : s.iss.phase ≠ .alone) (hx : s.expand s.iss.pos e h i j = .ok k)
    (hw : k.wide.isSome = true) : exec (.dictionarySlot e h i j) s = exec k s := by
  rw [← execWide_eq_exec hw, exec_dictionarySlot]
  cases hs : s.iss.phase with
  | alone => exact absurd hs hp
  | check | commit => simp only [execDictionarySlot, hs, hx]

theorem exec_dictionarySlot_alone_refused {x : Nat × BitVec 8} (hp : s.iss.phase = .alone)
    (hx : s.aloneBundle.expand s.iss.pos e h i j = .error x) : exec (.dictionarySlot e h i j) s =
      .next (s.aloneBundle.takeTrap s.aloneBundle.iss.pc (s.aloneBundle.refuseSlot x.2)) := by
  rw [exec_dictionarySlot]
  replace hx : s.aloneBundle.expand s.aloneBundle.iss.pos e h i j = .error x := hx
  simp only [execDictionarySlot, hp, hx]

theorem exec_dictionarySlot_check_refused {x : Nat × BitVec 8} (hp : s.iss.phase = .check)
    (hx : s.expand s.iss.pos e h i j = .error x) : exec (.dictionarySlot e h i j) s =
      .next (s.modIss fun k => { k with verdict := .trap (s.refuseSlot x.2) }) := by
  simp only [exec_dictionarySlot, execDictionarySlot, hp, hx]

/-- What a wide instruction does, a dictionary slot that expands to it does. -/
theorem doesAs_of_does {c : State → Prop} {f : State → State} (hw : k.wide.isSome = true) (hd : Does k c f) :
    DoesAs e h i j k c f := by
  obtain ⟨-, hcommit, halone⟩ := hd
  refine ⟨fun s hp hx hc => ?_, fun s hx hr hc => ?_⟩
  · rw [exec_dictionarySlot_bundled (by simp [hp]) hx hw, hcommit s hp hc]
  · rw [exec_dictionarySlot_alone hr.1 hx hw, halone s hr hc]

/-- A wide form of the common frame, by its check. -/
theorem doesAs_of_issueSlot {check : State → Verdict} {effect : State → State} {c : State → Prop}
    (hw : k.wide.isSome = true) (he : ∀ s, exec k s = issueSlot k check effect s) (hg : ∀ s, c s → check s = .go) :
    DoesAs e h i j k c effect :=
  doesAs_of_does hw (does_of_issueSlot he hg)

theorem doesAs_of_scalarOp {lat : Nat} {n : Bool} {d : SDst} {v : State → Word} (hw : k.wide.isSome = true)
    (he : ∀ s, exec k s = scalarOp k lat n d v s) : DoesAs e h i j k free fun u => u.dstS lat n d (v u) :=
  doesAs_of_does hw (writesScalar_of_scalarOp he)

theorem doesAs_of_rowFlagOp {lat : Nat} {n : Bool} {d : VOp} {r : State → Row × Flags} (hw : k.wide.isSome = true)
    (he : ∀ s, exec k s = rowFlagOp k lat n d r s) :
    DoesAs e h i j k (valid fun u => (r u).2) fun u => u.dstFV lat n d (r u) :=
  doesAs_of_does hw (writesRow_of_rowFlagOp he).1

end

/-- The encoding of a CPY.W depends on its conversion; it has one with and without. -/
theorem wide_cpyW_isSome (d : SOp) (a : DOp) (ly : BitVec 3) (conv : Option Conv) :
    (Instr.cpyW d a ly conv).wide.isSome = true := by
  cases conv <;> rfl

/-- Settles O15: DLOAD by its check; a dictionary slot runs as what it expands to, and each wide form is its own mould. -/
theorem dictionarySlots : Obligations.DictionarySlots := by
  refine ⟨fun k a b => ⟨?dload, ?dsel, ?ffence, ?count, ?unaligned⟩,
    fun e h i j s hp => ⟨fun k hx hw => exec_dictionarySlot_alone hp hx hw,
      fun x hx => exec_dictionarySlot_alone_refused hp hx⟩,
    fun e h i j s k hp hx hw => exec_dictionarySlot_bundled hp hx hw,
    fun e h i j s x hp hx => exec_dictionarySlot_check_refused hp hx,
    fun e h i j m n sat bank acc q restart sx ds dv p g l x y a b w imm i32 o16 f fd fa c part d4 eb fm fc scm sz conv fr
      op o inc k v => ⟨?scalar, ?vector, ?matrix, ?memory, ?brW, ?jalW, ?taken, ?fallThrough, ?loop, ?pipelined⟩⟩
  case dload => exact does_of_issueSlot (exec_dload k a b) fun _ hg => hg
  case dsel => exact does_of_issueSlot (fun _ => rfl) fun _ _ => rfl
  case ffence => exact does_of_issueSlot (fun _ => rfl) fun _ _ => rfl
  case count => exact faults_of_issueSlot (exec_dload k a b) fun _ hn => dloadCheck_of_count hn
  case unaligned =>
    exact faults_of_issueSlot (exec_dload k a b) fun _ ⟨h0, hn, ha⟩ => dloadCheck_of_unaligned h0 hn ha
  case scalar =>
    refine ⟨?_, ?_, ?_, ?_, ?_, ?_, ?slti, ?seqi, ?fcvt, ?fcmp⟩
    case slti => exact doesAs_of_does rfl (writesScalar_of_truth fun _ => rfl)
    case seqi => exact doesAs_of_does rfl (writesScalar_of_truth fun _ => rfl)
    case fcvt => exact doesAs_of_does rfl (writesFloat_of_floatOp fun _ => rfl).1
    case fcmp => exact doesAs_of_does rfl (floats_of_compareOp fun _ => rfl).1
    all_goals exact doesAs_of_scalarOp rfl fun _ => rfl
  case vector =>
    refine ⟨?_, ?_, ?_, ?_, ?_, ?_, ?_, ?_, ?_, ?row, ?file⟩
    case row => exact doesAs_of_does rfl (floats_of_issueSlot fun _ => rfl).1
    case file => exact doesAs_of_does rfl (floats_of_issueSlot fun _ => rfl).1
    all_goals exact doesAs_of_rowFlagOp rfl fun _ => rfl
  case matrix =>
    exact ⟨doesAs_of_does rfl (does_of_mmaOp fun _ => rfl), doesAs_of_does rfl (counts_of_mmcOp fun _ => rfl),
      doesAs_of_issueSlot rfl (fun s => (rfl : execCfoldW bank eb s = _)) fun _ hg => hg,
      doesAs_of_issueSlot rfl (fun s => (rfl : execCdrainW m d4 acc s = _)) fun _ hg => hg,
      doesAs_of_does rfl (does_of_scaleLoad fun _ => rfl), doesAs_of_issueSlot rfl (fun _ => rfl) fun _ _ => rfl⟩
  case memory =>
    exact ⟨doesAs_of_does rfl (loads_of_loadOp fun _ => rfl), doesAs_of_does rfl (stores_of_storeOp fun _ => rfl),
      doesAs_of_does (wide_cpyW_isSome x w l conv) (starts_of_copyOp fun _ => rfl),
      doesAs_of_does rfl (starts_of_copyOp fun _ => rfl),
      fun z => ⟨doesAs_of_does rfl (transfers_of_winOp fun _ => rfl),
        doesAs_of_does rfl (transfers_of_winOp fun _ => rfl)⟩⟩
  case brW => exact doesAs_of_issueSlot rfl (fun _ => rfl) fun _ _ => rfl
  case jalW => exact doesAs_of_issueSlot rfl (fun _ => rfl) fun _ _ => rfl
  case taken => exact doesAs_of_does rfl (does_of_branch_taken fun _ => rfl)
  case fallThrough => exact doesAs_of_does rfl (does_of_branch_not_taken (off := i32) fun _ => rfl)
  case loop => exact doesAs_of_does rfl (enters_of_loopSlot fun _ => rfl).1
  case pipelined => exact doesAs_of_does rfl (enters_of_loopSlot fun _ => rfl).1

end Sys2Proof.Machine
end

section
/-! A save of a tile that lists a row past its accumulator store (R336): a step that does not keep the memories canonical. -/

namespace Sys2Proof.Machine

/-- Tile 0 of launch 2, whose accumulator store lists a row 2048, one past those that an image has a place for (R336), and whose
scratchpad holds a byte at 0. -/
def overfullTile : Tile := { Tile.reset with run := .running, slot := 2, acc := [(2048, 1)], spad := [(0, 1)] }

/-- Launch 2 being saved, the image of its tile 0 written up to the scratchpad. -/
def overfullLaunch : LSlot :=
  { LSlot.reset with st := .running, save := some 0, cut := some ⟨none, true⟩, saving := [(0, 0x124000)] }

/-- The launch about to go on with its save, by one granule of the scratchpad. -/
def savingOverfull : State :=
  { State.reset with
    turns := [.saveUpTo 0 2 0 0x124040]
    parts := [(0, { Part.reset with svlen := 0x500000 })]
    seqs := [(0, { Seq.reset with slots := vset Seq.reset.slots 2 overfullLaunch })]
    tiles := [(0, overfullTile)] }

/-- The state after its step. -/
def savedOverfull : State := savingOverfull.nextTurn.2.saveTo 0 2 0 0 0x124040

theorem memories_savingOverfull : Safety.memories savingOverfull = true := by decide

theorem step_savingOverfull : step savingOverfull = .next savedOverfull := rfl

/-- The image gives the row past the accumulator store and the first byte of the scratchpad one address. -/
theorem hbm_savedOverfull : savedOverfull.hbm = [(0x124000, 1), (0x124000, 1)] := by decide +kernel

theorem wf_hbm_of_memories {s : State} (h : Safety.memories s = true) : Memory.wf s.hbm = true := by
  simp only [Safety.memories, Bool.and_eq_true] at h
  obtain ⟨⟨hbm, -⟩, -⟩ := h
  exact hbm

/-- Refutes O59: of a state in which a tile lists an accumulator row 2048, which its table can hold and its image has no place
for, a step of the save writes an image that lists an address twice, so that HBM is not canonical any more. -/
theorem not_stepKeepsMemories : ¬ Obligations.StepKeepsMemories := by
  intro h
  obtain ⟨hm, -⟩ := h _ _ memories_savingOverfull step_savingOverfull
  have hw := wf_hbm_of_memories hm
  rw [hbm_savedOverfull] at hw
  exact absurd hw (by decide)

end Sys2Proof.Machine
end

section
/-! Canonical memories (log entry 2): what a memory lists is what it reads, so memories that read alike are equal. -/

namespace Sys2Proof.Machine

/-- A memory whose addresses rise lists a cell where it reads its byte. -/
theorem readByte_of_mem {m : Memory} (hm : m.Pairwise fun c d => c.1 < d.1) {c : Host.Cell} (hc : c ∈ m) :
    readByte m c.1 = c.2 := by
  induction m with
  | nil => nomatch hc
  | cons d r ih =>
    obtain ⟨hd, hr⟩ := List.pairwise_cons.mp hm
    rcases List.mem_cons.mp hc with rfl | hc
    · exact if_pos rfl
    · exact (if_neg (hd c hc).ne').trans (ih hr hc)

/-- The cells of a canonical memory are the bytes that it reads, those that differ from an unlisted one. -/
theorem Memory.mem_iff {m : Memory} (hm : Memory.wf m = true) (c : Host.Cell) :
    c ∈ m ↔ readByte m c.1 = c.2 ∧ c.2 ≠ unlisted := by
  obtain ⟨hne, hsorted⟩ := (Memory.wf_iff m).mp hm
  refine ⟨fun hc => ⟨readByte_of_mem hsorted hc, hne c hc⟩, fun ⟨hr, hc⟩ => ?_⟩
  rcases fget_mem unlisted m c.1 with hu | hl
  · exact absurd (hr.symm.trans hu) hc
  · rw [show fget unlisted m c.1 = c.2 from hr] at hl
    exact hl

theorem Memory.ext_of_readByte {m n : Memory} (hm : Memory.wf m = true) (hn : Memory.wf n = true)
    (h : ∀ x, readByte m x = readByte n x) : m = n := by
  have hsm := ((Memory.wf_iff m).mp hm).2
  have hsn := ((Memory.wf_iff n).mp hn).2
  have nodup {l : Memory} (hl : l.Pairwise fun c d => c.1 < d.1) : l.Nodup :=
    hl.imp fun hlt => ne_of_apply_ne Prod.fst hlt.ne
  have hp : m.Perm n := (List.perm_ext_iff_of_nodup (nodup hsm) (nodup hsn)).mpr fun c => by
    rw [Memory.mem_iff hm, Memory.mem_iff hn, h]
  exact hp.eq_of_pairwise (fun c d _ _ h1 h2 => absurd h1 (lt_asymm h2)) hsm hsn

/-- Settles O51: both sides of each law are canonical and read alike. -/
theorem canonicalMemories : Obligations.CanonicalMemories := by
  intro m n a b xs ys hm hn
  have hw (k : Memory) (x : Nat) (bs : List Byte) (hk : Memory.wf k = true) := Memory.wf_writeBytes k x bs hk
  refine ⟨Memory.ext_of_readByte hm hn, fun hab => ?commute, fun hl => ?cover, fun e he hea => ?clear⟩
  case commute =>
    refine Memory.ext_of_readByte (hw _ _ _ (hw _ _ _ hm)) (hw _ _ _ (hw _ _ _ hm)) fun x => ?_
    by_cases hx : b ≤ x ∧ x < b + ys.length
    · have ha : ¬(a ≤ x ∧ x < a + xs.length) := by omega
      simp only [readByte_writeBytes, if_pos hx, if_neg ha]
    · simp only [readByte_writeBytes, if_neg hx]
  case cover =>
    refine Memory.ext_of_readByte (hw _ _ _ (hw _ _ _ hm)) (hw _ _ _ hm) fun x => ?_
    simp only [readByte_writeBytes, hl]
    split_ifs <;> rfl
  case clear =>
    obtain ⟨hr, hne⟩ := (Memory.mem_iff (hw m a [0] hm) e).mp he
    rw [readByte_writeBytes, hea, if_pos ⟨le_refl a, Nat.lt_succ_self a⟩, Nat.sub_self] at hr
    exact hne hr.symm

end Sys2Proof.Machine
end

section
/-! The swizzle function (R196) and the banks of the granules of a scratchpad (R195). -/

namespace Sys2Proof.Machine

/-- The bank of a granule at an offset of a view: its MiB, and within it the low bits of its granule, in the swizzled view
against those of its kilobyte. -/
theorem bankOf_linOf (swz : Bool) (y : Nat) : bankOf (linOf swz y / 64) =
    y / 1048576 * 16 + if swz then (y / 64 % 16) ^^^ (y / 1024 % 16) else y / 64 % 16 := by
  rw [bankOf]
  cases swz with
  | false =>
    rw [linOf, if_neg Bool.false_ne_true, if_neg Bool.false_ne_true]
    omega
  | true =>
    obtain ⟨hhi, hmid, -⟩ := swizzle_parts y
    rw [linOf, if_pos rfl, if_pos rfl, ← hmid]
    omega

/-- The granules of an aligned row lie in different banks. -/
theorem bankOf_row_inj {swz : Bool} {y j k : Nat} (hy : y % 512 = 0) (hj : j < 8) (hk : k < 8)
    (h : bankOf (linOf swz (y + 64 * j) / 64) = bankOf (linOf swz (y + 64 * k) / 64)) : j = k := by
  have hhi : (y + 64 * j) / 1048576 = (y + 64 * k) / 1048576 := by omega
  have hkilo : (y + 64 * j) / 1024 = (y + 64 * k) / 1024 := by omega
  rw [bankOf_linOf, bankOf_linOf, hhi, hkilo, Nat.add_left_cancel_iff] at h
  have hlow : (y + 64 * j) / 64 % 16 = (y + 64 * k) / 64 % 16 := by
    cases swz with
    | false => exact h
    | true => exact Nat.xor_left_injective h
  omega

/-- The granules of a column with a stride of 1024 bytes lie in different banks of the swizzled view. -/
theorem bankOf_column_ne {y j k : Nat} (hj : y % 16384 + 1024 * j < 16384) (hk : y % 16384 + 1024 * k < 16384) (hne : j ≠ k) :
    bankOf (linOf true (y + 1024 * j) / 64) ≠ bankOf (linOf true (y + 1024 * k) / 64) := by
  have hhi : (y + 1024 * j) / 1048576 = (y + 1024 * k) / 1048576 := by omega
  have hlow : (y + 1024 * j) / 64 % 16 = (y + 1024 * k) / 64 % 16 := by omega
  rw [bankOf_linOf, bankOf_linOf, hhi, hlow, if_pos rfl, if_pos rfl]
  intro h
  have hkilo := Nat.xor_right_injective (Nat.add_left_cancel h)
  omega

/-- The offset of a byte in the linear view is that of its swizzled offset through the other view. -/
theorem linOf_not_swizzle (swz : Bool) (y : Nat) : linOf (!swz) (swizzle y) = linOf swz y := by
  cases swz with
  | false => exact swizzle_swizzle y
  | true => rfl

theorem readByte_putPiece_singleton (x : Tile) (swz : Bool) (y : Nat) (b : Byte) :
    readByte (x.putPiece swz y [b]).spad (linOf swz y) = b := by
  rw [Tile.putPiece, readByte_writeBytes, if_pos ⟨le_refl _, Nat.lt_succ_self _⟩, Nat.sub_self]
  rfl

/-- Settles O53: the bits by the parts of a swizzled offset, the banks by their two fields. -/
theorem swizzleFunction : Obligations.SwizzleFunction := by
  refine ⟨fun y _ => ?bits, fun x swz b y _ => ?views, fun y swz hy => ?row, fun y k hk => ⟨?linear, fun j hne hj => ?column⟩⟩
  case bits =>
    obtain ⟨hkilo, hgran, hbyte⟩ := swizzle_parts y
    exact ⟨hkilo, hgran, hbyte, swizzle_swizzle y⟩
  case views =>
    rw [Tile.spadBytes, List.range_one, List.map_singleton, Nat.add_zero, linOf_not_swizzle, readByte_putPiece_singleton]
  case row =>
    refine List.Nodup.map_on (fun j hj k hk h => ?_) List.nodup_range
    exact bankOf_row_inj hy (List.mem_range.mp hj) (List.mem_range.mp hk) h
  case linear =>
    rw [bankOf_linOf, bankOf_linOf, if_neg Bool.false_ne_true, if_neg Bool.false_ne_true]
    omega
  case column => exact bankOf_column_ne hj hk hne

end Sys2Proof.Machine
end

section
/-! The scalar loads, stores and atomics of a tile (R208, R210), and the new words of the integer atomics. -/

namespace Sys2Proof.Machine

open Sys2Proof.Claims

theorem modifies_of_atomicOp {i : Instr} {n : Bool} {d : BitVec 5} {op : AOp} {size : Nat} {a b : SOp}
    (he : ∀ s, exec i s = atomicOp i n d op size a b s) : Modifies i n d op size a b :=
  does_of_issueSlot he fun _ h => h

/-! ### New words (R210) -/

section
variable {size : Nat} (x e old : BitVec (8 * size))

theorem signedOf_toNat {w : Nat} (v : BitVec w) : signedOf w v.toNat = v.toInt := by
  rw [signedOf, BitVec.ofNat_toNat, BitVec.setWidth_eq]

theorem AOp.apply_add : AOp.apply .add size x.toNat e.toNat old.toNat = (old + x).toNat :=
  (BitVec.toNat_add old x).symm

theorem AOp.apply_xchg : AOp.apply .xchg size x.toNat e.toNat old.toNat = x.toNat := BitVec.toNat_mod_cancel x

theorem AOp.apply_cas : AOp.apply .cas size x.toNat e.toNat old.toNat = (if old = e then x else old).toNat := by
  simp only [AOp.apply, BitVec.toNat_mod_cancel, BitVec.toNat_inj]
  exact (apply_ite BitVec.toNat ..).symm

theorem AOp.apply_min : AOp.apply .min size x.toNat e.toNat old.toNat = (if x.toInt < old.toInt then x else old).toNat := by
  simp only [AOp.apply, BitVec.toNat_mod_cancel, signedOf_toNat]
  exact (apply_ite BitVec.toNat ..).symm

theorem AOp.apply_max : AOp.apply .max size x.toNat e.toNat old.toNat = (if old.toInt < x.toInt then x else old).toNat := by
  simp only [AOp.apply, BitVec.toNat_mod_cancel, signedOf_toNat]
  exact (apply_ite BitVec.toNat ..).symm

end

/-- Settles O11: each slot is the mould of a load, a store or an atomic; the new words by the size of the access. -/
theorem scalarMemorySlots : Obligations.ScalarMemorySlots := by
  refine ⟨fun n sx d dw a b i imm sz => ⟨?_, ?_, ?_, ?_, ?_, ?_, ?_, ?_, ?_, ?_, ?_, ?_, ?_, ?_, ?_, ?_, ?_, ?_, ?_, ?_, ?_, ?_, ?_,
    ?_⟩, fun x e old y f prev => ⟨AOp.apply_add (size := 4) x e old, AOp.apply_add (size := 8) y f prev,
      AOp.apply_xchg (size := 4) x e old, AOp.apply_xchg (size := 8) y f prev, AOp.apply_cas (size := 4) x e old,
      AOp.apply_cas (size := 8) y f prev, AOp.apply_min (size := 4) x e old, AOp.apply_min (size := 8) y f prev,
      AOp.apply_max (size := 4) x e old, AOp.apply_max (size := 8) y f prev⟩⟩
  iterate 8 · exact loads_of_loadOp fun _ => rfl
  iterate 5 · exact stores_of_storeOp fun _ => rfl
  all_goals exact modifies_of_atomicOp fun _ => rfl

end Sys2Proof.Machine
end

section
/-! Handles (R224 to R231): the lowest FREE slot, what a handle value matches, and the slots that allocate, wait for, test and
free one. -/

namespace Sys2Proof.Machine

open Sys2Proof.Claims

/-! ### A handle slot's states (R225, R227) -/

namespace HSlot

variable (h : HSlot)

theorem free_of_alloc (ha : h.st = .alloc) : h.free = { h with st := .free, gen := h.gen + 1 } :=
  if_neg (by simp [ha])

theorem free_of_busy (hb : h.st = .busy) : h.free = { h with st := .orphan, gen := h.gen + 1, og := some h.gen } :=
  if_pos hb

theorem complete_of_busy (code : BitVec 8) (hb : h.st = .busy) : h.complete true true code =
    { h with st := .alloc, loc := true, rem := true, err := if h.err = 0 then code else h.err } := by
  simp [HSlot.complete, hb]

theorem complete_of_orphan (code : BitVec 8) (ho : h.st = .orphan) : h.complete true true code =
    { h with st := .free, loc := true, rem := true, err := if h.err = 0 then code else h.err } := by
  simp [HSlot.complete, ho]

/-- An error is recorded once, whatever the slot's state. -/
theorem complete_err (code : BitVec 8) : (h.complete true true code).err = if h.err = 0 then code else h.err := by
  cases hs : h.st <;> simp [HSlot.complete, hs]

variable (gen : BitVec 8)

theorem matchGen_eq_slot_iff (hs : h.st = .alloc ∨ h.st = .busy) : h.matchGen gen = .slot ↔ h.gen = gen := by
  unfold HSlot.matchGen
  split_ifs with hg ho
  · exact iff_of_true rfl hg.2
  · exact iff_of_false nofun fun e => hg ⟨hs, e⟩
  · exact iff_of_false nofun fun e => hg ⟨hs, e⟩

theorem matchGen_eq_orphan_iff (hs : h.st = .free ∨ h.st = .orphan) : h.matchGen gen = .orphan ↔ h.og = some gen := by
  have hn : ¬((h.st = .alloc ∨ h.st = .busy) ∧ h.gen = gen) := by
    rcases hs with e | e <;> simp [e]
  rw [HSlot.matchGen, if_neg hn]
  split_ifs with ho
  · exact iff_of_true rfl ho
  · exact iff_of_false nofun ho

end HSlot

/-! ### The lowest FREE slot (R226) -/

theorem Tile.freeSlot_eq_some {x : Tile} {k : Nat} (hk : (x.hslot k).st = .free) (hlt : k < 256)
    (hmin : ∀ j < k, (x.hslot j).st ≠ .free) : x.freeSlot = some k :=
  List.find?_range_eq_some.mpr ⟨beq_iff_eq.mpr hk, List.mem_range.mpr hlt, fun j hj => by simp [hmin j hj]⟩

theorem Tile.freeSlot_eq_none {x : Tile} (h : ∀ k < 256, (x.hslot k).st ≠ .free) : x.freeSlot = none :=
  List.find?_eq_none.mpr fun k hk => by simp [h k (List.mem_range.mp hk)]

/-! ### What the checks answer (R227, R228) -/

section
variable {s : State} {v : Word} {flag : HSlot → Bool}

theorem hwaitCheck_of_slot (hm : s.cur.handleMatch v = .slot) :
    s.hwaitCheck v flag = if flag (s.cur.hslot (slotNo v)) then .go else .wait none := by
  rw [State.hwaitCheck, hm]

theorem hwaitCheck_of_orphan (hm : s.cur.handleMatch v = .orphan) : s.hwaitCheck v flag = .go := by
  rw [State.hwaitCheck, hm]

theorem hwaitCheck_of_stale (hm : s.cur.handleMatch v = .stale) : s.hwaitCheck v flag = s.faultAt cSTALE_HANDLE v := by
  rw [State.hwaitCheck, hm]

theorem hwaitValue_of_slot (hm : s.cur.handleMatch v = .slot) :
    s.hwaitValue v = (s.cur.hslot (slotNo v)).err.setWidth 64 := by
  rw [State.hwaitValue, hm]

theorem hwaitValue_of_orphan (hm : s.cur.handleMatch v = .orphan) : s.hwaitValue v = 0xFF := by
  rw [State.hwaitValue, hm]

end

/-! ### HALLOC, HTEST and HFREE by their frames -/

theorem exec_halloc (n : Bool) (d : BitVec 5) (s : State) : exec (.halloc n d) s =
    issueSlot (.halloc n d) (fun u => checkThat u.cur.freeSlot.isSome (u.faultPc cHANDLE_EXHAUSTED))
      (fun u =>
        match u.cur.freeSlot with
        | none => u
        | some k =>
          (u.modCur fun x => x.setHslot k (u.cur.hslot k).alloc).dstS 2 n (.reg d) (handleValue k (u.cur.hslot k))) s := rfl

theorem exec_htest (n : Bool) (d : BitVec 5) (a : SOp) (s : State) : exec (.htest n d a) s =
    issueSlot (.htest n d a)
      (fun u => checkThat (u.cur.handleMatch (u.readS a) != .stale) (u.faultAt cSTALE_HANDLE (u.readS a)))
      (fun u => u.dstS 2 n (.reg d) (u.htestValue (u.readS a))) s := rfl

theorem exec_hfree (a : SOp) (s : State) : exec (.hfree a) s =
    issueSlot (.hfree a)
      (fun u => checkThat (u.cur.handleMatch (u.readS a) == .slot) (u.faultAt cSTALE_HANDLE (u.readS a)))
      (fun u => u.modCur fun x => x.setHslot (slotNo (u.readS a)) (x.hslot (slotNo (u.readS a))).free) s := rfl

theorem does_of_halloc (n : Bool) (d : BitVec 5) (k : Nat) : Does (.halloc n d)
    (fun u => (u.cur.hslot k).st = .free ∧ k < 256 ∧ ∀ j < k, (u.cur.hslot j).st ≠ .free)
    (fun u => (u.modCur fun x => x.setHslot k (u.cur.hslot k).alloc).dstS 2 n (.reg d) (handleValue k (u.cur.hslot k))) := by
  have hfree {u : State} (h : (u.cur.hslot k).st = .free ∧ k < 256 ∧ ∀ j < k, (u.cur.hslot j).st ≠ .free) :
      u.cur.freeSlot = some k := Tile.freeSlot_eq_some h.1 h.2.1 h.2.2
  refine does_of_issueSlot_where (exec_halloc n d) (fun s h => checkThat_true _ ?_) (fun _ h => h) fun s h => ?_
  · rw [hfree h]
    rfl
  · simp only [hfree h]

/-! ### HWAIT, of either flag (R228) -/

section
variable {i : Instr} {n : Bool} {d : BitVec 5} {a : SOp} {flag : HSlot → Bool}
  (he : ∀ s, exec i s = issueSlot i (fun u => u.hwaitCheck (u.readS a) flag)
    (fun u => u.dstS 1 n (.reg d) (u.hwaitValue (u.readS a))) s)
include he

theorem does_of_hwait_set : Does i
    (fun u => u.cur.handleMatch (u.readS a) = .slot ∧ flag (u.cur.hslot (slotNo (u.readS a))) = true)
    fun u => u.dstS 1 n (.reg d) ((u.cur.hslot (slotNo (u.readS a))).err.setWidth 64) :=
  does_of_issueSlot_where he (fun _ ⟨hm, hf⟩ => (hwaitCheck_of_slot hm).trans (if_pos hf)) (fun _ h => h)
    fun s ⟨hm, _⟩ => by rw [hwaitValue_of_slot hm]

theorem does_of_hwait_orphan : Does i (fun u => u.cur.handleMatch (u.readS a) = .orphan)
    fun u => u.dstS 1 n (.reg d) 0xFF :=
  does_of_issueSlot_where he (fun _ hm => hwaitCheck_of_orphan hm) (fun _ h => h) fun s hm => by rw [hwaitValue_of_orphan hm]

theorem waits_of_hwait_clear : Waits i
    (fun u => u.cur.handleMatch (u.readS a) = .slot ∧ flag (u.cur.hslot (slotNo (u.readS a))) = false) fun _ => none :=
  waits_of_issueSlot he fun _ ⟨hm, hf⟩ => (hwaitCheck_of_slot hm).trans (if_neg (Bool.eq_false_iff.mp hf))

theorem faults_of_hwait_stale : Faults i (fun u => u.cur.handleMatch (u.readS a) = .stale) 0x09 (fun u => u.readS a) false :=
  faults_of_issueSlot he fun _ hm => hwaitCheck_of_stale hm

end

/-- Settles O16: HALLOC by the lowest FREE slot, HWAIT by what its handle matches, HTEST and HFREE by their checks; the moves of
a slot by its state. -/
theorem handleSlots : Obligations.HandleSlots := by
  refine ⟨fun n d a => ⟨does_of_halloc n d, ?exhausted, does_of_hwait_set fun _ => rfl, does_of_hwait_set fun _ => rfl,
    does_of_hwait_orphan fun _ => rfl, does_of_hwait_orphan fun _ => rfl, waits_of_hwait_clear fun _ => rfl,
    waits_of_hwait_clear fun _ => rfl, ?test, ?free, ?stale, faults_of_hwait_stale fun _ => rfl,
    faults_of_hwait_stale fun _ => rfl, ?testStale⟩,
    fun h evt code gen => ⟨rfl, ⟨rfl, rfl, rfl, rfl, rfl⟩, fun hs => ?_, fun hs => ?_, fun hs => ?_, fun hs => ?_, fun he => ?_,
      h.matchGen_eq_slot_iff gen, h.matchGen_eq_orphan_iff gen⟩⟩
  case exhausted =>
    exact faults_of_issueSlot (exec_halloc n d) fun _ h => checkThat_false _ (by rw [Tile.freeSlot_eq_none h]; rfl)
  case test => exact does_of_issueSlot (exec_htest n d a) fun _ h => checkThat_true _ (bne_iff_ne.mpr h)
  case free => exact does_of_issueSlot (exec_hfree a) fun _ h => checkThat_true _ (beq_iff_eq.mpr h)
  case stale => exact faults_of_issueSlot (exec_hfree a) fun _ h => checkThat_false _ (beq_eq_false_iff_ne.mpr h)
  case testStale =>
    exact faults_of_issueSlot (exec_htest n d a) fun _ h => checkThat_false _ (bne_eq_false_iff_eq.mpr h)
  · rw [h.free_of_alloc hs]
    exact ⟨rfl, rfl, rfl⟩
  · rw [h.free_of_busy hs]
    exact ⟨rfl, rfl, rfl⟩
  · rw [h.complete_of_busy code hs]
    exact ⟨rfl, rfl⟩
  · rw [h.complete_of_orphan code hs]
    exact ⟨rfl, rfl⟩
  · rw [h.complete_err, if_neg he]

/-- Settles O17: each form is the mould of a copy. -/
theorem copySlots : Obligations.CopySlots := by
  intro d f a ly conv g
  refine ⟨?_, ?_, ?_, ?_⟩
  all_goals exact starts_of_copyOp fun _ => rfl

end Sys2Proof.Machine
end

section
/-! The events of the copy engine (R214, R219, R222, R230): a copy whose granules are all moved changes no more of them, so its
completion is its handle's. -/

namespace Sys2Proof.Machine

/-! ### Lists that a fold leaves alone -/

theorem foldl_eq_of_fixed {α σ : Type} {f : σ → α → σ} {s : σ} {l : List α} (h : ∀ a ∈ l, f s a = s) : l.foldl f s = s := by
  induction l with
  | nil => rfl
  | cons a r ih => rw [List.foldl_cons, h a (List.mem_cons_self ..), ih fun b hb => h b (List.mem_cons_of_mem _ hb)]

/-! ### A copy that a channel runs -/

section
variable {s : State} {c id : Nat} {o : Op} {p : CopyP}

/-- It is an operation of its cluster, a copy, and has a channel. -/
theorem op_of_runningCopy (h : s.runningCopy c id = some (o, p)) : s.op? c id = some o ∧ o.kind = .copy p := by
  unfold State.runningCopy at h
  split at h
  next o' ho =>
    split at h
    next q ch hk hc =>
      obtain ⟨-, rfl, rfl⟩ : s.opQuiet o' id = true ∧ o' = o ∧ q = p := by simpa using h
      exact ⟨ho, hk⟩
    next => exact absurd h nofun
  next => exact absurd h nofun

variable (h : s.runningCopy c id = some (o, p))
include h

/-- No operation is a copy and a contribution. -/
theorem ctOp_of_runningCopy : s.ctOp c id = none := by
  obtain ⟨ho, hk⟩ := op_of_runningCopy h
  simp only [State.ctOp, ho, hk]

theorem copyReads_of_read {gs : List Nat} (hr : ∀ g ∈ gs, (ffind o.buf g).isSome = true) : s.copyReads c id gs = s :=
  foldl_eq_of_fixed fun g hg => by
    have hn : ¬(g < p.readCount ∧ (ffind o.buf g).isNone = true) := by simp [Option.isSome_iff_ne_none.mp (hr g hg)]
    simp only [State.copyRead, h, if_neg hn]

theorem copyWrite_of_done {g : Nat} (hd : o.done.contains g = true) : s.copyWrite c id g = s := by
  simp only [State.copyWrite, h, hd, Bool.not_true, Bool.false_eq_true, false_and, and_false, if_false]

theorem copyFail_eq {cause : BitVec 8} : s.copyFail c id cause =
    (if cause = cECC then s.killByEngine o.tile.toNat 3 (o.chan.getD 0).toNat cECC else s).finishOp c id (copyCode cause) := by
  obtain ⟨ho, -⟩ := op_of_runningCopy h
  simp only [State.copyFail, ho]
  cases o.chan <;> rfl

/-! ### Its completions (R230) -/

theorem copyLocal_of_read (hl : o.loc = false) (hpace : s.paced o (p.rows * p.rlen) = true)
    (hr : ∀ g < p.readCount, (ffind o.buf g).isSome = true) : s.copyLocal c id = s.finishLocal c id 0 := by
  obtain ⟨ho, -⟩ := op_of_runningCopy h
  have hreads : s.copyReads c id (List.range p.readCount) = s := copyReads_of_read h fun g hg => hr g (List.mem_range.mp hg)
  have hgo : ¬(o.loc = true ∨ (!s.paced o (p.rows * p.rlen)) = true) := by simp [hl, hpace]
  simp only [State.copyLocal, h, if_neg hgo, hreads, ho]

/-! ### Its errors (R219) -/

theorem copyDamage_of_fault (hf : s.copyFault o p = some cECC) :
    s.copyDamage c id = (s.killByEngine o.tile.toNat 3 (o.chan.getD 0).toNat cECC).finishOp c id 8 := by
  simp only [State.copyDamage, h, hf, if_true, copyFail_eq h]
  rfl

end

section
variable {s : State} {c : BitVec 9} {id : Nat} {o : Op} {p : CopyP}

theorem exec_copyStart {ch : BitVec 2} {r : List Nat} (hq : (s.cluster c.toNat).queue = id :: r)
    (hch : vget (s.cluster c.toNat).chans ch.toNat = none) : exec (.copyStart c ch) s =
      .next ((s.modCluster c.toNat fun k => { k with queue := r, chans := vset k.chans ch.toNat (some id) }).modOp c.toNat
        id fun x => { x with chan := some ch, began := s.cycle }) := by
  show execCopyStart c ch s = _
  simp only [execCopyStart, hq, hch]

variable (h : s.runningCopy c.toNat id = some (o, p))
include h

theorem exec_localCompletion_of_copy : exec (.localCompletion c id) s = .next (s.copyLocal c.toNat id) := by
  obtain ⟨ho, hk⟩ := op_of_runningCopy h
  show execLocalCompletion c id s = _
  simp only [execLocalCompletion, ho, hk]

theorem exec_remoteCompletion_of_written (hl : o.loc = true) (hpace : s.paced o (p.rows * p.dlen) = true)
    (hw : if p.mem then ∀ g < p.dstCount, o.done.contains g = true else o.streamLeft = 0) :
    exec (.remoteCompletion c id) s = .next (s.finishOp c.toNat id 0) := by
  obtain ⟨ho, -⟩ := op_of_runningCopy h
  have hgo : ¬((!o.loc) = true ∨ (!s.paced o (p.rows * p.dlen)) = true) := by simp [hl, hpace]
  show execRemoteCompletion c id s = _
  simp only [execRemoteCompletion, h, if_neg hgo]
  cases hm : p.mem with
  | false =>
    have hs : o.streamLeft = 0 := by simpa [hm] using hw
    simp only [hs, Bool.not_false, if_true]
  | true =>
    rw [hm, if_pos rfl] at hw
    have hwrites : (List.range p.dstCount).foldl (fun s g => s.copyWrite c.toNat id g) s = s :=
      foldl_eq_of_fixed fun g hg => copyWrite_of_done h (hw g (List.mem_range.mp hg))
    simp only [Bool.not_true, Bool.false_eq_true, if_false, hwrites, ho]

theorem exec_copyXlateFault {cause : BitVec 8} (hf : s.copyFault o p = some cause) (hc : cause ≠ cECC) :
    exec (.copyXlateFault c id) s = .next (s.finishOp c.toNat id 7) := by
  show execCopyXlateFault c id s = _
  simp only [execCopyXlateFault, h, hf, if_neg hc, copyFail_eq h, copyCode]

theorem exec_uncorrectableError_of_copy : exec (.uncorrectableError c id) s = .next (s.copyDamage c.toNat id) := by
  show execUncorrectableError c id s = _
  simp only [execUncorrectableError, ctOp_of_runningCopy h]

theorem exec_streamRow {q3 : Bool} (hstrm : p.strm = some q3) (hleft : o.streamLeft ≠ 0)
    (hroom : ((s.tile o.tile.toNat).streamRows q3).length < 8) (hfirst : s.streamFirst c.toNat id o q3 = true)
    (hpace : s.paced o (512 * (o.done.length + 1)) = true)
    (hr : ∀ g ∈ p.streamNeeds o.done.length, (ffind o.buf g).isSome = true) : exec (.streamRow c id) s =
      .next ((s.modTile o.tile.toNat fun x => x.pushStream q3 (rowOf (p.streamBytes o.buf o.done.length))).modOp c.toNat id
        fun x => { x with done := o.done.length :: x.done }) := by
  obtain ⟨ho, -⟩ := op_of_runningCopy h
  have hreads := copyReads_of_read h hr
  have hgo : ¬(o.streamLeft = 0 ∨ 8 ≤ ((s.tile o.tile.toNat).streamRows q3).length) := by omega
  have hturn : ¬((!s.streamFirst c.toNat id o q3) = true ∨ (!s.paced o (512 * (o.done.length + 1))) = true) := by
    simp [hfirst, hpace]
  show execStreamRow c id s = _
  simp only [execStreamRow, h, hstrm, if_neg hgo, if_neg hturn, hreads, ho]

end

/-- Settles O28: each event of a running copy in the case its conditions name. -/
theorem copyEvents : Obligations.CopyEvents := by
  intro s c ch id r o p cause q3
  refine ⟨exec_copyStart, fun h hl hpace hr => ?_, exec_remoteCompletion_of_written,
    fun h => exec_copyXlateFault h, fun h hf => ?_, fun h => exec_streamRow h⟩
  · rw [exec_localCompletion_of_copy h, copyLocal_of_read h hl hpace hr]
  · rw [exec_uncorrectableError_of_copy h, copyDamage_of_fault h hf]
    rfl

end Sys2Proof.Machine
end

section
/-! The window slots (R236 to R262, R278): the transfers by the mould of a transfer, the synchronisation slots by the parts of
their checks. -/

namespace Sys2Proof.Machine

open Sys2Proof.Claims

/-- Settles O18: each form is the mould of a window transfer. -/
theorem windowTransferSlots : Obligations.WindowTransferSlots := by
  intro d e a f op m
  refine ⟨?_, ?_, ?_, ?_, ?_, ?_, ?_, ?_⟩
  all_goals exact transfers_of_winOp fun _ => rfl

/-! ### The parts of the checks (R262, R278) -/

theorem andThen_go {a b : Verdict} (ha : a = .go) (hb : b = .go) : a.andThen b = .go := (andThen_eq_go ha).trans hb

section
variable {s : State}

theorem quietCheck_go (h : s.thread.quiet = true) : s.quietCheck = .go := if_pos h

theorem drainCheck_go {wv : Word} {hits : Nat → Bool}
    (h : s.busyOn s.curId (widOf wv) (wv.extractLsb' 8 8) hits = false) : s.drainCheck wv hits = .go :=
  if_neg (Bool.eq_false_iff.mp h)

/-- A request that has been answered passes, whatever its checks before it was made. -/
theorem askCheck_go {q : WaitReq} {first : Verdict} (hg : (s.granted q).isSome = true) (hq : s.thread.quiet = true) :
    s.askCheck q first = .go :=
  (if_pos hg).trans (quietCheck_go hq)

/-- The check of a window value, then one of its directory entry. -/
theorem entryCheck_go {wv : Word} {b : Bool} {f : Verdict} (ho : s.cur.windowOk wv = true) (hb : b = true) :
    (s.wvCheck wv).andThen (checkThat b f) = .go :=
  andThen_go (checkThat_true _ ho) (checkThat_true _ hb)

theorem WDir.unlockable_iff (d : WDir) (r : Nat) : d.unlockable r = true ↔ d.lock r = some .held ∨ d.lock r = some .refused := by
  simp [WDir.unlockable]

end

/-- A bundle whose request has been answered. -/
theorem does_of_askCheck {i : Instr} {q : State → WaitReq} {first : State → Verdict}
    (he : ∀ s, exec i s = issueSlot i (fun u => u.askCheck (q u) (first u)) (fun u => u.settleReq) s) :
    Does i (fun u => (u.granted (q u)).isSome = true ∧ u.thread.quiet = true) fun u => u.settleReq :=
  does_of_issueSlot he fun _ ⟨hg, hq⟩ => askCheck_go hg hq

/-! ### The slots -/

theorem exec_wopen (d : BitVec 5) (e : DOp) (s : State) : exec (.wopen d e) s =
    issueSlot (.wopen d e) (fun u => u.askCheck (u.wopenReq e) (u.partCheck (u.readD e 0) (u.readD e 1)))
      (fun u => (u.dstS 1 false (.reg d) ((u.granted (u.wopenReq e)).getD 0)).settleReq) s := rfl

theorem exec_wpost (a b : SOp) (s : State) : exec (.wpost a b) s =
    issueSlot (.wpost a b)
      (fun u => ((u.wvCheck (u.readS a)).andThen (checkThat (!(u.dirOf (u.readS a)).posted) (u.misuse (u.readS a)))).andThen
        (u.groupCheck (u.readS b)))
      (fun u => (u.modWin (u.readS a) fun x => { x with posted := true }).sendReq u.curId u.curId (widOf (u.readS a)).toNat
        (.post (u.readS b))) s := rfl

theorem exec_wunlk (a b : SOp) (s : State) : exec (.wunlk a b) s =
    issueSlot (.wunlk a b)
      (fun u => (((u.wvCheck (u.readS a)).andThen (u.rankCheck (u.readS a) (u.readS b))).andThen
          (checkThat ((u.dirOf (u.readS a)).unlockable (lockRank (u.readS b))) (u.misuse (u.readS a)))).andThen
        (u.quietCheck.andThen (u.drainCheck (u.readS a) fun r => r == lockRank (u.readS b))))
      (fun u => u.unlock (u.readS a) (u.readS b)) s := rfl

theorem does_of_wopen (d : BitVec 5) (e : DOp) (v : Word) :
    Does (.wopen d e) (fun u => u.granted (u.wopenReq e) = some v ∧ u.thread.quiet = true)
      fun u => (u.dstS 1 false (.reg d) v).settleReq :=
  does_of_issueSlot_where (exec_wopen d e) (fun s ⟨hg, hq⟩ => askCheck_go (by rw [hg]; rfl) hq)
    (fun _ h => h) fun s ⟨hg, _⟩ => by simp only [hg, Option.getD_some]

/-- Settles O19: a bundle that asks issues once it has been answered; the others by the parts of their checks, in order. -/
theorem windowSyncSlots : Obligations.WindowSyncSlots := by
  refine ⟨fun d a b e v => ⟨does_of_wopen d e v, does_of_askCheck fun _ => rfl, does_of_askCheck fun _ => rfl,
    does_of_askCheck fun _ => rfl, does_of_askCheck fun _ => rfl⟩, fun a b => ⟨?post, ?start, ?comp, ?wait, ?unlock, ?flush,
    ?postClosed, ?unlockRequested⟩⟩
  case post =>
    exact does_of_issueSlot (exec_wpost a b) fun s ⟨ho, hp, hg⟩ =>
      andThen_go (entryCheck_go ho (by rw [hp]; rfl)) (checkThat_true _ hg)
  case start =>
    exact does_of_issueSlot (fun _ => rfl) fun s ⟨ho, hs, hg, hq, hp⟩ =>
      andThen_go (andThen_go (entryCheck_go ho (by rw [hs]; rfl)) (checkThat_true _ hg))
        (andThen_go (quietCheck_go hq) (if_pos hp))
  case comp =>
    exact does_of_issueSlot (fun _ => rfl) fun s ⟨ho, hs, hq, hb⟩ =>
      andThen_go (entryCheck_go ho hs) (andThen_go (quietCheck_go hq) (drainCheck_go hb))
  case wait =>
    refine does_of_issueSlot (fun _ => rfl) fun s ⟨ho, hp, hq, e, he, hd⟩ =>
      andThen_go (entryCheck_go ho hp) (andThen_go (quietCheck_go hq) ?_)
    simp only [he, hd, if_true]
  case unlock =>
    exact does_of_issueSlot (exec_wunlk a b) fun s ⟨ho, hr, hl, hq, hb⟩ =>
      andThen_go (andThen_go (entryCheck_go ho (decide_eq_true hr)) (checkThat_true _ ((WDir.unlockable_iff _ _).mpr hl)))
        (andThen_go (quietCheck_go hq) (drainCheck_go hb))
  case flush =>
    refine does_of_issueSlot (fun _ => rfl) fun s ⟨ho, hr, hb⟩ =>
      andThen_go (andThen_go (checkThat_true _ ho) ?_) (drainCheck_go hb)
    split_ifs with hall
    · rfl
    · exact checkThat_true _ (decide_eq_true (hr.resolve_left hall))
  case postClosed =>
    refine faults_of_issueSlot (exec_wpost a b) fun s hc => ?_
    rw [State.wvCheck, checkThat_false _ hc]
    rfl
  case unlockRequested =>
    refine faults_of_issueSlot (exec_wunlk a b) fun s ⟨ho, hr, hl⟩ => ?_
    have hn : (s.dirOf (s.readS a)).unlockable (lockRank (s.readS b)) = false := by simp [WDir.unlockable, hl]
    rw [State.rankCheck, andThen_eq_go (entryCheck_go ho (decide_eq_true hr)), checkThat_false _ hn]
    rfl

end Sys2Proof.Machine
end

section
/-! The collectives of a launch on its windows (R237 to R239, R251): what each answers every waiting rank, and a fence switch
rank by rank. -/

namespace Sys2Proof.Machine

open Sys2Proof.Claims

/-- A collective's guard does not stop it once both its conditions hold. -/
theorem not_not_or_not {a b : Bool} (ha : a = true) (hb : b = true) : ¬(!a || !b) = true := by simp [ha, hb]

section
variable {s : State} {v : BitVec 6} {k : BitVec 4} {wid : BitVec 8} {first : Nat × Tile} {rest : List (Nat × Tile)}

/-! ### WOPEN (R237, R239) -/

/-- WOPEN_COLLECTIVE once every rank waits in it, by the lowest closed id. -/
theorem exec_wopenCollective (ha : s.allWait v.toNat k.toNat asksOpen = true)
    (hw : s.waiting v.toNat k.toNat = first :: rest) : exec (.wopenCollective v k) s = .next (
      ((List.range 256).find? fun w => !(first.2.dir w).isOpen).elim
        ((first :: rest).foldl (fun u e => u.answerReq e.1 0) s) fun w =>
          if !s.portsHaveRoom v.toNat k.toNat then (first :: rest).foldl (fun u e => u.answerReq e.1 0) s
          else
            let u := s.openWindow v.toNat k.toNat w (first.2.dir w).gen
            (u.waiting v.toNat k.toNat).foldl (fun u e => u.answerReq e.1 (windowValue w (first.2.dir w).gen)) u) := by
  have hgo : ¬(!s.allWait v.toNat k.toNat asksOpen) = true := by simp [ha]
  show execWopenCollective v k s = _
  refine congrArg _ ((if_neg hgo).trans ?_)
  simp only [hw, List.head?_cons]
  cases (List.range 256).find? fun w => !(first.2.dir w).isOpen with
  | none => rfl
  | some w => rfl

theorem ranks_of_tiles {u : State} (h : u.tiles = s.tiles) (v slot : Nat) : u.ranks v slot = s.ranks v slot := by
  rw [State.ranks, h, State.ranks]

theorem foldl_setEntry_tiles {α : Type} (slot w : Nat) (t : α → Nat) (e : α → WEntry) (l : List α) (s : State) :
    (l.foldl (fun u a => u.setEntry slot (t a) w (e a)) s).tiles = s.tiles := by
  induction l generalizing s with
  | nil => rfl
  | cons a r ih => exact ih _

/-- The entries of the freed ranks change no tile, so the ranks still bound are those of the state before. -/
theorem openWindow_eq (v slot w : Nat) (gen : BitVec 8) : s.openWindow v slot w gen =
    (s.ranks v slot).foldl (fun u e => (u.setEntry slot e.1 w (e.2.newEntry gen)).modTile e.1 fun x =>
        x.modDir w fun d => { WDir.reset with isOpen := true, gen := d.gen })
      ((s.freedRanks v slot).foldl (fun u e => u.setEntry slot e.1 w (newEntry (BitVec.ofNat 16 e.2) gen 0 0)) s) := by
  rw [State.openWindow, ranks_of_tiles (foldl_setEntry_tiles ..)]

theorem find_closed_eq_none {x : Tile} (h : ∀ w < 256, (x.dir w).isOpen = true) :
    ((List.range 256).find? fun w => !(x.dir w).isOpen) = none :=
  List.find?_range_eq_none.mpr fun w hw => by simp [h w hw]

theorem find_closed_isSome {x : Tile} {w : Nat} (hw : w < 256) (h : (x.dir w).isOpen = false) :
    ((List.range 256).find? fun w => !(x.dir w).isOpen).isSome = true :=
  List.find?_isSome.mpr ⟨w, List.mem_range.mpr hw, by simp [h]⟩

theorem find_closed_eq_some {x : Tile} {w : Nat} (hw : w < 256) (h : (x.dir w).isOpen = false)
    (hmin : ∀ j < w, (x.dir j).isOpen = true) : ((List.range 256).find? fun w => !(x.dir w).isOpen) = some w :=
  List.find?_range_eq_some.mpr ⟨by simp [h], List.mem_range.mpr hw, fun j hj => by simp [hmin j hj]⟩

/-! ### WDROP (R238) -/

/-- WDROP_COLLECTIVE once every rank waits in it and nothing of the window is left. -/
theorem exec_wdropCollective (ha : s.allWait v.toNat k.toNat (fun q => q == .wdrop wid) = true)
    (hw : s.waiting v.toNat k.toNat = first :: rest)
    (hrest : ∀ e ∈ s.ranks v.toNat k.toNat, ∀ x, s.wentry k.toNat e.1 wid.toNat = some x → x.epoch = .closed ∧ x.queue = [])
    (hbusy : s.launchBusyOn v.toNat k.toNat wid (first.2.dir wid.toNat).gen = false) :
    exec (.wdropCollective v k wid) s =
      .next ((s.ranks v.toNat k.toNat).foldl (fun u e =>
        (u.modTile e.1 fun x => x.modDir wid.toNat fun d => { WDir.reset with gen := d.gen + 1 }).answerReq e.1 0)
        (s.freeWindow v.toNat k.toNat wid.toNat)) := by
  show execWdropCollective v k wid s = _
  unfold execWdropCollective
  refine congrArg _ ((if_neg (not_not_or_not ha ?_)).trans ?_)
  · refine List.all_eq_true.mpr fun e he => ?_
    cases hx : s.wentry k.toNat e.1 wid.toNat with
    | none => simp only [hx]
    | some x =>
      obtain ⟨hep, hq⟩ := hrest e he x hx
      simp [hx, hep, hq]
  · simp only [hw, List.head?_cons, hbusy, Bool.false_eq_true, if_false]

end

/-! ### Entries and tiles apart (R234, R235) -/

theorem entryKey_ne {slot t u w : Nat} (hc : t / 4 = u / 4) (h : u ≠ t) : entryKey slot u w ≠ entryKey slot t w := by
  unfold entryKey
  omega

section
variable (s : State) {slot t u w : Nat} (e : WEntry)

theorem wentry_setEntry_self : (s.setEntry slot t w e).wentry slot t w = some e := by
  rw [State.wentry, State.setEntry, State.cluster_modCluster_self]
  exact ffind_fput_self ..

theorem wentry_setEntry_ne (h : u ≠ t) : (s.setEntry slot t w e).wentry slot u w = s.wentry slot u w := by
  unfold State.wentry State.setEntry
  by_cases hc : u / 4 = t / 4
  · rw [hc, State.cluster_modCluster_self]
    exact ffind_fput_ne _ _ _ _ (entryKey_ne hc.symm h)
  · rw [State.cluster_modCluster_ne _ _ _ _ hc]

theorem event_req_dirs (x : Tile) (kind n : Nat) : (x.event kind n).req = x.req ∧ (x.event kind n).dirs = x.dirs := by
  unfold Tile.event
  split_ifs <;> exact ⟨rfl, rfl⟩

variable (r n : Nat)

theorem wentry_entryEvent : (s.entryEvent slot t w e r n).wentry slot u w = s.wentry slot u w := by
  unfold State.entryEvent
  split_ifs <;> rfl

theorem tile_entryEvent_ne (h : u ≠ t) : (s.entryEvent slot t w e r n).tile u = s.tile u := by
  unfold State.entryEvent
  split_ifs
  · exact State.tile_modTile_ne _ _ _ _ h
  · rfl

theorem req_entryEvent : ((s.entryEvent slot t w e r n).tile t).req = (s.tile t).req := by
  unfold State.entryEvent
  split_ifs
  · rw [State.event, State.tile_modTile_self]
    exact (event_req_dirs ..).1
  · rfl

theorem dir_modDir_self (x : Tile) (f : WDir → WDir) : (x.modDir w f).dir w = f (x.dir w) := fget_fput_self ..

theorem dir_grant (x : Tile) (g : Option Word) : ({ x with grant := g } : Tile).dir w = x.dir w := rfl

theorem answerReq_of_isSome (v : Word) (h : (s.tile t).req.isSome = true) :
    s.answerReq t v = s.modTile t fun x => { x with grant := some v } :=
  State.modTile_congr (if_pos h)

end

/-! ### The fence switch of one rank (R251, R261) -/

/-- An entry after a fence switch. -/
def WEntry.switched (nosucc : Bool) (x : WEntry) : WEntry :=
  { x with queue := x.queue.drop 1, epoch := if nosucc then .closed else .fence }

/-- A fence switch of one rank: its entry, its event record, its directory and the answer to its WFEN. -/
def switchRank (k w : Nat) (nosucc : Bool) (s : State) (e : Nat × Tile) : State :=
  match s.wentry k e.1 w with
  | none => s
  | some x =>
    (((s.setEntry k e.1 w (x.switched nosucc)).entryEvent k e.1 w x e.2.rank.toNat 5).modTile e.1 fun y =>
      y.modDir w fun d => { d with fence := !nosucc }).answerReq e.1 0

/-- A tile waits at an entry. -/
def WaitsAt (k w t : Nat) (x : WEntry) (s : State) : Prop := (s.tile t).req.isSome = true ∧ s.wentry k t w = some x

/-- A rank whose fence switch has acted on the entry x. -/
def Switched (k w : Nat) (nosucc : Bool) (t : Nat) (x : WEntry) (s : State) : Prop :=
  WaitsAt k w t (x.switched nosucc) s ∧ (s.tile t).grant = some 0 ∧ ((s.tile t).dir w).fence = !nosucc

section
variable {k w t : Nat} {nosucc : Bool} {x : WEntry} {s : State} {e : Nat × Tile}

theorem WEntry.switched_switched (hq : x.queue.length ≤ 1) : (x.switched nosucc).switched nosucc = x.switched nosucc := by
  have hnil : x.queue.drop 1 = [] := List.drop_eq_nil_of_le hq
  simp [WEntry.switched, hnil]

theorem switchRank_of_wentry (hx : s.wentry k e.1 w = some x) : switchRank k w nosucc s e =
    (((s.setEntry k e.1 w (x.switched nosucc)).entryEvent k e.1 w x e.2.rank.toNat 5).modTile e.1 fun y =>
      y.modDir w fun d => { d with fence := !nosucc }).answerReq e.1 0 := by
  rw [switchRank, hx]

theorem switchRank_other (h : t ≠ e.1) : (switchRank k w nosucc s e).tile t = s.tile t ∧
    (switchRank k w nosucc s e).wentry k t w = s.wentry k t w := by
  cases hx : s.wentry k e.1 w with
  | none =>
    rw [switchRank, hx]
    exact ⟨rfl, rfl⟩
  | some x =>
    rw [switchRank_of_wentry hx, State.answerReq, State.tile_modTile_ne _ _ _ _ h, State.tile_modTile_ne _ _ _ _ h,
      tile_entryEvent_ne _ _ _ _ h]
    exact ⟨rfl, (wentry_entryEvent ..).trans (wentry_setEntry_ne _ _ h)⟩

theorem switchRank_self (h : WaitsAt k w e.1 x s) : Switched k w nosucc e.1 x (switchRank k w nosucc s e) := by
  obtain ⟨hreq, hx⟩ := h
  have hreq' : ((((s.setEntry k e.1 w (x.switched nosucc)).entryEvent k e.1 w x e.2.rank.toNat 5).modTile e.1 fun y =>
      y.modDir w fun d => { d with fence := !nosucc }).tile e.1).req.isSome = true := by
    rw [State.tile_modTile_self]
    exact (congrArg _ (req_entryEvent ..)).trans hreq
  rw [switchRank_of_wentry hx, answerReq_of_isSome _ _ hreq', Switched, WaitsAt, State.tile_modTile_self]
  refine ⟨⟨hreq', (wentry_entryEvent ..).trans (wentry_setEntry_self ..)⟩, rfl, ?_⟩
  rw [State.tile_modTile_self, dir_grant, dir_modDir_self]

theorem Switched.switchRank (hq : x.queue.length ≤ 1) (h : Switched k w nosucc t x s) :
    Switched k w nosucc t x (switchRank k w nosucc s e) := by
  by_cases ht : t = e.1
  · subst ht
    have hs := switchRank_self (nosucc := nosucc) h.1
    rwa [Switched, WEntry.switched_switched hq] at hs
  · obtain ⟨htile, hent⟩ := switchRank_other (k := k) (w := w) (nosucc := nosucc) (s := s) ht
    rwa [Switched, WaitsAt, htile, hent]

/-! ### Every rank (R251) -/

theorem Switched.foldl (hq : x.queue.length ≤ 1) (l : List (Nat × Tile)) {s : State} (h : Switched k w nosucc t x s) :
    Switched k w nosucc t x (l.foldl (Machine.switchRank k w nosucc) s) := by
  induction l generalizing s with
  | nil => exact h
  | cons e r ih => exact ih (h.switchRank hq)

theorem switched_of_mem (hq : x.queue.length ≤ 1) {l : List (Nat × Tile)} (hm : e ∈ l) {s : State}
    (h : WaitsAt k w e.1 x s) : Switched k w nosucc e.1 x (l.foldl (switchRank k w nosucc) s) := by
  induction l generalizing s with
  | nil => cases hm
  | cons a r ih =>
    by_cases ha : e.1 = a.1
    · rw [ha] at h ⊢
      exact (switchRank_self h).foldl hq r
    · obtain ⟨htile, hent⟩ := switchRank_other (k := k) (w := w) (nosucc := nosucc) (s := s) ha
      have he : e ∈ r := (List.mem_cons.mp hm).resolve_left fun he => ha (congrArg Prod.fst he)
      exact ih he (by rwa [WaitsAt, htile, hent])

theorem serveAll_of_empty (hx : s.wentry k t w = some x) (hq : x.queue = []) : s.serveAll k t w = s := by
  simp only [State.serveAll, hx, hq, State.serve]

end

section
variable {s : State} {v : BitVec 6} {k : BitVec 4} {wid : BitVec 8} {first : Nat × Tile} {rest : List (Nat × Tile)}

/-- FENCE_SWITCH once every rank waits in the fence and its switch stands at the head of every queue. -/
theorem exec_fenceSwitch (ha : s.allWait v.toNat k.toNat (asksFence wid) = true)
    (hw : s.waiting v.toNat k.toNat = first :: rest)
    (hready : ∀ e ∈ first :: rest, ∃ x, s.wentry k.toNat e.1 wid.toNat = some x ∧ x.fenceReady = true)
    (hbusy : s.launchBusyOn v.toNat k.toNat wid (first.2.dir wid.toNat).gen = false) :
    exec (.fenceSwitch v k wid) s = .next ((first :: rest).foldl (fun u e => u.serveAll k.toNat e.1 wid.toNat)
      ((first :: rest).foldl
        (switchRank k.toNat wid.toNat ((first :: rest).any fun e => e.2.req == some (.wfen wid true))) s)) := by
  show execFenceSwitch v k wid s = _
  unfold execFenceSwitch
  refine congrArg _ ((if_neg (not_not_or_not ha ?_)).trans ?_)
  · rw [hw]
    refine List.all_eq_true.mpr fun e he => ?_
    obtain ⟨x, hx, hr⟩ := hready e he
    simp only [hx, hr]
  · simp only [hw, List.head?_cons, hbusy, Bool.false_eq_true, if_false]
    rfl

theorem fenceReady_of_queue {x : WEntry} {n : Bool} (hep : x.epoch = .closed ∨ x.epoch = .fence) (hq : x.queue = [.fence n]) :
    x.fenceReady = true := by
  rcases hep with h | h <;> simp [WEntry.fenceReady, h, hq]

end

/-- Settles O29: WOPEN by the lowest closed id and the room at the ports, WDROP by its guards, the fence rank by rank; a rank's
queue is then empty, so nothing is served behind its switch. -/
theorem windowCollectiveEvents : Obligations.WindowCollectiveEvents := by
  intro s v k wid first rest
  refine ⟨fun ha hw ho => ?_, fun w hlt ha hw hc hroom => ?_, fun w hlt ha hw hc hmin hroom => ?_, exec_wdropCollective,
    fun ha hw hbusy hq => ?_⟩
  · rw [exec_wopenCollective ha hw, find_closed_eq_none ho]
    rfl
  · obtain ⟨w', hf⟩ := Option.isSome_iff_exists.mp (find_closed_isSome hlt hc)
    rw [exec_wopenCollective ha hw, hf, Option.elim_some, hroom]
    rfl
  · rw [exec_wopenCollective ha hw, find_closed_eq_some hlt hc hmin, Option.elim_some, hroom, openWindow_eq]
    rfl
  · have hready : ∀ e ∈ first :: rest, ∃ x, s.wentry k.toNat e.1 wid.toNat = some x ∧ x.fenceReady = true := fun e he => by
      obtain ⟨-, x, n, hx, hep, hone⟩ := hq e he
      exact ⟨x, hx, fenceReady_of_queue hep hone⟩
    have hsw : ∀ e ∈ first :: rest, ∃ x n, s.wentry k.toNat e.1 wid.toNat = some x ∧ x.queue = [.fence n] ∧
        Switched k.toNat wid.toNat ((first :: rest).any fun e => e.2.req == some (.wfen wid true)) e.1 x
          ((first :: rest).foldl (switchRank k.toNat wid.toNat _) s) := fun e he => by
      obtain ⟨hreq, x, n, hx, -, hone⟩ := hq e he
      exact ⟨x, n, hx, hone, switched_of_mem (by simp [hone]) he ⟨hreq, hx⟩⟩
    refine ⟨_, (exec_fenceSwitch ha hw hready hbusy).trans (congrArg _ (foldl_eq_of_fixed fun e he => ?_)), fun e he => ?_⟩
    · obtain ⟨x, n, -, hone, ⟨-, hent⟩, -⟩ := hsw e he
      exact serveAll_of_empty hent (by simp [WEntry.switched, hone])
    · obtain ⟨x, n, hx, hone, ⟨-, hent⟩, hgrant, hfence⟩ := hsw e he
      refine ⟨hgrant, hfence, fun y hy => ?_⟩
      obtain rfl : x = y := Option.some.inj (hx.symm.trans hy)
      rw [hent, WEntry.switched, hone]
      rfl

end Sys2Proof.Machine
end

section
/-! Items of a flow at their port (R245, R248, R264, R348): the head arrives, is refused, or waits; and what a window operation
completes with (R249, R277). -/

namespace Sys2Proof.Machine

/-! ### The head of a flow (R264, R348) -/

section
variable {s : State} {o t id n : Nat} {bytes : List Byte} {i : FlowItem} {r : List FlowItem} {ref : Option Nat}

theorem mayArrive_packet (hw : s.flowWaits o t = false) (hp : s.portHeld o t id n = false) :
    s.mayArrive o t (.packet id n bytes) = true := by
  simp only [State.mayArrive, hw, hp, Bool.not_false, Bool.and_self]

theorem mayArrive_packet_held (hp : s.portHeld o t id n = true) : s.mayArrive o t (.packet id n bytes) = false := by
  simp only [State.mayArrive, hp, Bool.not_true, Bool.and_false]

theorem refuses_of_room (h : s.bufferFull (t / 4) = false) : s.refuses o t i = false := by
  unfold State.refuses
  rw [h, Bool.false_and]

theorem refuses_of_full (h : s.bufferFull (t / 4) = true) (hb : s.begun o id = false) :
    s.refuses o t (.packet id n bytes) = true := by
  simp only [State.refuses, h, hb, Bool.not_false, Bool.and_self]

variable (hf : s.flow o t = ⟨i :: r, ref⟩)
include hf

theorem arrive_taken (hm : s.mayArrive o t i = true) (hr : s.refuses o t i = false) :
    s.arrive o t = (s.setFlow o t ⟨r, none⟩).takeItem o t i := by
  simp only [State.arrive, hf, hm, hr, Bool.not_true, Bool.false_eq_true, if_false]

theorem arrive_refused (hm : s.mayArrive o t i = true) (hr : s.refuses o t i = true) :
    s.arrive o t = s.setFlow o t ⟨i :: r, some s.cycle⟩ := by
  simp only [State.arrive, hf, hm, hr, Bool.not_true, Bool.false_eq_true, if_false, if_true]

theorem arrive_waiting (hm : s.mayArrive o t i = false) : s.arrive o t = s := by
  simp only [State.arrive, hf, hm, Bool.not_false, if_true]

end

section
variable {s : State} {o t : Nat} {i : FlowItem} {r : List FlowItem}

/-- The head of a flow that was not refused arrives by the event of its kind. -/
theorem arriveFirst_eq {kind : FlowItem → Bool} (hf : s.flow o t = ⟨i :: r, none⟩) (hk : kind i = true) :
    s.arriveFirst o t kind = s.arrive o t :=
  if_pos (by simp [hf, hk])

theorem packetElement_waiting {id n : Nat} {bytes : List Byte} {ref : Option Nat}
    (hf : s.flow o t = ⟨.packet id n bytes :: r, ref⟩) (hm : s.mayArrive o t (.packet id n bytes) = false) :
    s.packetElement o t = s := by
  simp only [State.packetElement, hf, hm, Bool.not_false, Bool.true_or, if_true]

end

section
variable {s : State} {o t : BitVec 11} {id n : Nat} {bytes : List Byte} {r : List FlowItem}

theorem exec_windowPacketArrival (hf : s.flow o.toNat t.toNat = ⟨.packet id n bytes :: r, none⟩) :
    exec (.windowPacketArrival o t) s = .next (s.arrive o.toNat t.toNat) :=
  congrArg _ (arriveFirst_eq hf rfl)

theorem exec_packetRepresent_of_flow {f : Flow} {c : Nat} (hf : s.flow o.toNat t.toNat = f) (hr : f.refused = some c)
    (hc : c + 64 ≤ s.cycle) : exec (.packetRepresent o t) s = .next (s.arrive o.toNat t.toNat) := by
  show execPacketRepresent o t s = _
  simp only [execPacketRepresent, hf, hr, Option.isSome_some, Option.any_some, decide_eq_true hc, if_true]

end

/-! ### Completions (R249) -/

section
variable {s : State} {c : BitVec 9} {id : Nat} {x : Op} {p : WinP} (ho : s.op? c.toNat id = some x) (hk : x.kind = .win p)
include ho hk

/-- An operation that writes at its target: LOCAL once its packets are sent, else REMOTE once they have applied. -/
theorem exec_windowOpCompletion_of_store (hn : p.kind.fetches = false) : exec (.windowOpCompletion c id) s = .next (
    if (!x.loc) = true ∧ p.packets ≤ x.sent then s.finishLocal c.toNat id 0
    else if p.packets ≤ x.done.length then s.finishOp c.toNat id 0 else s) := by
  show execWindowOpCompletion c id s = _
  simp only [execWindowOpCompletion, ho, hk, hn, Bool.false_eq_true, if_false]

/-- An operation that fetches, once every packet has been answered: what is still to be written, then both completions. -/
theorem exec_windowOpCompletion_of_fetch (hn : p.kind.fetches = true) (hd : p.packets ≤ x.done.length)
    {u : State} (hu : u = (List.range (granCuts p.dest.1 p.dest.2).length).foldl (fun u j => u.answerWrite c.toNat id j) s)
    (hi : (u.op? c.toNat id).isSome = true) : exec (.windowOpCompletion c id) s = .next (u.finishOp c.toNat id 0) := by
  obtain ⟨y, hy⟩ := Option.isSome_iff_exists.mp hi
  show execWindowOpCompletion c id s = _
  simp only [execWindowOpCompletion, ho, hk, hn, if_true, if_neg (Nat.not_lt.mpr hd), ← hu, hy]

/-- One granule of fetched bytes that is still to be written, once its packets have returned. -/
theorem answerWrite_of_answered {j a m : Nat} {u : State} (hn : p.kind.fetches = true) (hj : x.wrote.contains j = false)
    (hcut : (granCuts p.dest.1 p.dest.2)[j]? = some (a, m))
    (hans : ∀ q ∈ p.packetsOf (a - p.dest.1) m, (ffind x.answers q).isSome = true)
    (hw : s.writeAt id x.tile.toNat a (((fetched p x.answers).drop (a - p.dest.1)).take m) = .ok u) :
    s.answerWrite c.toNat id j = u.modOp c.toNat id fun o => { o with wrote := j :: o.wrote } := by
  have hall : ((p.packetsOf (a - p.dest.1) m).any fun k => (ffind x.answers k).isNone) = false :=
    List.any_eq_false.mpr fun q hq => by simp [Option.isSome_iff_ne_none.mp (hans q hq)]
  simp only [State.answerWrite, ho, hk, hcut, hn, hj, hall, hw, Bool.not_true, Bool.false_eq_true, or_self, if_false]

end

/-! ### Notify records (R245, R277) -/

/-- The oldest record enters q1, of the tile with the record taken and the transfer it tells of joined to both views. -/
theorem exec_notifyRecord_of_room {s : State} {t : BitVec 11} {rec_ : Word} {id : Nat} {rest : List (Word × Nat)}
    (hn : (s.tile t.toNat).notify = (rec_, id) :: rest) (hr : (s.tile t.toNat).run = .running)
    (hq : (s.tile t.toNat).q1.length < 64) :
    ∃ u : State, exec (.notifyRecord t) s = .next (u.modTile t.toNat fun x => { x with q1 := x.q1 ++ [rec_] }) ∧
      u.tile t.toNat = ({ s.tile t.toNat with notify := rest } : Tile).joinOp id := by
  have hgo : ¬((s.tile t.toNat).run = .ended ∨ (s.tile t.toNat).run = .free) := by simp [hr]
  show ∃ u, execNotifyRecord t s = _ ∧ _
  simp only [execNotifyRecord, hn, if_neg hgo, if_pos hq]
  exact ⟨_, rfl, State.tile_modTile_self s t.toNat fun x => ({ x with notify := rest } : Tile).joinOp id⟩

/-- Settles O30: the head of a flow by whether it may arrive and whether its port refuses it, an operation by its kind and its
progress, a notify record by the room in q1. -/
theorem windowTransferEvents : Obligations.WindowTransferEvents := by
  intro s o t id n bytes r c x p rec_ rest at_
  refine ⟨fun hf hw hp hb => ?_, fun hf hc hw hp hb => ?_, fun hf hw hp hb hn => ?_, fun hf hp => ?_,
    fun ho hk hn hl hs => ?_, fun ho hk hn hl hd => ?_, fun ho hk hn hd hi => exec_windowOpCompletion_of_fetch ho hk hn hd rfl hi,
    fun j a m u ho hk hn hj hcut hans hw => answerWrite_of_answered ho hk hn hj hcut hans hw, fun hn hr hq => ?_⟩
  · rw [exec_windowPacketArrival hf, arrive_taken hf (mayArrive_packet hw hp) (refuses_of_room hb)]
    rfl
  · rw [exec_packetRepresent_of_flow hf rfl hc, arrive_taken hf (mayArrive_packet hw hp) (refuses_of_room hb)]
    rfl
  · rw [exec_windowPacketArrival hf, arrive_refused hf (mayArrive_packet hw hp) (refuses_of_full hb hn)]
  · have hm : s.mayArrive o.toNat t.toNat (.packet id n bytes) = false := mayArrive_packet_held hp
    rw [exec_windowPacketArrival hf, arrive_waiting hf hm]
    exact ⟨rfl, packetElement_waiting hf hm⟩
  · rw [exec_windowOpCompletion_of_store ho hk hn, if_pos ⟨by simp [hl], hs⟩]
  · rw [exec_windowOpCompletion_of_store ho hk hn, if_neg (by simp [hl]), if_pos hd]
  · obtain ⟨u, he, hu⟩ := exec_notifyRecord_of_room hn hr hq
    refine ⟨_, he, ?_⟩
    rw [State.tile_modTile_self, hu]
    exact ⟨rfl, rfl, rfl⟩

end Sys2Proof.Machine
end

section
/-! Requests, notices and releases at their ports (R253 to R263, R348): taken where there is room, else refused and kept. -/

namespace Sys2Proof.Machine

/-! ### Requests and post notices (R253, R258) -/

section
variable {s : State} {k : Nat} {m : ReqMsg} {z : Notice}

theorem exec_requestQueueAccept (hm : s.reqs[k]? = some m) (hr : m.refused = none) :
    exec (.requestQueueAccept k) s = .next (s.presentReq m) := by
  show execRequestQueueAccept k s = _
  simp only [execRequestQueueAccept, hm, if_pos hr]

theorem exec_postNotice (hz : s.notes[k]? = some z) (hr : z.refused = none) :
    exec (.postNotice k) s = .next (s.presentNotice k z) := by
  show execPostNotice k s = _
  simp only [execPostNotice, hz, if_pos hr]

/-- A request that may reach its port, by the room there. -/
theorem presentReq_of_ready (hr : s.reqReady m = true) : s.presentReq m =
    if (s.cluster (m.target.toNat / 4)).queued < 64 ∧ (!s.bufferFull (m.target.toNat / 4)) = true then
      State.enqueue { s with reqs := s.reqs.filter fun q => q.id != m.id } m
    else { s with reqs := s.reqs.map fun q => if q.id = m.id then { q with refused := some s.cycle } else q } :=
  if_neg (by simp [hr])

theorem takeNotice_of_bound (hrun : (s.tile z.member.toNat).run ≠ .free) (hslot : (s.tile z.member.toNat).slot = z.slot) :
    s.takeNotice z = s.modTile z.member.toNat fun y =>
      y.modDir z.wid.toNat fun d => { d with notices := d.notices ++ [z.rank.toNat] } :=
  if_pos ⟨hrun, hslot⟩

end

/-! ### Completion notices and releases (R255, R259) -/

section
variable {s : State} {o t : BitVec 11} {wid gen : BitVec 8} {i : FlowItem} {id : Nat} {r : List FlowItem} {e : WEntry}

theorem mayArrive_notice (hn : i.noticeId = some id) (hw : s.flowWaits o.toNat t.toNat = false)
    (hs : s.sentBefore o.toNat t.toNat id = true) : s.mayArrive o.toNat t.toNat i = true := by
  cases i with
  | packet op j bytes => cases hn
  | completion n w g | release n w g =>
    cases hn
    simp only [State.mayArrive, hw, hs, Bool.not_false, Bool.and_self]

theorem refuses_notice (hn : i.noticeId = some id) (hb : s.bufferFull (t.toNat / 4) = true) :
    s.refuses o.toNat t.toNat i = true := by
  cases i with
  | packet op j bytes => cases hn
  | completion n w g | release n w g => simp only [State.refuses, hb, Bool.and_self]

theorem exec_completionNotice (hf : s.flow o.toNat t.toNat = ⟨.completion id wid gen :: r, none⟩) :
    exec (.completionNotice o t) s = .next (s.arrive o.toNat t.toNat) :=
  congrArg _ (arriveFirst_eq hf rfl)

theorem exec_lockRelease (hf : s.flow o.toNat t.toNat = ⟨.release id wid gen :: r, none⟩) :
    exec (.lockRelease o t) s = .next (s.arrive o.toNat t.toNat) :=
  congrArg _ (arriveFirst_eq hf rfl)

variable (he : s.flowEntry o.toNat t.toNat wid gen = some e)
include he

theorem takeCompletion_eq : s.takeCompletion o.toNat t.toNat wid gen =
    (s.setEntry (s.tile o.toNat).slot.toNat t.toNat wid.toNat (e.completedBy (s.tile o.toNat).rank.toNat)).entryEvent
      (s.tile o.toNat).slot.toNat t.toNat wid.toNat e (s.tile o.toNat).rank.toNat 4 := by
  simp only [State.takeCompletion, he]

theorem takeRelease_eq : s.takeRelease o.toNat t.toNat wid gen =
    ((s.setEntry (s.tile o.toNat).slot.toNat t.toNat wid.toNat { e with epoch := e.epoch.release o }).entryEvent
      (s.tile o.toNat).slot.toNat t.toNat wid.toNat e (s.tile o.toNat).rank.toNat 3).serveAll
        (s.tile o.toNat).slot.toNat t.toNat wid.toNat := by
  simp only [State.takeRelease, he, BitVec.ofNat_toNat, BitVec.setWidth_eq]

end

/-- Settles O31: a request by the room at its port, a post notice by its member, the notices and releases of a flow as its
head. -/
theorem windowSyncEvents : Obligations.WindowSyncEvents := by
  intro s k m z o t wid gen r e id
  refine ⟨fun hm hr hy hq hb => ?_, fun hm hr hy hfull => ?_, fun hz hr hb => ?_, fun hz hr hb hrun hslot => ?_,
    fun hf hw hs hb he => ?_, fun hf hw hs hb he => ?_, fun hf hw hs hb => ?_, fun hf hw hs hb => ?_⟩
  · rw [exec_requestQueueAccept hm hr, presentReq_of_ready hy, if_pos ⟨hq, by simp [hb]⟩]
  · have hno : ¬((s.cluster (m.target.toNat / 4)).queued < 64 ∧ (!s.bufferFull (m.target.toNat / 4)) = true) := by
      rintro ⟨hlt, hroom⟩
      exact hfull.elim (Nat.not_le.mpr hlt) fun hb => by simp [hb] at hroom
    rw [exec_requestQueueAccept hm hr, presentReq_of_ready hy, if_neg hno]
  · rw [exec_postNotice hz hr, State.presentNotice, if_pos hb]
  · rw [exec_postNotice hz hr, State.presentNotice, if_neg (Bool.eq_false_iff.mp hb)]
    exact congrArg _ (takeNotice_of_bound (s := { s with notes := s.notes.eraseIdx k }) hrun hslot)
  · rw [exec_completionNotice hf, arrive_taken hf (mayArrive_notice rfl hw hs) (refuses_of_room hb)]
    exact congrArg _ (takeCompletion_eq (s := s.setFlow o.toNat t.toNat ⟨r, none⟩) he)
  · rw [exec_lockRelease hf, arrive_taken hf (mayArrive_notice rfl hw hs) (refuses_of_room hb)]
    exact congrArg _ (takeRelease_eq (s := s.setFlow o.toNat t.toNat ⟨r, none⟩) he)
  · rw [exec_completionNotice hf, arrive_refused hf (mayArrive_notice rfl hw hs) (refuses_notice rfl hb)]
  · rw [exec_lockRelease hf, arrive_refused hf (mayArrive_notice rfl hw hs) (refuses_notice rfl hb)]

end Sys2Proof.Machine
end

section
/-! The ordering slots: what a FENCE waits for, and the joining of the views (R198, R199, R275). -/

namespace Sys2Proof.Machine

open Sys2Proof.Claims

section
variable {u : State} {c : Scope} {k : BitVec 4}

theorem fenceDone_iff : u.fenceDone c k = true ↔
    ((k.getLsbD 2 = true ∨ k.getLsbD 3 = true) → ∀ p ∈ u.thread.posts, c.num < p.scope.num) ∧
    (k.getLsbD 1 = true → (∀ l ∈ u.thread.unperformed, c.num < (scopeOf u.iss.agent l.pa).num) ∧
      ∀ p ∈ u.thread.posts, p.took ≠ none → c.num < p.scope.num) := by
  have hstores : (!(k.getLsbD 3 || k.getLsbD 2) || u.thread.posts.all fun p => decide (c.num < p.scope.num)) = true ↔
      ((k.getLsbD 2 = true ∨ k.getLsbD 3 = true) → ∀ p ∈ u.thread.posts, c.num < p.scope.num) := by
    rw [Bool.or_comm (k.getLsbD 3)]
    simp [imp_iff_not_or]
  have htaken : (u.thread.posts.all fun p => p.took.isNone || decide (c.num < p.scope.num)) = true ↔
      ∀ p ∈ u.thread.posts, p.took ≠ none → c.num < p.scope.num := by
    simp [imp_iff_not_or]
  rw [State.fenceDone, Bool.and_eq_true, hstores, Bool.or_eq_true, Bool.and_eq_true, htaken, Bool.not_eq_true',
    ← Bool.not_eq_true, ← imp_iff_not_or]
  simp only [List.all_eq_true, decide_eq_true_eq]

end

theorem exec_fence (c : Scope) (k : BitVec 4) (s : State) : exec (.fence c k) s =
    issueSlot (.fence c k) (fun u => if u.fenceDone c k then .go else .wait none) (fun u => u) s := rfl

/-- Settles O13: a FENCE goes or waits by its one test, which is read as the stores and the loads of its scope. -/
theorem fenceAndJoin : Obligations.FenceAndJoin := by
  refine ⟨fun c k => ⟨?_, ?_, fun u => fenceDone_iff⟩, ?_⟩
  · exact does_of_issueSlot (exec_fence c k) fun s hd => if_pos hd
  · exact waits_of_issueSlot (exec_fence c k) fun s hw => if_neg (Bool.eq_false_iff.mp hw)
  · exact does_of_issueSlot (fun _ => rfl) fun s _ => rfl

end Sys2Proof.Machine
end

section
/-! The launch slots (R305, R306, R314, R315): the parts of LAUNCH's check in their order, and what a launch handle names. -/

namespace Sys2Proof.Machine

open Sys2Proof.Claims

/-! ### What the checks of LAUNCH look at (R296, R305, R306) -/

theorem Seq.freeSlot_isNone_iff (q : Seq) : q.freeSlot.isNone = true ↔ ∀ k < 16, (q.slot k).st ≠ .free := by
  simp [Seq.freeSlot]

theorem imageHdr_eq_none_iff (bs : List Byte) : imageHdr bs = none ↔
    (wordAt bs 0).extractLsb' 32 32 ≠ 0 ∨ (wordAt bs 0).extractLsb' 0 32 = 0 ∨ (wordAt bs 1).toNat % 4 ≠ 0 ∨
      (wordAt bs 1).toNat < 0x100000000 ∨ 0x17FFFFFFF < (wordAt bs 1).toNat :=
  ite_eq_left_iff.trans (by simp only [reduceCtorEq, imp_false, not_not])

/-- A shape that keeps R305 lies in its partition and has a rank for each tile of its set. -/
theorem shapeOk_fits {sh ctl : Word} {n : Nat} (h : shapeOk sh ctl n = true) :
    shLidx0 sh + shNcl sh ≤ n ∧ shNx sh * shNy sh * shNz sh * shNs sh = shNcl sh * (maskTiles (shTmask sh)).length := by
  simp only [shapeOk, Bool.and_eq_true, decide_eq_true_eq, beq_iff_eq] at h
  exact ⟨h.1.2, h.2⟩

/-! ### The check of LAUNCH, part after part (R279, R306) -/

/-- The last part: what the read of the header answered, the header, then the shape. -/
def State.headerCheck (s : State) (e : DOp) (r : Except (BitVec 8 × Nat) (List Byte)) : Verdict :=
  match r with
  | .error (c, x) => s.faultAt c (BitVec.ofNat 64 x)
  | .ok bs =>
    match imageHdr bs with
    | none => s.faultAt cLAUNCH_SHAPE (s.readD e 0)
    | some _ => checkThat (shapeOk (s.readD e 2) (s.readD e 3) (s.pcl s.curSeq)) (s.faultAt cLAUNCH_SHAPE (s.readD e 2))

section
variable {s : State} {e : DOp}

theorem launchCheck_of_full (h : ∀ k < 16, ((s.seqCtx s.curSeq).slot k).st ≠ .free) :
    s.launchCheck e = s.faultPc cHANDLE_EXHAUSTED :=
  if_pos ((Seq.freeSlot_isNone_iff _).mpr h)

variable (hroom : ∃ k < 16, ((s.seqCtx s.curSeq).slot k).st = .free)
include hroom

theorem freeSlot_of_room : (s.seqCtx s.curSeq).freeSlot.isNone = false := by
  obtain ⟨k, hk, hf⟩ := hroom
  exact Bool.eq_false_iff.mpr fun hn => (Seq.freeSlot_isNone_iff _).mp hn k hk hf

theorem launchCheck_of_unaligned (ha : (s.readD e 0).toNat % 32 ≠ 0) : s.launchCheck e = s.faultAt cALIGN (s.readD e 0) := by
  rw [State.launchCheck, freeSlot_of_room hroom, if_neg Bool.false_ne_true, if_pos ha]

variable (ha : (s.readD e 0).toNat % 32 = 0)
include ha

theorem launchCheck_of_room :
    s.launchCheck e = s.quietCheck.andThen (s.headerCheck e (s.seqRead s.curSeq (s.readD e 0).toNat 32)) := by
  rw [State.launchCheck, freeSlot_of_room hroom, if_neg Bool.false_ne_true, if_neg (not_not.mpr ha)]
  rfl

theorem launchCheck_of_unquiet (hq : s.thread.quiet = false) : s.launchCheck e = .wait none := by
  have hwait : s.quietCheck = .wait none := if_neg (Bool.eq_false_iff.mp hq)
  rw [launchCheck_of_room hroom ha, hwait]
  rfl

theorem launchCheck_of_quiet (hq : s.thread.quiet = true) {r : Except (BitVec 8 × Nat) (List Byte)}
    (hr : s.seqRead s.curSeq (s.readD e 0).toNat 32 = r) : s.launchCheck e = s.headerCheck e r := by
  rw [launchCheck_of_room hroom ha, andThen_eq_go (quietCheck_go hq), hr]

end

section
variable {s : State} {e : DOp} {bs : List Byte}

theorem headerCheck_of_bad (hh : imageHdr bs = none) : s.headerCheck e (.ok bs) = s.faultAt cLAUNCH_SHAPE (s.readD e 0) := by
  simp only [State.headerCheck, hh]

theorem headerCheck_of_good {h : ImageHdr} (hh : imageHdr bs = some h) : s.headerCheck e (.ok bs) =
    checkThat (shapeOk (s.readD e 2) (s.readD e 3) (s.pcl s.curSeq)) (s.faultAt cLAUNCH_SHAPE (s.readD e 2)) := by
  simp only [State.headerCheck, hh]

end

/-! ### The slots by their frames -/

theorem exec_launch (d : BitVec 5) (e : DOp) (s : State) : exec (.launch d e) s =
    issueSlot (.launch d e) (fun u => u.launchCheck e) (fun u => u.launch d e) s := rfl

/-- The check of WAITL, by the launch that its handle names. -/
def State.waitlCheck (u : State) (v : Word) : Verdict :=
  match u.launchOf v with
  | none => u.faultAt cSTALE_HANDLE v
  | some l => if l.over then .go else .wait none

/-- The effect of WAITL: the status, and the slot freed (R315). -/
def State.waitl (u : State) (d : BitVec 5) (v : Word) : State :=
  match u.launchOf v with
  | none => u
  | some l => (u.dstS 1 false (.reg d) l.status).modSeq u.curSeq fun q => q.setSlot (slotNo v) l.freed

/-- The effect of LSTAT: the status (R315). -/
def State.lstat (u : State) (d : BitVec 5) (v : Word) : State :=
  match u.launchOf v with
  | none => u
  | some l => u.dstS 2 false (.reg d) l.status

theorem exec_waitl (d : BitVec 5) (a : SOp) (s : State) : exec (.waitl d a) s =
    issueSlot (.waitl d a) (fun u => u.waitlCheck (u.readS a)) (fun u => u.waitl d (u.readS a)) s := rfl

theorem exec_lstat (d : BitVec 5) (a : SOp) (s : State) : exec (.lstat d a) s =
    issueSlot (.lstat d a) (fun u => checkThat (u.launchOf (u.readS a)).isSome (u.faultAt cSTALE_HANDLE (u.readS a)))
      (fun u => u.lstat d (u.readS a)) s := rfl

/-! ### What a launch handle names (R314, R315) -/

section
variable {s : State} {v : Word}

theorem waitlCheck_of_stale (h : s.launchOf v = none) : s.waitlCheck v = s.faultAt cSTALE_HANDLE v := by
  rw [State.waitlCheck, h]

variable {l : LSlot} (h : s.launchOf v = some l)
include h

theorem waitlCheck_of_launch : s.waitlCheck v = if l.over then .go else .wait none := by
  rw [State.waitlCheck, h]

theorem waitl_of_launch (d : BitVec 5) : s.waitl d v =
    (s.dstS 1 false (.reg d) l.status).modSeq s.curSeq fun q => q.setSlot (slotNo v) l.freed := by
  rw [State.waitl, h]

theorem lstat_of_launch (d : BitVec 5) : s.lstat d v = s.dstS 2 false (.reg d) l.status := by
  rw [State.lstat, h]

end

theorem LSlot.over_iff (l : LSlot) : l.over = true ↔ l.st = .complete ∨ l.st = .killed := by
  rw [LSlot.over, Bool.or_eq_true, beq_iff_eq, beq_iff_eq]

theorem LSlot.over_eq_false {l : LSlot} (h : l.st = .queued ∨ l.st = .running ∨ l.st = .saved) : l.over = false := by
  rcases h with h | h | h <;> rw [LSlot.over, h] <;> rfl

/-- Settles O21: LAUNCH by the first part of its check that stops it, WAITL and LSTAT by the launch that their handle names. -/
theorem launchSlots : Obligations.LaunchSlots := by
  intro d a e l
  refine ⟨?live, ?full, ?unaligned, ?unquiet, ?readError, ?badHeader, ?badShape, fun sh ctl n => shapeOk_fits, ?launch,
    ?retired, ?status, ?staleWait, ?staleStatus⟩
  case live =>
    exact waits_of_issueSlot (exec_waitl d a) fun s ⟨hl, hst⟩ =>
      (waitlCheck_of_launch hl).trans (if_neg (Bool.eq_false_iff.mp (LSlot.over_eq_false hst)))
  case full => exact faults_of_issueSlot (exec_launch d e) fun s hfull => launchCheck_of_full hfull
  case unaligned =>
    exact faults_of_issueSlot (exec_launch d e) fun s ⟨hroom, ha⟩ => launchCheck_of_unaligned hroom ha
  case unquiet =>
    exact waits_of_issueSlot (exec_launch d e) fun s ⟨hroom, ha, hq⟩ => launchCheck_of_unquiet hroom ha hq
  case readError =>
    exact fun c x => faults_of_issueSlot (exec_launch d e) fun s ⟨⟨hroom, ha, hq⟩, hr⟩ =>
      launchCheck_of_quiet hroom ha hq hr
  case badHeader =>
    exact fun bs => faults_of_issueSlot (exec_launch d e) fun s ⟨⟨hroom, ha, hq⟩, hr, hbad⟩ =>
      (launchCheck_of_quiet hroom ha hq hr).trans (headerCheck_of_bad ((imageHdr_eq_none_iff bs).mpr hbad))
  case badShape =>
    exact fun bs h => faults_of_issueSlot (exec_launch d e) fun s ⟨⟨hroom, ha, hq⟩, hr, hh, hs⟩ =>
      ((launchCheck_of_quiet hroom ha hq hr).trans (headerCheck_of_good hh)).trans (checkThat_false _ hs)
  case launch => exact does_of_issueSlot (exec_launch d e) fun s hg => hg
  case retired =>
    exact does_of_issueSlot_where (exec_waitl d a)
      (fun s ⟨hl, hst⟩ => (waitlCheck_of_launch hl).trans (if_pos (l.over_iff.mpr hst))) (fun s h => h)
      fun s ⟨hl, _⟩ => waitl_of_launch hl d
  case status =>
    exact does_of_issueSlot_where (exec_lstat d a) (fun s hl => checkThat_true _ (by rw [hl]; rfl)) (fun s h => h)
      fun s hl => lstat_of_launch hl d
  case staleWait => exact faults_of_issueSlot (exec_waitl d a) fun s hl => waitlCheck_of_stale hl
  case staleStatus =>
    exact faults_of_issueSlot (exec_lstat d a) fun s hl => checkThat_false _ (by rw [hl]; rfl)

end Sys2Proof.Machine
end

section
/-! The events of accesses to HBM: answers, posted writes, walks, and the translations that an access may use (R69, R203 to R205,
R209, R211, R270, R343). -/

namespace Sys2Proof.Machine

/-! ### Answers and posted writes (R69, R209, R211, R270) -/

section
variable {s : State} {a : Agent} {k : Nat} {l : Load}

theorem exec_nominalAnswerArrival_of_performed {v : Word} (hf : (s.threadOf a).findLoad k = some l) (hv : l.value = some v)
    (fwd : Bool) : exec (.nominalAnswerArrival a k fwd) s = .next (s.modThreadOf a fun t => t.answer l v) := by
  simp only [exec, execNominalAnswerArrival, hf, hv]

/-- The answer of a load that has not performed comes with its performance. -/
theorem exec_nominalAnswerArrival_of_waiting (hf : (s.threadOf a).findLoad k = some l) (hv : l.value = none)
    (hl : l.atomic = false) (fwd : Bool) : exec (.nominalAnswerArrival a k fwd) s = .next (s.answerLoad a l fwd) := by
  simp only [exec, execNominalAnswerArrival, hf, hv, hl, Bool.false_eq_true, if_false]

theorem answerLoad_of_hbm (hm : (s.threadOf a).mayLoad l = true) (hb : s.hbmBad l.pa l.size = false) :
    s.answerLoad a l false = (s.cacheLine a l).modThreadOf a fun t =>
      t.answer l (extend l.signed l.size (readLe s.hbm l.pa l.size)) := by
  simp only [State.answerLoad, hm, hb, Bool.false_and, Bool.false_eq_true, if_false, if_true]

theorem answerLoad_of_forward {p : Post} {bs : List Byte} (hf : (s.threadOf a).forward l = some (p, bs)) :
    s.answerLoad a l true = s.modThreadOf a fun t => (t.take p.id l.id).answer l (extend l.signed l.size (leNat bs)) := by
  simp only [State.answerLoad, hf, if_true]

theorem exec_atomicUnitApply_of_post {p : Post} (hf : (s.threadOf a).posts.find? (fun q => q.id == k) = some p)
    (hm : (s.threadOf a).mayApply p = true) (hd : s.postDamage p = false) :
    exec (.atomicUnitApply a k) s = .next (s.applyPost a p) := by
  simp only [exec, execAtomicUnitApply, hf, hm, State.performPost, hd, Bool.false_eq_true, if_false, if_true]

end

/-! ### What a walk leaves (R203 to R205, R343) -/

theorem Cluster.keepWalk_entry (k : Cluster) (page : Nat) (e : Word) : k.keepWalk page (.entry e) =
    { k with
      walks := if (fget [] k.walks page).contains (.entry e) then k.walks
        else fput k.walks page (.entry e :: fget [] k.walks page)
      tlb := if ffind k.tlb page = none ∧ k.tlb.length < 1024 then fput k.tlb page e else k.tlb } := by
  have hroom : (ffind k.tlb page = none ∧ k.tlb.length < 1024) ↔ ¬((ffind k.tlb page).isSome = true ∨ 1024 ≤ k.tlb.length) := by
    rw [not_or, Nat.not_le, Bool.not_eq_true, Option.isSome_eq_false_iff, Option.isNone_iff_eq_none]
  simp only [Cluster.keepWalk, hroom, ite_not]

theorem Cluster.keepWalk_of_no_entry (k : Cluster) (page : Nat) {f : OldWalk} (hf : ∀ e, f ≠ .entry e) : k.keepWalk page f =
    { k with
      walks := if (fget [] k.walks page).contains f then k.walks else fput k.walks page (f :: fget [] k.walks page) } := by
  cases f with
  | entry e => exact absurd rfl (hf e)
  | fault c => rfl
  | hole x => rfl

section
variable {s : State} {p : Part} {c w : Nat}

theorem walked_of_entry {e : Word} (hw : s.walk p c w = .ok e) : s.walked p c w = some (.entry e) := by
  simp only [State.walked, hw]

/-- A walk that finds a fault, but for a damaged table entry, leaves that fault or a level-2 entry with V = 0. -/
theorem walked_of_fault {f : BitVec 8} (hw : s.walk p c w = .error f) (hf : f ≠ cECC) :
    s.walked p c w = some (.fault f) ∨ ∃ x, s.walked p c w = some (.hole x) := by
  simp only [State.walked, hw, if_neg hf]
  split
  · split
    · exact .inl rfl
    · exact .inr ⟨_, rfl⟩
  · exact .inl rfl

end

theorem State.modCluster_congr {s : State} {c : Nat} {f g : Cluster → Cluster} (h : f (s.cluster c) = g (s.cluster c)) :
    s.modCluster c f = s.modCluster c g := by
  rw [State.modCluster, h]
  rfl

theorem exec_translationWalk_of_walked {s : State} {c : BitVec 9} {w : BitVec 31} {o : BitVec 6} {f : OldWalk}
    (ho : (s.cluster c.toNat).owner = some o) (he : (s.part o.toNat).en = true)
    (hf : s.walked (s.part o.toNat) c.toNat w.toNat = some f) :
    exec (.translationWalk c w) s = .next (s.modCluster c.toNat fun k => k.keepWalk (w.toNat / 2 ^ 16) f) := by
  simp only [exec, execTranslationWalk, ho, he, hf, Bool.not_true, Bool.false_eq_true, if_false]

/-! ### The translations an access may use (R205, R343) -/

theorem OldWalk.offers_eq_some_iff (f : OldWalk) (level1 : Word) (m : Except (BitVec 8) Word) : f.offers level1 = some m ↔
    (∃ x, f = .entry x ∧ m = .ok x) ∨ (∃ x, f = .fault x ∧ m = .error x) ∨
      ∃ x, f = .hole x ∧ level1 ≠ x ∧ m = .error cXLATE_NOTPRESENT := by
  cases f <;> simp [OldWalk.offers, eq_comm]

theorem mem_filterMap_offers_iff (old : List OldWalk) (level1 : Word) (m : Except (BitVec 8) Word) :
    m ∈ old.filterMap (OldWalk.offers · level1) ↔
      (∃ x, .entry x ∈ old ∧ m = .ok x) ∨ (∃ f, .fault f ∈ old ∧ m = .error f) ∨
        ∃ x, .hole x ∈ old ∧ level1 ≠ x ∧ m = .error cXLATE_NOTPRESENT := by
  simp only [List.mem_filterMap, OldWalk.offers_eq_some_iff, and_or_left, exists_or]
  refine or_congr ?_ (or_congr ?_ ?_)
  all_goals
    exact ⟨fun ⟨_, hf, x, hx, hm⟩ => ⟨x, hx ▸ hf, hm⟩, fun ⟨x, hx, hm⟩ => ⟨_, hx, x, rfl, hm⟩⟩

theorem mem_mappings_iff {s : State} {c w : Nat} {o : BitVec 6} (ho : (s.cluster c).owner = some o)
    (m : Except (BitVec 8) Word) : m ∈ s.mappings c w ↔
      m = s.walk (s.part o.toNat) c w ∨ (∃ x, ffind (s.cluster c).tlb (w / 2 ^ 16) = some x ∧ m = .ok x) ∨
        m ∈ (fget [] (s.cluster c).walks (w / 2 ^ 16)).filterMap
          (OldWalk.offers · ((((s.part o.toNat).level1At c w).map s.tableEntry).getD 0)) := by
  simp only [State.mappings, ho, List.mem_dedup, List.mem_append, List.mem_map, Option.mem_toList,
    List.mem_singleton, eq_comm (b := m)]
  exact or_assoc.symm.trans or_comm

/-! ### Invalidation (R205, R343) -/

/-- A change that is the same when made twice, made to each cluster of a list. -/
theorem cluster_foldl_modCluster {f : Cluster → Cluster} (hf : ∀ k, f (f k) = f k) (cs : List (BitVec 9)) (s : State) (d : Nat) :
    (cs.foldl (fun s c => s.modCluster c.toNat f) s).cluster d =
      if d ∈ cs.map BitVec.toNat then f (s.cluster d) else s.cluster d := by
  induction cs generalizing s with
  | nil => rfl
  | cons c cs ih =>
    rw [List.foldl_cons, ih, List.map_cons]
    by_cases hd : d = c.toNat
    · subst hd
      simp [hf]
    · simp [State.cluster_modCluster_ne _ _ _ _ hd, hd]

theorem cluster_dropTlbs {s : State} {v : Nat} {c : BitVec 9} (hc : c ∈ (s.part v).map) :
    (s.dropTlbs v).cluster c.toNat = (s.cluster c.toNat).invalidated := by
  rw [State.dropTlbs, cluster_foldl_modCluster (f := Cluster.invalidated) fun _ => rfl, if_pos (List.mem_map_of_mem hc)]

theorem exec_xlinvDone_of_started {s : State} {o : BitVec 6} (hx : (s.part o.toNat).xlinv = true) :
    exec (.xlinvDone o) s = .next ((s.dropTlbs o.toNat).modPart o.toNat fun p => { p with xlinv := false }) :=
  congrArg Host.Outcome.next (if_pos hx)

/-- An invalidated cluster offers what a walk finds, and nothing else. -/
theorem mem_mappings_of_invalidated {u : State} {c w : Nat} {o : BitVec 6} {k : Cluster} (hu : u.cluster c = k.invalidated)
    (ho : k.owner = some o) (m : Except (BitVec 8) Word) : m ∈ u.mappings c w ↔ m = u.walk (u.part o.toNat) c w := by
  rw [mem_mappings_iff (by rw [hu]; exact ho), hu]
  simp [Cluster.invalidated, ffind]

/-- Settles O27: each event in the case its conditions name; the translations of an access by what its cluster keeps. -/
theorem accessEvents : Obligations.AccessEvents := by
  intro s a k l p v e c w o
  refine ⟨exec_nominalAnswerArrival_of_performed, fun hf hv hl hm hb => ?_, fun bs hf hv hl hfw => ?_,
    exec_atomicUnitApply_of_post, fun ho hen => ⟨fun hw => ?_, fun f hf hno => ?_, fun f => walked_of_fault, fun m => ?_⟩,
    fun ho hx hc => ⟨_, exec_xlinvDone_of_started hx, mem_mappings_of_invalidated (cluster_dropTlbs hc) ho⟩⟩
  · rw [exec_nominalAnswerArrival_of_waiting hf hv hl, answerLoad_of_hbm hm hb]
  · rw [exec_nominalAnswerArrival_of_waiting hf hv hl, answerLoad_of_forward hfw]
    rfl
  · rw [exec_translationWalk_of_walked ho hen (walked_of_entry hw)]
    exact congrArg _ (State.modCluster_congr (Cluster.keepWalk_entry ..))
  · rw [exec_translationWalk_of_walked ho hen hf]
    exact congrArg _ (State.modCluster_congr (Cluster.keepWalk_of_no_entry _ _ hno))
  · rw [mem_mappings_iff ho, mem_filterMap_offers_iff]
    rfl

end Sys2Proof.Machine
end

section
/-! The binding of a QUEUED launch (R172, R307 to R310, R356). -/

namespace Sys2Proof.Machine

/-! ### A tile as binding leaves it (R308) -/

theorem vget_replicate {α : Type} [Inhabited α] {n i : Nat} (x : α) (h : i < n) : vget (Vector.replicate n x) i = x := by
  simp [vget, h]

/-- Beyond its registers a file of default values reads the default value too. -/
theorem vget_replicate_default {α : Type} [Inhabited α] (n i : Nat) :
    vget (Vector.replicate n (default : α)) i = default := by
  by_cases h : i < n
  · exact vget_replicate default h
  · simp [vget, h]

theorem vget_latches_val (i : Nat) : (vget (Vector.replicate 8 (⟨0, 0⟩ : Latch)) i).val = 0 := by
  by_cases h : i < 8
  · rw [vget_replicate _ h]
  · simp [vget, h, latch_default_val]

theorem Thread.getS_of_zero {t : Thread} (hs : t.s = Vector.replicate 28 0) (hh : t.bank.hi = Vector.replicate 4 0)
    (i : BitVec 5) : t.getS i = 0 := by
  rw [Thread.getS, hs, hh]
  split
  · exact vget_replicate_default 28 i.toNat
  · exact vget_replicate_default 4 (i.toNat - 28)

theorem Thread.getP_of_one {t : Thread} (h : t.bank.p = 1) (i : BitVec 3) : t.getP i = decide (i = 0) := by
  rw [Thread.getP, h]
  revert i
  decide

theorem Tile.evstat_of_empty {x : Tile} (h0 : x.q0 = []) (h1 : x.q1 = []) (ho : x.ovf = false) (hl : x.lost = 0) :
    x.evstat = 0 := by
  simp [Tile.evstat, h0, h1, ho, hl]

section
variable (x : Tile) (v k r n : Nat) (l : LSlot)

theorem Tile.bindTo_getS (i : BitVec 5) : (x.bindTo v k r l n).th.getS i = 0 := Thread.getS_of_zero rfl rfl i

theorem Tile.bindTo_getP (i : BitVec 3) : (x.bindTo v k r l n).th.getP i = decide (i = 0) := Thread.getP_of_one rfl i

theorem Tile.bindTo_latch (i : Nat) : (vget (x.bindTo v k r l n).th.bank.lat i).val = 0 := vget_latches_val i

theorem Tile.bindTo_so (i : Nat) : vget (x.bindTo v k r l n).so i = 0 := vget_replicate_default 8 i

theorem Tile.bindTo_li (i : Nat) : vget (x.bindTo v k r l n).th.li i = 0 := vget_replicate_default 6 i

end

/-! ### The launch bound (R307, R310) -/

theorem foldl_hbm {α : Type} (f : State → α → State) (hf : ∀ s x, (f s x).hbm = s.hbm) (l : List α) (s : State) :
    (l.foldl f s).hbm = s.hbm := by
  induction l generalizing s with
  | nil => rfl
  | cons x r ih => exact (ih _).trans (hf s x)

theorem clean_hbm (s : State) (p : Place → Bool) : (s.clean p).hbm = s.hbm := rfl

theorem freeEntries_hbm (s : State) (t : Nat) : (s.freeEntries t).hbm = s.hbm := rfl

theorem exec_bind_of_mayBind {s : State} {v : BitVec 6} {k : BitVec 4} (hq : (s.lslot v.toNat k.toNat).st = .queued)
    (hb : s.mayBind v.toNat k.toNat = true) :
    let u := ((s.part v.toNat).setTiles (s.lslot v.toNat k.toNat).shape).zipIdx.foldl (fun u e =>
      ((u.modTile e.1 fun x => x.bindTo v.toNat k.toNat e.2 (s.lslot v.toNat k.toNat) u.cycle).freeEntries e.1).clean
        (boundPlace e.1)) s
    exec (.bind v k) s = .next (u.modLslot v.toNat k.toNat fun l => { l with st := .running, code := u.hbm }) := by
  have hno : ¬((s.lslot v.toNat k.toNat).st ≠ .queued ∨ (!s.mayBind v.toNat k.toNat) = true) := by simp [hq, hb]
  exact congrArg Host.Outcome.next (if_neg hno)

/-- Settles O32: the launch by its event, a bound tile register by register. -/
theorem binding : Obligations.Binding := by
  refine ⟨fun s v k hq hb => ⟨exec_bind_of_mayBind hq hb, ?_⟩, fun x v k r n l => ?_⟩
  · refine foldl_hbm _ (fun u e => ?_) _ s
    rw [clean_hbm, freeEntries_hbm, State.modTile_hbm]
  · exact ⟨rfl, rfl, rfl, x.bindTo_getS v k r n l, fun i _ => x.bindTo_so v k r n l i,
      fun i _ => x.bindTo_li v k r n l i, x.bindTo_getP v k r n l, rfl, rfl, rfl, x.bindTo_latch v k r n l,
      rfl, rfl, rfl, rfl, fun _ => rfl, fun _ => rfl, fun _ => ⟨rfl, rfl⟩, fun _ => ⟨rfl, rfl⟩, rfl, rfl, rfl, rfl,
      Tile.evstat_of_empty rfl rfl rfl rfl, rfl, rfl, rfl, rfl, rfl, rfl, rfl, rfl⟩

end Sys2Proof.Machine
end

section
/-! Cuts, saves and restores of a launch (R310, R311, R330 to R332, R335 to R340). -/

namespace Sys2Proof.Machine

/-! ### The cut asked for (R311, R330) -/

/-- A waiting launch is kept out by a running one where a tile of its set is bound to that one. -/
theorem keepsOut_iff (s : State) (v w c : Nat) : s.keepsOut v w c = true ↔
    ∃ e ∈ s.ranks v c, e.1 ∈ (s.part v).setTiles (s.lslot v w).shape := by
  simp only [State.keepsOut, List.any_eq_true, List.contains_iff_mem]

section
variable {s : State} {v : BitVec 6} {w c : BitVec 4}

theorem exec_cutRequest_of_keepsOut (hw : (s.lslot v.toNat w.toNat).st = .queued)
    (hc : (s.lslot v.toNat c.toNat).st = .running)
    (hp : ctlPrio (s.lslot v.toNat c.toNat).ctl < ctlPrio (s.lslot v.toNat w.toNat).ctl)
    (ho : ctlCutok (s.lslot v.toNat c.toNat).ctl = true) (hs : (s.lslot v.toNat c.toNat).save.isSome = true)
    (hn : (s.lslot v.toNat c.toNat).cut = none) (hh : (s.part v.toNat).halt = false)
    (hk : s.keepsOut v.toNat w.toNat c.toNat = true) :
    exec (.cutRequest v w c) s = .next (s.requestCut v.toNat c.toNat 1) :=
  congrArg Host.Outcome.next (if_pos ⟨hw, hc, hp, ho, hs, hn, hh, hk⟩)

theorem exec_cutRequest_of_not_keepsOut (hk : ¬s.keepsOut v.toNat w.toNat c.toNat = true) :
    exec (.cutRequest v w c) s = .next s :=
  congrArg Host.Outcome.next (if_neg fun ⟨_, _, _, _, _, _, _, h⟩ => hk h)

end

/-! ### The counts reported (R331, R332) -/

/-- The count that a cut has reached once a tile reports its own: the greater of the two. -/
def cutTop (m : Option Word) (n : Word) : Word := if n < m.getD 0 then m.getD 0 else n

theorem cutTop_none (n : Word) : cutTop none n = n := if_neg (by simp)

theorem cutTop_some (m n : Word) : cutTop (some m) n = if m < n then n else m := by
  unfold cutTop
  rw [Option.getD_some]
  rcases BitVec.lt_trichotomy m n with h | rfl | h
  · rw [if_pos h, if_neg (BitVec.lt_asymm h)]
  · simp
  · rw [if_pos h, if_neg (BitVec.lt_asymm h)]

theorem exec_stepcntReport_of_parked {s : State} {t : BitVec 11} {m : Option Word} (hr : (s.tile t.toNat).run = .parked)
    (hn : (s.tile t.toNat).reported = false) (hp : (s.tile t.toNat).th.bank.pend = [])
    (hl : (s.tile t.toNat).th.bank.loads = [])
    (hc : (s.lslot (s.tile t.toNat).part.toNat (s.tile t.toNat).slot.toNat).cut = some ⟨m, false⟩) :
    let x := s.tile t.toNat
    exec (.stepcntReport t) s =
      .next (((s.modTile t.toNat fun x => { x with reported := true }).modLslot x.part.toNat x.slot.toNat fun l =>
        { l with cut := some ⟨some (cutTop m x.stepCnt), false⟩ }).releaseBelow x.part.toNat x.slot.toNat
          (cutTop m x.stepCnt)) := by
  simp only [exec, execStepcntReport, hr, hn, hp, hl, hc]
  cases m with
  | none => simp [cutTop_none]
  | some m => simp [cutTop_some]

theorem exec_cutComplete_of_cutDone {s : State} {v : BitVec 6} {k : BitVec 4}
    (hr : (s.lslot v.toNat k.toNat).st = .running) (hd : s.cutDone v.toNat k.toNat = true) :
    exec (.cutComplete v k) s =
      .next (s.modLslot v.toNat k.toNat fun l => { l with cut := l.cut.map fun c => { c with complete := true } }) :=
  congrArg Host.Outcome.next (if_pos ⟨hr, hd⟩)

/-! ### The save and the restore (R310, R336, R339, R340) -/

section
variable {s : State} {v : BitVec 6} {k : BitVec 4} {i : Nat}

theorem exec_contextSave_of_complete {m : Option Word} (hr : (s.lslot v.toNat k.toNat).st = .running)
    (hc : (s.lslot v.toNat k.toNat).cut = some ⟨m, true⟩) (hi : (s.lslot v.toNat k.toNat).save = some i)
    (hh : (s.part v.toNat).halt = false) :
    let ranks := s.ranks v.toNat k.toNat
    let saved := s.saveTiles v.toNat k.toNat i (ranks.map Prod.fst)
    exec (.contextSave v k) s =
      .next ((((ranks.map Prod.fst).foldl (fun u t => u.releaseTile t) saved.1).freeLaunch v.toNat k.toNat).modLslot
        v.toNat k.toNat fun l =>
          match saved.2 with
          | none => { l with st := .saved, ranks := ranks.map fun e => e.2.rank.toNat, cut := none, saving := [] }
          | some c => (l.killedBy c).retire .killed) := by
  dsimp only
  simp only [exec, execContextSave, hr, hc, hi, hh, Bool.false_eq_true, if_false]
  cases (s.saveTiles v.toNat k.toNat i ((s.ranks v.toNat k.toNat).map Prod.fst)).2 <;> rfl

variable (hs : (s.lslot v.toNat k.toNat).st = .saved) (hi : (s.lslot v.toNat k.toNat).save = some i)
  (hb : s.mayBind v.toNat k.toNat = true)

/-- The tiles on which a SAVED launch resumes, with the ranks that they had. -/
def State.resumed (s : State) (v k : Nat) : List (Nat × Nat) :=
  ((s.part v).setTiles (s.lslot v k).shape).zipIdx.filter fun e => (s.lslot v k).ranks.contains e.2

include hs hi hb

theorem exec_restore_of_whole (hw : (s.restoreTiles v.toNat k.toNat i (s.resumed v.toNat k.toNat)).2 = none) :
    exec (.restore v k) s =
      .next ((s.restoreTiles v.toNat k.toNat i (s.resumed v.toNat k.toNat)).1.modLslot v.toNat k.toNat fun l =>
        { l with st := .running, ranks := [] }) := by
  rw [State.resumed] at hw ⊢
  simp only [exec, execRestore, hs, hi, hb, hw, Bool.not_true, Bool.false_eq_true, if_false]

theorem exec_restore_of_failed {c : BitVec 8}
    (hf : (s.restoreTiles v.toNat k.toNat i (s.resumed v.toNat k.toNat)).2 = some c) :
    exec (.restore v k) s =
      .next ((((s.resumed v.toNat k.toNat).foldl (fun u e => u.releaseTile e.1)
        (s.restoreTiles v.toNat k.toNat i (s.resumed v.toNat k.toNat)).1).freeLaunch v.toNat k.toNat).modLslot
          v.toNat k.toNat fun l => (l.killedBy c).retire .killed) := by
  rw [State.resumed] at hf ⊢
  simp only [exec, execRestore, hs, hi, hb, hf, Bool.not_true, Bool.false_eq_true, if_false]

end

/-- Settles O34: each event in the case its conditions name. -/
theorem cutsAndSaves : Obligations.CutsAndSaves := by
  refine ⟨⟨?_, ?_, fun s v k => exec_cutComplete_of_cutDone⟩, ?_⟩
  · intro s v w c hw hc hp ho hs hn hh meets
    have hk := keepsOut_iff s v.toNat w.toNat c.toNat
    exact ⟨fun hm => exec_cutRequest_of_keepsOut hw hc hp ho hs hn hh (hk.mpr hm),
      fun hm => exec_cutRequest_of_not_keepsOut fun h => hm (hk.mp h)⟩
  · intro s t m x hr hn hp hl hc top
    exact exec_stepcntReport_of_parked hr hn hp hl hc
  · intro s v k i m l ranks saved tiles back
    exact ⟨exec_contextSave_of_complete, exec_restore_of_whole, fun c hs hi hb => exec_restore_of_failed hs hi hb⟩

end Sys2Proof.Machine
end

section
/-! The halt of a partition (R312, R326 to R329, R339): what stands in the state when its engines have stopped. -/

namespace Sys2Proof.Machine

/-! ### The halt in its steps: records, discard, end -/

/-- A partition whose records are written, before anything is discarded. -/
def State.haltWritten (s : State) (v : Nat) : State := (s.records (s.haltStops v)).haltSaves v

/-- The clusters when the arrays of a partition have given up their runs. -/
def State.haltArrays (s : State) (v : Nat) : FMap Cluster := ((s.part v).map.map BitVec.toNat).foldl stopArray s.clusters

/-- A partition whose engines hold nothing any more. -/
def State.haltCleared (s : State) (v : Nat) : State := ((s.haltWritten v).withClusters (s.haltArrays v)).discard v

/-- The last steps of a halt: the launches end, the fault vector is raised, the halt is done. -/
def State.endHalt (s : State) (v : Nat) : State :=
  ((s.killLaunches v).raise v 1).modPart v fun p => { p with haltDone := true }

/-- A partition whose halt is done. -/
def State.halted (s : State) (v : Nat) : State := (s.haltPartition v).modPart v fun p => { p with haltDone := true }

theorem halted_eq (s : State) (v : Nat) : s.halted v = (s.haltCleared v).endHalt v := by
  rw [State.halted, haltPartition_eq, State.endHalt, State.haltCleared, State.haltWritten, State.haltArrays]

theorem recordsOnly_haltWritten (s : State) (v : Nat) : RecordsOnly s (s.haltWritten v) :=
  (recordsOnly_records s _).trans (recordsOnly_haltSaves _ v)

/-! ### What the discard leaves (R327) -/

theorem RecordsOnly.hasTile {s u : State} (h : RecordsOnly s u) (v t : Nat) :
    (u.part v).hasTile t = (s.part v).hasTile t := by
  obtain ⟨a, b, c, hp⟩ := h.part v
  rw [hp]
  rfl

theorem RecordsOnly.ownsPeer {s u : State} (h : RecordsOnly s u) (v : Nat) (t : BitVec 15) :
    u.ownsPeer v t = s.ownsPeer v t := by
  obtain ⟨b, m, hm⟩ := h.modl
  simp only [State.ownsPeer, h.hasTile, hm]

theorem withClusters_ownsPeer (s : State) (k : FMap Cluster) (v : Nat) (t : BitVec 15) :
    (s.withClusters k).ownsPeer v t = s.ownsPeer v t := rfl

theorem withClusters_lslot (s : State) (k : FMap Cluster) (v j : Nat) : (s.withClusters k).lslot v j = s.lslot v j := rfl

theorem withClusters_seqCtx (s : State) (k : FMap Cluster) (q : Nat) : (s.withClusters k).seqCtx q = s.seqCtx q := rfl

/-- The state w when a partition's engines have been emptied, in terms of the state s before its halt, the state u in which
its records are written and the table k of the clusters whose arrays have stopped. -/
structure Discarded (s u : State) (k : FMap Cluster) (v : Nat) (w : State) : Prop where
  hbm : w.hbm = u.hbm
  tiles : w.tiles = u.tiles
  cluster : ∀ d ∈ (s.part v).map.map BitVec.toNat, w.cluster d = (fget Cluster.reset k d).emptied
  flows : w.flows = s.flows.filter fun f => !(s.part v).hasTile (f.1 / 2048)
  reqs : w.reqs = s.reqs.filter fun m => !(s.part v).hasTile m.origin.toNat
  notes : w.notes = s.notes.filter fun n => !(s.part v).hasTile n.owner.toNat
  ctMsgs : w.ctMsgs = s.ctMsgs.filter fun m => !s.ownsPeer v m.src && !s.ownsPeer v m.dst
  outRack : w.modl.outRack = s.modl.outRack.filter fun m => !s.ownsPeer v m.src
  held : w.modl.held = s.modl.held.filter fun m => !s.ownsPeer v m.src
  part : ∃ o i, w.part v = { u.part v with outbox := o, isr := i }
  posts : (w.seqCtx (s.part v).seqNo).th.posts = []
  slot_st : ∀ j < 16, (s.lslot v j).st ≠ .complete → (s.lslot v j).st ≠ .killed → (w.lslot v j).st = (s.lslot v j).st
  slot : (∀ q ∈ (s.seqCtx (s.part v).seqNo).th.posts, ∃ bs, q.op = .store bs) → ∀ j, w.lslot v j = s.lslot v j

theorem RecordsOnly.discarded {s u : State} (h : RecordsOnly s u) (k : FMap Cluster) (v : Nat) :
    Discarded s u k v ((u.withClusters k).discard v) := by
  obtain ⟨a, b, c, hp⟩ := h.part v
  obtain ⟨bad, msix, hm⟩ := h.modl
  have hmap : (u.part v).map = (s.part v).map := by rw [hp]
  have hseqNo : (u.part v).seqNo = (s.part v).seqNo := by
    rw [hp]
    rfl
  have hctx (q : Nat) : u.seqCtx q = s.seqCtx q := congrArg (fget Seq.reset · q) h.seqs
  obtain ⟨hhbm, htiles, -, hcl, hflows, hreqs, hnotes, hmsgs, ⟨j, hmod⟩, hpart, hposts, hst, hsl⟩ :=
    discard_spec (u.withClusters k) v
  simp only [State.withClusters_part, withClusters_ownsPeer, withClusters_lslot, withClusters_seqCtx, h.hasTile, h.ownsPeer,
    h.lslot, hmap, hseqNo, hctx] at hcl hflows hreqs hnotes hmsgs hmod hpart hposts hst hsl
  have hmodl : (u.withClusters k).modl = { s.modl with bad := bad, msix := msix } := hm
  rw [hmodl] at hmod
  exact {
    hbm := hhbm
    tiles := htiles
    cluster := fun d hd => (hcl d).trans (if_pos hd)
    flows := by rw [hflows, ← h.flows]; rfl
    reqs := by rw [hreqs, ← h.reqs]; rfl
    notes := by rw [hnotes, ← h.notes]; rfl
    ctMsgs := by rw [hmsgs, ← h.ctMsgs]; rfl
    outRack := by rw [hmod]; rfl
    held := by rw [hmod]; rfl
    part := hpart v
    posts := hposts
    slot_st := hst
    slot := hsl }

theorem haltCleared_spec (s : State) (v : Nat) :
    Discarded s (s.haltWritten v) (s.haltArrays v) v (s.haltCleared v) :=
  (recordsOnly_haltWritten s v).discarded (s.haltArrays v) v


/-! ### The end of the launches (R312, R327) -/

section
variable (s : State) (v : Nat)

theorem killLaunches_fields : let u := s.killLaunches v
    u.hbm = s.hbm ∧ u.clusters = s.clusters ∧ u.flows = s.flows ∧ u.reqs = s.reqs ∧ u.notes = s.notes ∧
      u.ctMsgs = s.ctMsgs ∧ u.modl = s.modl ∧ u.parts = s.parts := by
  obtain ⟨⟨T, S, h⟩, -⟩ := killLaunches_spec s v
  rw [h]
  exact ⟨rfl, rfl, rfl, rfl, rfl, rfl, rfl, rfl⟩

/-- Beside tiles, launches, registers and interrupts everything stands as it did. -/
theorem endHalt_fields : let u := s.endHalt v
    u.hbm = s.hbm ∧ u.clusters = s.clusters ∧ u.flows = s.flows ∧ u.reqs = s.reqs ∧ u.notes = s.notes ∧
      u.ctMsgs = s.ctMsgs ∧ u.modl.outRack = s.modl.outRack ∧ u.modl.held = s.modl.held := by
  obtain ⟨hhbm, hcl, hflows, hreqs, hnotes, hmsgs, hmodl, -⟩ := killLaunches_fields s v
  have hr := contextOnly_raise (s.killLaunches v) v 1
  obtain ⟨m, hm⟩ := hr.modl
  refine ⟨hr.hbm.trans hhbm, hr.clusters.trans hcl, hr.flows.trans hflows, hr.reqs.trans hreqs, hr.notes.trans hnotes,
    hr.ctMsgs.trans hmsgs, ?_, ?_⟩
  all_goals rw [State.endHalt, State.modPart_modl, hm, ← hmodl]

theorem endHalt_tile (t : Nat) : (s.endHalt v).tile t = (s.killLaunches v).tile t :=
  congrArg (fget Tile.reset · t) (contextOnly_raise (s.killLaunches v) v 1).tiles

theorem endHalt_seqCtx (q : Nat) : (s.endHalt v).seqCtx q = (s.killLaunches v).seqCtx q :=
  congrArg (fget Seq.reset · q) (recordsOnly_raise (s.killLaunches v) v 1).seqs

theorem endHalt_part : ∃ i o, (s.endHalt v).part v = { s.part v with isr := i, outbox := o, haltDone := true } := by
  obtain ⟨-, -, -, -, -, -, -, hparts⟩ := killLaunches_fields s v
  obtain ⟨o, i, hp⟩ := (contextOnly_raise (s.killLaunches v) v 1).part v
  refine ⟨i, o, ?_⟩
  rw [State.endHalt, State.part_modPart_self, hp, State.part, hparts, State.part]

theorem endHalt_isr : ((s.endHalt v).part v).isr.getLsbD 1 = true := by
  rw [State.endHalt, State.part_modPart_self]
  exact raise_isr (s.killLaunches v) v

theorem lslot_congr {s u : State} {v : Nat} (k : Nat) (hs : u.seqCtx (s.part v).seqNo = s.seqCtx (s.part v).seqNo)
    (hq : (u.part v).seqNo = (s.part v).seqNo) : u.lslot v k = s.lslot v k := by
  rw [State.lslot, hq, hs, State.lslot]

theorem endHalt_lslot {k : Nat} (hk : k < 16) : (s.endHalt v).lslot v k =
    if (s.lslot v k).st = .running then (s.lslot v k).retire .killed else s.lslot v k := by
  obtain ⟨-, -, -, -, hl⟩ := killLaunches_spec s v
  obtain ⟨-, -, -, -, -, -, -, hparts⟩ := killLaunches_fields s v
  obtain ⟨i, o, hp⟩ := endHalt_part s v
  rw [← hl k hk]
  refine lslot_congr k (endHalt_seqCtx s v _) ?_
  rw [hp, State.part, State.part, hparts]
  rfl

end

/-! ### What the halted partition holds (R327) -/

section
variable (s : State) (v : Nat)

/-- The registers of the halted partition are those of the records, but for what done records, interrupts and the halt itself
change. -/
theorem halted_part : ∃ i o, (s.halted v).part v =
    { (s.haltWritten v).part v with isr := i, outbox := o, haltDone := true } := by
  obtain ⟨o, i, hc⟩ := (haltCleared_spec s v).part
  obtain ⟨i', o', he⟩ := endHalt_part (s.haltCleared v) v
  exact ⟨i', o', by rw [halted_eq, he, hc]⟩

theorem halted_isr : ((s.halted v).part v).isr.getLsbD 1 = true := by
  rw [halted_eq]
  exact endHalt_isr (s.haltCleared v) v

/-- The tiles that the end of the launches frees are those bound before the halt. -/
theorem mem_partTiles_haltCleared (t : Nat) :
    (∃ e ∈ (s.haltCleared v).partTiles v, e.1 = t) ↔ ∃ e ∈ s.partTiles v, e.1 = t := by
  have h : (s.haltCleared v).partTiles v = (s.haltWritten v).partTiles v := by
    rw [State.partTiles, (haltCleared_spec s v).tiles, State.partTiles]
  rw [h]
  exact mem_partTiles_iff s _ (recordsOnly_haltWritten s v) v t

theorem exists_mem_partTiles {s : State} {v t : Nat} (hr : (s.tile t).run ≠ .free) (hp : (s.tile t).part.toNat = v) :
    ∃ e ∈ s.partTiles v, e.1 = t := by
  rcases fget_mem Tile.reset s.tiles t with h | h
  · exact absurd (congrArg Tile.run h) hr
  · exact ⟨_, List.mem_filter.mpr ⟨h, Bool.and_eq_true_iff.mpr ⟨bne_iff_ne.mpr hr, beq_iff_eq.mpr hp⟩⟩, rfl⟩

/-- A tile bound to the partition is freed with everything it had under way. -/
theorem halted_tile_of_bound {t : Nat} (hr : (s.tile t).run ≠ .free) (hp : (s.tile t).part.toNat = v) :
    ∃ x, (s.halted v).tile t = Tile.release x := by
  obtain ⟨-, hfree, -⟩ := killLaunches_spec (s.haltCleared v) v
  rw [halted_eq, endHalt_tile]
  exact hfree t ((mem_partTiles_haltCleared s v t).mpr (exists_mem_partTiles hr hp))

/-- A tile of another partition goes on: it can only lose lines of its data cache. -/
theorem halted_tile_of_other {t : Nat} (h : ∀ e ∈ s.tiles, e.1 = t → e.2.part.toNat ≠ v) :
    ∃ d, (s.halted v).tile t = { s.tile t with dcache := d } := by
  obtain ⟨-, -, hstay, -⟩ := killLaunches_spec (s.haltCleared v) v
  have hno : ¬∃ e ∈ s.partTiles v, e.1 = t := by
    rintro ⟨e, he, ht⟩
    obtain ⟨hm, hb⟩ := List.mem_filter.mp he
    exact h e hm ht (beq_iff_eq.mp (Bool.and_eq_true_iff.mp hb).2)
  have hsame := hstay t fun e he ht => hno ((mem_partTiles_haltCleared s v t).mp ⟨e, he, ht⟩)
  rw [halted_eq, endHalt_tile, hsame, State.tile, (haltCleared_spec s v).tiles]
  exact (recordsOnly_haltWritten s v).tile t

theorem halted_cluster {d : Nat} (hd : d ∈ (s.part v).map.map BitVec.toNat) :
    (s.halted v).cluster d = (fget Cluster.reset (s.haltArrays v) d).emptied := by
  obtain ⟨-, hcl, -⟩ := endHalt_fields (s.haltCleared v) v
  rw [halted_eq, State.cluster, hcl]
  exact (haltCleared_spec s v).cluster d hd

/-- The array of a cluster of the partition is free; one in a run keeps only who held it last. -/
theorem haltArrays_arr {d : Nat} (hd : d ∈ (s.part v).map.map BitVec.toNat) :
    (fget Cluster.reset (s.haltArrays v) d).arr.holder = none ∧ ∀ h, (s.cluster d).arr.holder = some h →
      (fget Cluster.reset (s.haltArrays v) d).arr = { MatArray.reset with last := h } := by
  have hnone : (fget Cluster.reset (s.haltArrays v) d).arr.holder = none := foldl_stopArray_holder _ _ d (.inr hd)
  refine ⟨hnone, fun h hh => ?_⟩
  rcases (ArraysStopped.refl s).foldl ((s.part v).map.map BitVec.toNat) d with hk | ⟨j, hj, hk⟩
  · rw [State.haltArrays, hk, hh] at hnone
    cases hnone
  · obtain rfl : h = j := Option.some.inj (hh.symm.trans hj)
    exact congrArg Cluster.arr hk

/-- QUEUED and SAVED launches stay. -/
theorem halted_lslot_of_waiting {k : Nat} (hk : k < 16) (h : (s.lslot v k).st = .queued ∨ (s.lslot v k).st = .saved) :
    ((s.halted v).lslot v k).st = (s.lslot v k).st := by
  obtain ⟨hcomplete, hkilled, hrunning⟩ :
      (s.lslot v k).st ≠ .complete ∧ (s.lslot v k).st ≠ .killed ∧ (s.lslot v k).st ≠ .running := by
    rcases h with h | h <;> simp [h]
  have hst := (haltCleared_spec s v).slot_st k hk hcomplete hkilled
  rw [halted_eq, endHalt_lslot _ v hk, if_neg (by rw [hst]; exact hrunning), hst]

/-- A RUNNING launch ends KILLED with the cause that it has, where no posted atomic of the context is discarded. -/
theorem halted_lslot_of_running {k : Nat} (hk : k < 16) (h : (s.lslot v k).st = .running)
    (hl : (s.lslot v k).left = false) (hp : ∀ q ∈ (s.seqCtx (s.part v).seqNo).th.posts, ∃ bs, q.op = .store bs) :
    ((s.halted v).lslot v k).st = .killed ∧ ((s.halted v).lslot v k).cause = (s.lslot v k).cause := by
  rw [halted_eq, endHalt_lslot _ v hk, (haltCleared_spec s v).slot hp, if_pos h, LSlot.retire, hl]
  exact ⟨rfl, rfl⟩

theorem halted_posts : ((s.halted v).seqCtx (s.part v).seqNo).th.posts = [] := by
  obtain ⟨-, -, -, hth, -⟩ := killLaunches_spec (s.haltCleared v) v
  rw [halted_eq, endHalt_seqCtx, hth]
  exact (haltCleared_spec s v).posts

/-- HBM and the fault queue's counters are those that the records have left. -/
theorem halted_queue : (s.halted v).hbm = (s.haltWritten v).hbm ∧
    ((s.halted v).part v).fqProd = ((s.haltWritten v).part v).fqProd ∧
    ((s.halted v).part v).fqDrop = ((s.haltWritten v).part v).fqDrop := by
  obtain ⟨hhbm, -⟩ := endHalt_fields (s.haltCleared v) v
  obtain ⟨i, o, hp⟩ := halted_part s v
  exact ⟨by rw [halted_eq, hhbm, (haltCleared_spec s v).hbm], by rw [hp], by rw [hp]⟩

/-- What was on its way for the partition is gone, its packets to other modules among it. -/
theorem halted_gone : let w := s.halted v
    (∀ f ∈ w.flows, (s.part v).hasTile (f.1 / 2048) = false) ∧
      (∀ m ∈ w.reqs, (s.part v).hasTile m.origin.toNat = false) ∧
      (∀ m ∈ w.notes, (s.part v).hasTile m.owner.toNat = false) ∧
      (∀ m ∈ w.ctMsgs, s.ownsPeer v m.src = false ∧ s.ownsPeer v m.dst = false) ∧
      ∀ m ∈ w.modl.outRack ++ w.modl.held, s.ownsPeer v m.src = false := by
  have hc := haltCleared_spec s v
  obtain ⟨-, -, hflows, hreqs, hnotes, hmsgs, hout, hheld⟩ := endHalt_fields (s.haltCleared v) v
  dsimp only
  rw [halted_eq, hflows, hreqs, hnotes, hmsgs, hout, hheld, hc.flows, hc.reqs, hc.notes, hc.ctMsgs, hc.outRack, hc.held,
    ← List.filter_append]
  simp only [List.mem_filter, Bool.not_eq_true', Bool.and_eq_true]
  exact ⟨fun _ h => h.2, fun _ h => h.2, fun _ h => h.2, fun _ h => h.2, fun _ h => h.2⟩

end

/-! ### Which records are written (R327, R328) -/

section
variable (s : State) (v : Nat) (r : Nat × List Word)

theorem mem_tileStops : r ∈ s.tileStops v ↔ ∃ e ∈ s.partTiles v, e.2.run ≠ .stopped ∧ r = s.tileStop e.1 := by
  simp only [State.tileStops, List.mem_flatMap]
  refine exists_congr fun e => and_congr_right fun _ => ?_
  by_cases h : e.2.run = .stopped <;> simp [h]

theorem mem_arrayStops (c : Nat) : r ∈ s.arrayStops s.clusters v c ↔ ∃ h, (s.cluster c).arr.holder = some h ∧
    r ∈ s.engineStop v (s.tile (4 * c + h.toNat)).slot.toNat 2 c 0 := by
  unfold State.arrayStops
  rw [← State.cluster]
  cases (s.cluster c).arr.holder <;> simp

theorem mem_channelStops (c : Nat) : r ∈ s.channelStops v c ↔ ∃ i < 4, ∃ id o, vget (s.cluster c).chans i = some id ∧
    s.op? c id = some o ∧ r ∈ s.engineStop v (s.tile o.tile.toNat).slot.toNat 3 c i := by
  rw [State.channelStops, List.mem_flatMap]
  refine exists_congr fun i => and_congr (by simp; omega) ?_
  cases hi : vget (s.cluster c).chans i with
  | none => simp
  | some id => cases ho : s.op? c id <;> simp [ho]

theorem mem_portStops (c : Nat) : r ∈ s.portStops v c ↔ ∃ k ∈ s.portLaunches c, r ∈ s.engineStop v k 4 c 0 := by
  rw [State.portStops, List.mem_flatMap]

/-- The records of a halt: of each bound tile that no kill has stopped, and in each cluster of its array, its channels and
its port. -/
theorem mem_haltStops : r ∈ s.haltStops v ↔ (∃ e ∈ s.partTiles v, e.2.run ≠ .stopped ∧ r = s.tileStop e.1) ∨
    (∃ c ∈ (s.part v).map, r ∈ s.arrayStops s.clusters v c.toNat) ∨
      (∃ c ∈ (s.part v).map, r ∈ s.channelStops v c.toNat) ∨ ∃ c ∈ (s.part v).map, r ∈ s.portStops v c.toNat := by
  rw [State.haltStops, List.mem_append, mem_tileStops, mem_clusterStops]
  simp only [List.mem_map, exists_exists_and_eq_and, and_or_left, exists_or]

end

/-! ### The events (R327) -/

theorem exec_partitionHalt {s : State} {v : BitVec 6} (h : (s.part v.toNat).halt = true)
    (hd : (s.part v.toNat).haltDone = false) : exec (.partitionHalt v) s = .next (s.halted v.toNat) :=
  congrArg Host.Outcome.next (if_pos ⟨h, by rw [hd]; rfl⟩)

theorem exec_haltLineFall {s : State} {v : BitVec 6} (hd : (s.part v.toNat).haltDone = true) :
    exec (.haltLineFall v) s = .next (s.modPart v.toNat fun p => { p with halt := false, haltDone := false }) :=
  congrArg Host.Outcome.next (if_pos hd)

/-- Settles O35: tiles, clusters, traffic, launches and records of the halted partition, each by its lemma. -/
theorem partitionHalts : Obligations.PartitionHalts := by
  intro s v n p w
  refine ⟨fun hh hd => ⟨exec_partitionHalt hh hd, halted_isr s n, ?_, ?_, ?_, ?_, ?_, s.haltStops n, ?_⟩,
    exec_haltLineFall⟩
  · intro t hr hp
    obtain ⟨x, hx⟩ := halted_tile_of_bound s n hr (congrArg BitVec.toNat hp)
    rw [show w.tile t = _ from hx]
    exact ⟨rfl, rfl, rfl, rfl, rfl, rfl, rfl⟩
  · intro t ht
    obtain ⟨d, hx⟩ := halted_tile_of_other s n fun e he h h' => ht e he h (BitVec.eq_of_toNat_eq h')
    rw [show w.tile t = _ from hx]
    exact ⟨rfl, rfl⟩
  · intro c hc k
    have hm : c.toNat ∈ p.map.map BitVec.toNat := List.mem_map_of_mem hc
    obtain ⟨hnone, harr⟩ := haltArrays_arr s n hm
    rw [show k = _ from halted_cluster s n hm]
    exact ⟨rfl, rfl, fun i hi => vget_replicate none hi, rfl, rfl, hnone, harr⟩
  · obtain ⟨hflows, hreqs, hnotes, hmsgs, hout⟩ := halted_gone s n
    exact ⟨hflows, hreqs, hnotes, hmsgs, hout, halted_posts s n⟩
  · exact fun k hk => ⟨halted_lslot_of_waiting s n hk, halted_lslot_of_running s n hk⟩
  · intro u
    have hu : u = s.haltWritten n := congrArg (State.haltSaves · n) (records_foldl s (s.haltStops n))
    rw [hu]
    refine ⟨halted_queue s n, fun r => ?_⟩
    simp only [mem_haltStops, mem_arrayStops, mem_channelStops, mem_portStops, mem_engineStop]
    rfl

end Sys2Proof.Machine
end

section
/-! The events of collectives (R316, R353, R361 to R366, R370): arrivals, the final result, the commit, ends and aborts. -/

namespace Sys2Proof.Machine

theorem CtEntry.runs_active {x : CtEntry} (h : x.runs = true) : x.st = .active := by
  simp only [CtEntry.runs, Bool.and_eq_true, beq_iff_eq] at h
  exact h.1.1

@[simp] theorem State.ct_modCt_self (s : State) (c e : Nat) (f : CtEntry → CtEntry) :
    (s.modCt c e f).ct c e = f (s.ct c e) := by
  simp [State.ct, State.modCt]

/-! ### Arrivals (R347, R348, R365, R366) -/

section
variable {s u keep : State} {src : CtSource} {m : CtMsg} (ht : s.ctTake src = some (m, u, keep))

/-- A data packet of the generation that runs is applied. -/
theorem ctArrive_of_current (hr : (u.ct (msgCluster m) m.dstEntry.toNat).runs = true)
    (hp : ((u.ct (msgCluster m) m.dstEntry.toNat).peers.any fun p => p.1 == m.src) = true)
    (hg : m.gen = (u.ct (msgCluster m) m.dstEntry.toNat).gen) :
    u.ctArrive keep m = u.ctApply (msgCluster m) m.dstEntry.toNat m := by
  have hst := CtEntry.runs_active hr
  simp only [State.ctArrive, hst, hp, hg, hr]
  simp

include ht

/-- A data packet reaches its port's decision, or is still to be presented where the port refuses it whatever it holds. -/
theorem exec_ctPacketArrival_of_data (hk : (∃ k bs, m.kind = .partial_ k bs) ∨ ∃ k bs, m.kind = .final k bs) :
    exec (.ctPacketArrival src) s = .next (if s.ctRefusedHere src m then keep else u.ctArrive keep m) := by
  rcases hk with ⟨k, bs, hk⟩ | ⟨k, bs, hk⟩
  · simp only [exec, execCtPacketArrival, ht, hk]
  · simp only [exec, execCtPacketArrival, ht, hk]

theorem exec_abortNotice_of_current (ha : s.ctRefusedHere src m = false)
    (hr : (u.ct (msgCluster m) m.dstEntry.toNat).runs = true)
    (hp : ((u.ct (msgCluster m) m.dstEntry.toNat).peers.any fun p => p.1 == m.src) = true)
    (hg : m.gen = (u.ct (msgCluster m) m.dstEntry.toNat).gen) (hk : m.kind = .abort) :
    exec (.abortNotice src) s = .next (u.ctAbort (msgCluster m) m.dstEntry.toNat 5 false true) := by
  have hst := CtEntry.runs_active hr
  simp [exec, execAbortNotice, ht, hk, ha, hst, hp, hg]

theorem exec_abortNotice_of_refused (ha : s.ctRefusedHere src m = true) (hk : m.kind = .abort) :
    exec (.abortNotice src) s = .next keep := by
  simp only [exec, execAbortNotice, ht, hk, ha, if_true]

end

/-! ### The final result and the commit (R361, R362, R370) -/

section
variable {s : State} {c e : Nat}

/-- From the commit point on no granule of the final result enters STAGE any more. -/
theorem ctStageAll_of_committed (hc : (s.ct c e).committed = true) : s.ctStageAll c e = s :=
  foldl_eq_of_fixed fun g _ => by simp [State.ctStageGran, hc]

theorem ctStageGran_of_ready {n : Nat} {v : Granule} {w : State} (hr : (s.ct c e).runs = true)
    (hx : (s.ct c e).proxy = none) (hc : (s.ct c e).committed = false) (hn : 64 * n < (s.ct c e).len)
    (hs : (s.ct c e).staged.contains n = false) (hq : s.ctQuiet c e = true) (hv : (s.ct c e).finalGran n = some v)
    (hw : s.writeAt (s.ct c e).op (ctTile c e) ((s.ct c e).stage + 64 * n) (granBytes v) = .ok w) :
    s.ctStageGran c e n = (w.modCt c e fun x => { x with staged := n :: x.staged }).ctCommit c e := by
  have hlen : ¬(s.ct c e).len ≤ 64 * n := by omega
  simp only [State.ctStageGran, hr, hx, hc, hs, hq, hv, hw, hlen]
  rfl

theorem CtEntry.finalGran_eq (x : CtEntry) (n : Nat) : x.finalGran n =
    if x.peers.length = x.pos + 1 then (x.sumChunk (n / 4)).map fun b => granOf ((b.drop (64 * (n % 4))).take 64)
    else ffind x.stageIn n := by
  simp only [CtEntry.finalGran, CtEntry.root, beq_iff_eq]

theorem ctCommit_of_staged {l : List Byte} (hr : (s.ct c e).runs = true) (hc : (s.ct c e).committed = false)
    (hs : ∀ n < (s.ct c e).len / 64, (s.ct c e).staged.contains n = true)
    (hl : s.readSpan (ctTile c e) (granCuts (s.ct c e).stage (s.ct c e).len) = .ok l) :
    let x := s.ct c e
    let w := (s.modOp c x.op fun o => { o with
      done := []
      buf := (List.range (x.len / 64)).map fun n => (n, granOf ((l.drop (64 * n)).take 64)) }).modCt c e fun x =>
        { x with committed := true }
    s.ctCommit c e = if x.peers.length = x.pos + 1 then w.ctMulticast c e else w := by
  have hall : ((List.range ((s.ct c e).len / 64)).all fun g => (s.ct c e).staged.contains g) = true :=
    List.all_eq_true.mpr fun n hn => hs n (List.mem_range.mp hn)
  simp only [State.ctCommit, hr, hc, hall, hl, CtEntry.root, beq_iff_eq]
  rfl

/-- A root that holds every sum can form every chunk of the final result. -/
theorem CtEntry.sums_length {x : CtEntry} (h : ∀ k < x.chunks, (x.sumChunk k).isSome = true) : x.sums.length = x.chunks := by
  rw [CtEntry.sums, List.filterMap_length_eq_length.mpr, List.length_range]
  simpa using h

end

section
variable {s : State} {c e : BitVec 9}

theorem exec_rootFinalResult_of_sums (hroot : (s.ct c.toNat e.toNat).peers.length = (s.ct c.toNat e.toNat).pos + 1)
    (hs : ∀ k < (s.ct c.toNat e.toNat).chunks, ((s.ct c.toNat e.toNat).sumChunk k).isSome = true) :
    exec (.rootFinalResult c e) s = .next (if (s.ct c.toNat e.toNat).proxy = none then s.ctStageAll c.toNat e.toNat
      else (s.ctMulticast c.toNat e.toNat).modCt c.toNat e.toNat CtEntry.ended) := by
  simp only [exec, execRootFinalResult, CtEntry.root, hroot, CtEntry.sums_length hs]
  cases (s.ct c.toNat e.toNat).proxy <;> simp

theorem exec_commitPoint_of_committed (hr : (s.ct c.toNat e.toNat).runs = true)
    (hc : (s.ct c.toNat e.toNat).committed = true) : exec (.commitPoint c e) s =
      .next (((List.range ((s.ct c.toNat e.toNat).len / 64)).foldl (fun u g => u.ctWriteGran c.toNat e.toNat g) s).ctEnd
        c.toNat e.toNat false 0 true) := by
  simp only [exec, execCommitPoint, ctStageAll_of_committed hc, hr, hc]
  rfl

/-! ### Timeouts and responses (R353, R365, R366) -/

theorem exec_ctTimeout_of_due (h0 : (s.ct c.toNat e.toNat).timeout ≠ 0)
    (hd : (s.ct c.toNat e.toNat).start + 1050 * (s.ct c.toNat e.toNat).timeout ≤ s.cycle) :
    exec (.ctTimeout c e) s = .next (s.ctAbort c.toNat e.toNat 6 true true) :=
  congrArg Host.Outcome.next (if_pos ⟨h0, hd⟩)

theorem exec_genRefusedResponse_of_current {g : BitVec 16} (h : (s.ct c.toNat e.toNat).gen = g) :
    exec (.genRefusedResponse c e g) s = .next (s.ctAbort c.toNat e.toNat 9 true true) :=
  congrArg Host.Outcome.next (if_pos ⟨h, rfl⟩)

/-- The packets of an entry's generation that wait for an answer. -/
def State.awaiting (s : State) (c e : Nat) (g : BitVec 16) : List Nat :=
  (List.range s.modl.outRack.length).filter (s.awaitsAnswer c e g)

/-- A packet that waits for an answer has been sent, and by that entry. -/
theorem sent_of_awaitsAnswer {c e : Nat} {g : BitVec 16} {k : Nat} (h : s.awaitsAnswer c e g k = true) :
    ∃ q, s.modl.outRack[k]? = some q ∧ q.src.toNat % 2048 / 4 = c ∧ q.srcEntry.toNat = e := by
  unfold State.awaitsAnswer at h
  split at h
  · cases h
  · simp only [Bool.and_eq_true, beq_iff_eq] at h
    obtain ⟨⟨⟨hc, he⟩, -⟩, -⟩ := h
    exact ⟨_, by assumption, hc, he⟩

theorem mem_awaiting {c e : Nat} {g : BitVec 16} {k : Nat} : k ∈ s.awaiting c e g ↔ s.awaitsAnswer c e g k = true := by
  rw [State.awaiting, List.mem_filter, List.mem_range, and_iff_right_iff_imp]
  intro h
  obtain ⟨q, hq, -⟩ := sent_of_awaitsAnswer h
  exact (List.getElem?_eq_some_iff.mp hq).1

theorem peerLost_dropSent {c e k : Nat} {q : CtMsg} (hc : q.src.toNat % 2048 / 4 = c) (he : q.srcEntry.toNat = e) :
    (s.modMod fun y => y.dropSent k).peerLost q = if q.inst = some (s.ct c e).op then
      (s.modMod fun y => y.dropSent k).ctAbort c e 4 true true else s.modMod fun y => y.dropSent k := by
  subst hc he
  rfl

/-- Of the packets that wait one is answered, and aborts the round that sent it, while that round is still the one of its entry. -/
theorem exec_peerLostResponse_of_awaiting {g : BitVec 16} {k : Nat} (h : s.awaitsAnswer c.toNat e.toNat g k = true) :
    ∃ j q, s.awaitsAnswer c.toNat e.toNat g j = true ∧ s.modl.outRack[j]? = some q ∧
      exec (.peerLostResponse c e g) s = .next (if q.inst = some (s.ct c.toNat e.toNat).op then
          (s.modMod fun y => y.dropSent j).ctAbort c.toNat e.toNat 4 true true
        else s.modMod fun y => y.dropSent j) := by
  have hpos : 0 < (s.awaiting c.toNat e.toNat g).length := List.length_pos_of_mem (mem_awaiting.mpr h)
  have hlt := Nat.mod_lt (Config.lostAnswer s.turnNo) hpos
  obtain ⟨j, hj⟩ : ∃ j, (s.awaiting c.toNat e.toNat g)[Config.lostAnswer s.turnNo %
    (s.awaiting c.toNat e.toNat g).length]? = some j := ⟨_, List.getElem?_eq_getElem hlt⟩
  have hja := mem_awaiting.mp (List.mem_of_getElem? hj)
  obtain ⟨q, hq, hqc, hqe⟩ := sent_of_awaitsAnswer hja
  refine ⟨j, q, hja, hq, ?_⟩
  rw [← peerLost_dropSent hqc hqe]
  rw [State.awaiting] at hj
  simp only [exec, execPeerLostResponse, hj, hq]

theorem exec_peerLostResponse_of_none {g : BitVec 16} (h : ∀ j, s.awaitsAnswer c.toNat e.toNat g j = false) :
    exec (.peerLostResponse c e g) s = .next s := by
  have hnil : (List.range s.modl.outRack.length).filter (s.awaitsAnswer c.toNat e.toNat g) = [] := by
    simp [h]
  simp only [exec, execPeerLostResponse, hnil]
  rfl

end

/-! ### Ranks that have ended (R316) -/

/-- A rank that has ended forwards nothing when it joins: no sum has come to it, and it is not the first of its ring. -/
theorem ctForward_of_no_parts {s : State} {c e : Nat} (hp : (s.ct c e).parts = []) (h0 : (s.ct c e).pos ≠ 0) :
    s.ctForward c e = s := by
  have hsum (k : Nat) : (s.ct c e).sumChunk k = none := by
    unfold CtEntry.sumChunk
    cases (s.ct c e).contrib with
    | none => rfl
    | some own => simp [h0, hp, ffind]
  simp [State.ctForward, hsum]

theorem ct_ctEndedRank {s : State} {c e p : Nat} {q : BitVec 15 × BitVec 9} (hq : (s.ct c e).peers[p]? = some q)
    (h0 : p ≠ 0) (hj : s.ctMayJoin c e (q.1.toNat % 2048) q.2.toNat = true)
    (ha : (s.ct (q.1.toNat % 2048 / 4) q.2.toNat).pendAbort = false) :
    (s.ctEndedRank c e p).ct (q.1.toNat % 2048 / 4) q.2.toNat =
      (s.ct c e).proxyAt p s.nextId s.choice ((s.tile (ctTile c e)).part, (s.tile (ctTile c e)).slot) := by
  simp only [State.ctEndedRank, hq, hj, ha, Bool.not_true, Bool.false_eq_true, if_false]
  rw [ctForward_of_no_parts (by rw [State.ct_modCt_self]; rfl) (by rw [State.ct_modCt_self]; exact h0),
    State.ct_modCt_self]
  rfl

/-- Settles O36: each event in the case its conditions name. -/
theorem collectiveEvents : Obligations.CollectiveEvents := by
  intro s u keep src m c e g k bs x y
  refine ⟨fun ht ha hr hp hg => ⟨fun hk => ?_, fun hk => ?_, exec_abortNotice_of_current ht ha hr hp hg⟩,
    fun ht ha => ⟨fun hk => ?_, exec_abortNotice_of_refused ht ha⟩, exec_commitPoint_of_committed, exec_ctTimeout_of_due,
    exec_peerLostResponse_of_awaiting, exec_peerLostResponse_of_none, exec_genRefusedResponse_of_current,
    exec_rootFinalResult_of_sums, ?_, ?_, fun l => ctCommit_of_staged⟩
  · rw [exec_ctPacketArrival_of_data ht (.inl ⟨k, bs, hk⟩), if_neg (by simp [ha]), ctArrive_of_current hr hp hg,
      State.ctApply, hk]
  · rw [exec_ctPacketArrival_of_data ht (.inr ⟨k, bs, hk⟩), if_neg (by simp [ha]), ctArrive_of_current hr hp hg,
      State.ctApply, hk]
  · rw [exec_ctPacketArrival_of_data ht (hk.imp (fun h => ⟨k, bs, h⟩) fun h => ⟨k, bs, h⟩), if_pos ha]
  · intro p q hq h0 t y owner
    exact ct_ctEndedRank hq h0
  · intro n v w hr hx hc hn hs hqt hv
    exact ctStageGran_of_ready hr hx hc hn hs hqt ((x.finalGran_eq n).trans hv)

end Sys2Proof.Machine
end

section
/-! What a step can answer: every instruction a next state, so a step faults only of a module that Lovage has stopped (R396,
R397). -/

namespace Sys2Proof.Machine

/-- A dictionary slot runs as the wide instruction that it expands to, or is refused (R77, R172). -/
theorem exec_dictionarySlot_next (e : BitVec 11) (h i j : BitVec 6) (s : State) :
    ∃ t, exec (.dictionarySlot e h i j) s = .next t := by
  have hw (k : Instr) : ∃ t, execWide k s = .next t := by cases k <;> exact ⟨_, rfl⟩
  rw [exec_dictionarySlot, execDictionarySlot]
  cases s.iss.phase with
  | alone | check | commit =>
    dsimp only
    split
    · exact hw _
    · exact ⟨_, rfl⟩

theorem exec_unassignedOpcode_next (w : BitVec 32) (s : State) : ∃ t, exec (.unassignedOpcode w) s = .next t := by
  show ∃ t, execUnassignedOpcode w s = .next t
  unfold execUnassignedOpcode
  split <;> exact ⟨_, rfl⟩

/-- Every other row is a next state as it is written. -/
theorem exec_next (i : Instr) (s : State) : ∃ t, exec i s = .next t := by
  cases i with
  | dictionarySlot e h i j => exact exec_dictionarySlot_next e h i j s
  | unassignedOpcode w => exact exec_unassignedOpcode_next w s
  | _ => exact ⟨_, rfl⟩

section
variable {s : State}

theorem turn_event {i : Instr} (h : Instr.isEvent i = true) : s.turn (.event i) = exec i s := if_pos h

theorem turn_next (t : Turn) : ∃ u, s.turn t = .next u := by
  cases t with
  | agent a => cases a <;> exact ⟨_, rfl⟩
  | event i =>
    cases h : Instr.isEvent i with
    | true => exact turn_event h ▸ exec_next i s
    | false => exact ⟨s, if_neg (Bool.eq_false_iff.mp h)⟩
  | _ => exact ⟨_, rfl⟩

theorem step_of_stopped (h : s.modl.stopped = true) (hw : Turn.wakes s.nextTurn.1 = false) :
    step s = .fault .moduleStopped := by
  rw [step, h, hw]
  rfl

theorem step_of_acting (h : ¬(s.modl.stopped = true ∧ Turn.wakes s.nextTurn.1 = false)) :
    step s = s.nextTurn.2.turn s.nextTurn.1 :=
  if_neg (by simpa using h)

theorem nextTurn_of_turns {t : Turn} {r : List Turn} (h : s.turns = t :: r) :
    s.nextTurn = (t, { s with turns := r, turnNo := s.turnNo + 1 }) := by
  simp only [State.nextTurn, h]

end

/-- Settles O44: a step is the turn that comes next, and every turn answers a next state. -/
theorem stepsAndEvents : Obligations.StepsAndEvents := by
  refine ⟨exec_next, fun s => ⟨fun hf => ?_, fun ⟨hs, hw⟩ => step_of_stopped hs hw⟩, fun s hs => ?_,
    fun s i r ht hi hs => ?_⟩
  · by_contra h
    obtain ⟨u, hu⟩ := turn_next (s := s.nextTurn.2) s.nextTurn.1
    rw [step_of_acting h, hu] at hf
    cases hf
  · rw [step_of_acting (by simp [hs])]
    exact turn_next _
  · rw [step_of_acting (by simp [hs]), nextTurn_of_turns ht, turn_event hi]

end Sys2Proof.Machine
end

section
/-! The collective slots (R357 to R361, R367, R368): each by the parts of its check, in their order. -/

namespace Sys2Proof.Machine

open Sys2Proof.Claims

section
variable {s : State} {v : Word}

theorem handleCheck_of_stale (hm : s.cur.handleMatch v ≠ .slot) : s.handleCheck v = s.faultAt cSTALE_HANDLE v := by
  unfold State.handleCheck
  split
  · exact absurd ‹_› hm
  · rfl

theorem ctCheck_go (h : (s.ctOf v).st ≠ .free) : s.ctCheck v = .go := checkThat_true _ (bne_iff_ne.mpr h)

theorem ctCheck_of_free (h : (s.ctOf v).st = .free) : s.ctCheck v = s.faultAt cLAUNCH_SHAPE v :=
  checkThat_false _ (bne_eq_false_iff_eq.mpr h)

theorem ctIdle_go (h : (s.ctOf v).st ≠ .active) : s.ctIdle v = .go := if_neg h

theorem ctIdle_of_active (h : (s.ctOf v).st = .active) : s.ctIdle v = .wait none := if_pos h

theorem andThen_faultAt {a b : Verdict} {c : BitVec 8} {x : Word} (ha : a = s.faultAt c x) : a.andThen b = s.faultAt c x := by
  rw [ha]
  rfl

/-- The checks of CTSET, passed in the order of R359. -/
theorem ctsetCheck_go {da : Word} {y : CtDesc × List Nat} (ha : da.toNat % 64 = 0) (ho : outside da.toNat 64 = none)
    (hq : s.thread.quiet = true) (hl : s.ctLoad s.curId da v = .ok y)
    (hs : (s.ct s.curCluster (ctIndex s.curId v)).st ≠ .active) : s.ctsetCheck da v = .go := by
  simp [State.ctsetCheck, ha, ho, hq, hl, hs]

end

theorem ctLoad_marks (s : State) (i : Instr) (t : Nat) (da v : Word) : (s.marks i).ctLoad t da v = s.ctLoad t da v := rfl

theorem exec_ctset (e : DOp) (s : State) : exec (.ctset e) s =
    issueSlot (.ctset e) (fun u => u.ctsetCheck (u.readD e 0) (u.readD e 1))
      (fun u => match u.ctLoad u.curId (u.readD e 0) (u.readD e 1) with
        | .error _ => u
        | .ok (d, rs) => u.modCt u.curCluster (ctIndex u.curId (u.readD e 1)) fun _ => d.entry rs) s := rfl

theorem exec_ctready (a : SOp) (s : State) : exec (.ctready a) s =
    issueSlot (.ctready a)
      (fun u => ((u.handleCheck (u.readS a &&& 0xFFFF)).andThen (u.ctCheck (u.readS a))).andThen (u.ctIdle (u.readS a)))
      (fun u => u.ctready (u.readS a)) s := rfl

theorem exec_ctwait (a : SOp) (s : State) : exec (.ctwait a) s =
    issueSlot (.ctwait a) (fun u => (u.ctCheck (u.readS a)).andThen (u.ctIdle (u.readS a))) (fun u => u) s := rfl

theorem exec_ctabort (a : SOp) (s : State) : exec (.ctabort a) s =
    issueSlot (.ctabort a) (fun u => u.ctCheck (u.readS a))
      (fun u => u.ctAbort u.curCluster (ctIndex u.curId (u.readS a)) 5 true true) s := rfl

theorem does_of_ctset (e : DOp) (x : CtDesc) (rs : List Nat) : Does (.ctset e)
    (fun u => (u.readD e 0).toNat % 64 = 0 ∧ outside (u.readD e 0).toNat 64 = none ∧ u.thread.quiet = true ∧
      u.ctLoad u.curId (u.readD e 0) (u.readD e 1) = .ok (x, rs) ∧
      (u.ct u.curCluster (ctIndex u.curId (u.readD e 1))).st ≠ .active)
    (fun u => u.modCt u.curCluster (ctIndex u.curId (u.readD e 1)) fun _ => x.entry rs) := by
  refine does_of_issueSlot_where (exec_ctset e) (fun s ⟨ha, ho, hq, hl, hs⟩ => ctsetCheck_go ha ho hq hl hs)
    (fun s ⟨ha, ho, hq, hl, hs⟩ => ⟨ha, ho, hq, (ctLoad_marks s _ _ _ _).trans hl, hs⟩) fun s ⟨_, _, _, hl, _⟩ => ?_
  simp only [hl]

/-- Settles O20: by the state of the entry, which an IDLE one passes and a FREE or an ACTIVE one stops. -/
theorem collectiveSlots : Obligations.CollectiveSlots := by
  refine fun a e x rs => ⟨does_of_ctset e x rs, ?ready, ?wait, ?waits, ?abort, ?readyFree, ?readyStale, ?waitFree, ?abortFree⟩
  case ready =>
    refine does_of_issueSlot (exec_ctready a) fun s ⟨hm, hb, hi⟩ => ?_
    exact andThen_go (andThen_go (handleCheck_go hm hb) (ctCheck_go (by simp [hi]))) (ctIdle_go (by simp [hi]))
  case wait =>
    exact does_of_issueSlot (exec_ctwait a) fun s hi => andThen_go (ctCheck_go (by simp [hi])) (ctIdle_go (by simp [hi]))
  case waits =>
    exact waits_of_issueSlot (exec_ctwait a) fun s ha => (andThen_eq_go (ctCheck_go (by simp [ha]))).trans (ctIdle_of_active ha)
  case abort => exact does_of_issueSlot (exec_ctabort a) fun s hf => ctCheck_go hf
  case readyFree =>
    exact faults_of_issueSlot (exec_ctready a) fun s ⟨hm, hb, hf⟩ =>
      andThen_faultAt ((andThen_eq_go (handleCheck_go hm hb)).trans (ctCheck_of_free hf))
  case readyStale =>
    exact faults_of_issueSlot (exec_ctready a) fun s hm => andThen_faultAt (andThen_faultAt (handleCheck_of_stale hm))
  case waitFree => exact faults_of_issueSlot (exec_ctwait a) fun s hf => andThen_faultAt (ctCheck_of_free hf)
  case abortFree => exact faults_of_issueSlot (exec_ctabort a) fun s hf => ctCheck_of_free hf

end Sys2Proof.Machine
end

section
/-! The links of a module and the modules of its ring (R350 to R354, R395): what a change of the links and a change of
RINGST.LOST leave, then the events. -/

namespace Sys2Proof.Machine

/-- Two changes of the module's own part that agree on it as it stands. -/
theorem State.modMod_congr {s : State} {f g : Mod → Mod} (h : f s.modl = g s.modl) : s.modMod f = s.modMod g := by
  rw [State.modMod, h, State.modMod]

theorem getElem?_modNth {α : Type} (l : List α) (k : Nat) (f : α → α) : (modNth l k f)[k]? = l[k]?.map f := by
  rw [modNth, List.getElem?_map, List.getElem?_zipIdx]
  cases l[k]? <;> simp

section
variable (s : State)

/-- The health vectors are records of the host alone (R378). -/
theorem recordsOnly_healthAll : RecordsOnly s s.healthAll :=
  recordsOnly_foldl _ _ (fun s v => recordsOnly_raise s v 3) s

theorem modLinks_links (f : List LinkDir → List LinkDir) : (s.modLinks f).modl.links = f s.modl.links := by
  unfold State.modLinks
  dsimp only
  split
  · rfl
  · obtain ⟨b, m, h⟩ := (recordsOnly_healthAll (s.modMod fun m => { m with links := f m.links })).modl
    rw [h]
    rfl

/-- A direction that a change of the links names. -/
theorem modLinks_modNth {k : Nat} {d : LinkDir} (f : LinkDir → LinkDir) (h : s.modl.links[k]? = some d) :
    (s.modLinks fun l => modNth l k f).modl.links[k]? = some (f d) := by
  rw [modLinks_links, getElem?_modNth, h, Option.map_some]

theorem setLost_modl (w : BitVec 16) : (s.setLost w).modl.lost = w ∧ (s.setLost w).modl.sinceSilent = s.modl.sinceSilent := by
  by_cases hw : w = s.modl.lost
  · rw [State.setLost, if_pos hw]
    exact ⟨hw.symm, rfl⟩
  · obtain ⟨b, m, h⟩ := (recordsOnly_foldl (fun (u : State) (e : Nat × Part) => u.raise e.1 3)
      (s.parts.filter fun e => e.2.domain != 0) (fun u e => recordsOnly_raise u e.1 3)
      (s.modMod fun m => { m with lost := w, oldRoute := m.outRack.length })).modl
    rw [State.setLost, if_neg hw]
    exact h ▸ ⟨rfl, rfl⟩

end

section
variable {s : State} {p : BitVec 4}

/-! ### Silence and loss (R353) -/

theorem exec_silenceDetect_of_neighbour (hn : s.modl.neighbour p = true) (hi : s.modl.isolated &&& posBit p = 0) :
    exec (.silenceDetect p) s =
      .next (((s.modMod fun m => { m with isolated := m.isolated ||| posBit p, notices := m.notices ++ [p] }).setLost
        (s.modl.lost ||| posBit p)).answerLost p.toNat) :=
  congrArg Host.Outcome.next (if_pos ⟨hn, hi⟩)

theorem exec_lossNotice_of_lost (h : s.modl.lost &&& posBit p ≠ 0) : exec (.lossNotice p) s = .next s :=
  congrArg Host.Outcome.next (if_pos h)

/-- The first notice of a position; one that names the module itself begins its silence. -/
theorem exec_lossNotice_of_first (h : s.modl.lost &&& posBit p = 0) : exec (.lossNotice p) s =
    .next (((s.modMod fun m => { m with sinceSilent := if p = m.pos then false else m.sinceSilent }).setLost
      (s.modl.lost ||| posBit p)).answerLost p.toNat) :=
  congrArg Host.Outcome.next (if_neg (not_not_intro h))

/-! ### Joining (R354) -/

theorem exec_rejoinCommand_of_other (h : p ≠ s.modl.pos) : exec (.rejoinCommand p) s =
    .next (s.modMod fun m => { m with rejoining := m.rejoining ||| posBit p }) :=
  congrArg Host.Outcome.next (if_neg h)

/-- The module at its own rejoining, when the partitions vs have been halted. -/
def State.rejoined (s : State) (p : BitVec 4) (vs : List Nat) : State :=
  let w := vs.foldl (fun u v => (u.haltPartition v).modPart v fun q => { q with halt := true, haltDone := true })
    (s.modMod fun m => { m with rejoining := m.rejoining ||| posBit p })
  (w.modMod fun m => { m with
    joins := m.joins ++ [p]
    sinceSilent := false
    rejoining := m.rejoining &&& ~~~posBit p }).setLost (w.modl.lost &&& ~~~posBit p)

theorem exec_rejoinCommand_of_self (h : p = s.modl.pos) :
    exec (.rejoinCommand p) s = .next (s.rejoined p s.rejoinHalts) :=
  congrArg Host.Outcome.next (if_pos h)

theorem rejoinHalts_of_reset (h : s.modl.sinceSilent = true) : s.rejoinHalts = [] := if_pos h

theorem rejoinHalts_of_not_reset (h : s.modl.sinceSilent = false) :
    s.rejoinHalts = (s.parts.filter fun e => e.2.domain != 0).map Prod.fst :=
  if_neg (Bool.eq_false_iff.mp h)

theorem exec_linkRetrainComplete_port (h : s.modl.rejoining &&& posBit p ≠ 0) : exec (.linkRetrainComplete (.port p)) s =
    .next (s.modMod fun m =>
      { m with isolated := m.isolated &&& ~~~posBit p, rejoining := m.rejoining &&& ~~~posBit p }) :=
  congrArg Host.Outcome.next (if_neg h)

end

/-- Settles O37: each event by its case; a change of the links or of LOST beside the interrupts that it raises. -/
theorem fabricEvents : Obligations.FabricEvents := by
  intro s p link tx n
  refine ⟨exec_silenceDetect_of_neighbour, fun hl hp => ?lossOther, fun hl hp => ?lossSelf, setLost_modl s,
    exec_lossNotice_of_lost, exec_rejoinCommand_of_other, fun hp hr => ?rejoinReset, fun hp hr => ?rejoinSilent, ⟨_, rfl,
    (setLost_modl s _).1⟩, ⟨_, rfl, fun d hd => ?laneFailure⟩, rfl, ⟨_, rfl, fun d hd => ?retrained⟩,
    exec_linkRetrainComplete_port⟩
  case lossOther =>
    rw [exec_lossNotice_of_first hl, State.modMod_congr (g := fun m => m) (by simp [hp])]
    rfl
  case lossSelf =>
    rw [exec_lossNotice_of_first hl, State.modMod_congr (g := fun m => { m with sinceSilent := false }) (by simp [hp])]
  case rejoinReset =>
    rw [exec_rejoinCommand_of_self hp, rejoinHalts_of_reset hr]
    rfl
  case rejoinSilent =>
    rw [exec_rejoinCommand_of_self hp, rejoinHalts_of_not_reset hr]
    rfl
  case laneFailure => exact ⟨_, modLinks_modNth s _ hd, rfl, rfl⟩
  case retrained => exact modLinks_modNth s _ hd

end Sys2Proof.Machine
end

section
/-! Bring-up, scrubbing, repair, throttling and the thermal stop (R389, R392 to R397). -/

namespace Sys2Proof.Machine

section
variable {s : State}

/-! ### Bring-up (R389, R396) -/

/-- The machine after a power-on: everything at its reset value but the module's own part and the counters of the schedule
(log entry 3). -/
def State.poweredOn (s : State) (m : Mod) : State :=
  { State.reset with turns := s.turns, turnNo := s.turnNo, choice := s.choice, nextId := s.nextId, modl := m }

theorem exec_powerOn (b : BringUp) (s : State) : exec (.powerOn b) s =
    .next (s.poweredOn (if b.verified = true then { strapped b with up := true, links := b.lanes.map trainedDir }
      else { strapped b with bootFailed := true })) := rfl

/-! ### Scrubbing (R393, R394) -/

theorem exec_scrub_of_bad {w : Nat} (h : Place.hbm w ∈ s.modl.bad) :
    exec (.scrub (.hbm w)) s = .next (s.schedule (.row (rowOfWordNo w))) :=
  congrArg Host.Outcome.next (if_pos (List.contains_iff_mem.mpr h))

theorem exec_scrub_of_whole {p : Place} (h : p ∉ s.modl.bad) : exec (.scrub p) s = .next s := by
  cases p with
  | hbm w => exact congrArg Host.Outcome.next (if_neg (mt List.contains_iff_mem.mp h))
  | _ => rfl

/-! ### Repair (R394) -/

section
variable {r : RepairOf}

theorem exec_repair_of_scheduled (hr : r ∈ s.modl.repairs) (hm : s.mayRepair (repairCluster r) = true) :
    exec (.repair r) s = .next (if !s.spareLeft r then
        s.modMod fun m => { m with reports := if m.reports.contains r then m.reports else r :: m.reports }
      else ((s.performRepair r).modMod fun m => { m with repairs := m.repairs.filter (· != r) }).settleOwner
        (repairCluster r)) :=
  congrArg Host.Outcome.next (if_neg (by simp [hr, hm]))

theorem exec_repair_of_busy (h : s.mayRepair (repairCluster r) = false) : exec (.repair r) s = .next s :=
  congrArg Host.Outcome.next (if_pos (.inr (by simp [h])))

theorem mem_reported (l : List RepairOf) : r ∈ if l.contains r then l else r :: l := by
  split
  · exact List.contains_iff_mem.mp ‹_›
  · exact List.mem_cons_self

end

end

/-- Settles O41: a power-on by the checks of bring-up, a scrub by the damage, a repair by what is left of the spares. -/
theorem healthEvents : Obligations.HealthEvents := by
  intro s b r w p straps fresh
  refine ⟨fun hb => ?verified, fun hb => ?failed, exec_scrub_of_bad, exec_scrub_of_whole, fun hr hm hl => ?repaired, fun
    hr hm hl => ?reported, exec_repair_of_busy, rfl, rfl, rfl⟩
  case verified =>
    rw [exec_powerOn, if_pos hb]
    rfl
  case failed =>
    rw [exec_powerOn, if_neg (Bool.eq_false_iff.mp hb)]
    rfl
  case repaired =>
    rw [exec_repair_of_scheduled hr hm, hl]
    rfl
  case reported =>
    rw [exec_repair_of_scheduled hr hm, hl]
    exact ⟨_, rfl, mem_reported s.modl.reports⟩

end Sys2Proof.Machine
end

section
/-! The physical function's controls and commands of a partition (R382 to R388). -/

namespace Sys2Proof.Machine

/-- Two changes of a partition that agree on it as it stands. -/
theorem State.modPart_congr {s : State} {v : Nat} {f g : Part → Part} (h : f (s.part v) = g (s.part v)) :
    s.modPart v f = s.modPart v g := by
  rw [State.modPart, h, State.modPart]

theorem Part.rwl_of_unlocked {p : Part} (h : p.lock = false) (f : Part → Part) : p.rwl f = f p :=
  if_neg (Bool.eq_false_iff.mp h)

section
variable {s : State} {v : BitVec 6} {c : BitVec 9} (hup : s.modl.up = true)
include hup

/-- The physical function acts once the module is up (R389). -/
theorem viaPf_of_up (f : State → State) : s.viaPf f = f s := if_pos hup

/-! ### EN, OFFLINE, LOCK (R382, R385) -/

theorem exec_pctlEnSet_of_complete (he : (s.part v.toNat).en = false) (hn : 8 ≤ (s.part v.toNat).map.length)
    (ht : (s.part v.toNat).ownsRange (s.part v.toNat).tableBase 0x80000 = true)
    (hf : (s.part v.toNat).ownsRange (s.part v.toNat).fqBase (32 * (s.part v.toNat).fqSize) = true) :
    exec (.pctlEnSet v) s = .next ((s.dropTlbs v.toNat).modPart v.toNat fun p => { p with en := true, fqDrop := 0 }) :=
  congrArg Host.Outcome.next ((viaPf_of_up hup _).trans (if_neg (by simp [he, ht, hf, hn])))

theorem exec_pctlEnSet_of_small (hn : (s.part v.toNat).map.length < 8) : exec (.pctlEnSet v) s = .next s :=
  congrArg Host.Outcome.next ((viaPf_of_up hup _).trans (if_pos (.inr (.inl hn))))

theorem exec_pctlEnClear_of_idle (he : (s.part v.toNat).en = true) (hl : s.liveLaunch v.toNat = false) :
    exec (.pctlEnClear v) s =
      .next (((s.part v.toNat).map.foldl (fun u c => u.leaveCluster v c) s).modPart v.toNat fun p =>
        { p with en := false, lock := false, busy := false }) :=
  congrArg Host.Outcome.next ((viaPf_of_up hup _).trans (if_neg (by simp [he, hl])))

theorem exec_pctlEnClear_of_live (hl : s.liveLaunch v.toNat = true) : exec (.pctlEnClear v) s = .next s :=
  congrArg Host.Outcome.next ((viaPf_of_up hup _).trans (if_pos (.inr hl)))

/-! ### ADD and REMOVE (R384) -/

theorem exec_pcmdAdd_of_idle (hb : (s.part v.toNat).busy = false) : exec (.pcmdAdd v c) s =
    .next (if (s.part v.toNat).map.length ≥ 64 then s.pcmdResult v.toNat 2
      else if (s.cluster c.toNat).owner.isSome then s.pcmdResult v.toNat 1
      else (((((s.zeroCluster c.toNat).modCluster c.toNat fun k => { k with owner := some v }).modPart v.toNat fun p =>
        { p with map := p.map ++ [c], layout := p.layout + 1 }).dropTlbs v.toNat).settleRpend v).pcmdResult v.toNat 0) :=
  congrArg Host.Outcome.next ((viaPf_of_up hup _).trans (if_neg (Bool.eq_false_iff.mp hb)))

theorem exec_pcmdRemove_of_idle (hb : (s.part v.toNat).busy = false) (hm : (s.part v.toNat).map ≠ []) :
    exec (.pcmdRemove v) s =
      .next (if (s.part v.toNat).en ∧ (s.part v.toNat).map.length = 8 then s.pcmdResult v.toNat 3
        else s.modPart v.toNat fun p => { p with busy := true, since := s.cycle }) :=
  congrArg Host.Outcome.next ((viaPf_of_up hup _).trans (if_neg (by simp [hb, hm])))

/-! ### The domain (R8, R382, R388) -/

theorem exec_domainWrite_of_named (hl : (s.part v.toNat).lock = false) (x : Word) : exec (.domainWrite v x true) s =
    .next (s.modPart v.toNat fun p => { p with domain := x.setWidth 16 }) :=
  congrArg Host.Outcome.next ((viaPf_of_up hup _).trans ((if_pos rfl).trans (State.modPart_congr (Part.rwl_of_unlocked hl _))))

end

/-! ### The end of a REMOVE (R2, R384) -/

section
variable {s : State} {v : BitVec 6} {c : BitVec 9} (hb : (s.part v.toNat).busy = true)
  (hc : (s.part v.toNat).map.getLast? = some c)
include hb hc

theorem exec_removeDrain_of_drained (hd : s.clusterDrained v.toNat c.toNat = true) : exec (.removeDrain v) s =
    .next (if (s.part v.toNat).en ∧ (s.part v.toNat).map.length = 8 then s.pcmdResult v.toNat 3
      else (s.leaveCluster v c).pcmdResult v.toNat 0) := by
  simp only [exec, execRemoveDrain, hc]
  exact congrArg Host.Outcome.next (if_neg (by simp [hb, hd]))

theorem exec_removeTimeout_of_late (ht : (s.part v.toNat).since + 1050000000 ≤ s.cycle) : exec (.removeTimeout v) s =
    .next (if s.clusterDrained v.toNat c.toNat = true then s else s.pcmdResult v.toNat 4) := by
  simp only [exec, execRemoveTimeout, hc, hb, ht, Option.any_some, true_and, Bool.not_eq_true']
  cases s.clusterDrained v.toNat c.toNat <;> rfl

end

/-- Settles O39: once the module is up, each control and each command by its conditions, in their order. -/
theorem partitionEvents : Obligations.PartitionEvents := by
  intro s v c x on hup p
  refine ⟨exec_pctlEnSet_of_complete hup, fun _ => exec_pctlEnSet_of_small hup, exec_pctlEnClear_of_idle hup,
    exec_pctlEnClear_of_live hup, congrArg _ (viaPf_of_up hup _), congrArg _ (viaPf_of_up hup _), fun hb hn ho => ?added,
    fun hb hn ho => ?owned, fun hb hn => ?full, fun hb he hn => ?refused, fun hb hm hn => ?waits, fun hb hc hd => ⟨fun hn
    => ?removed, fun he hn => ?enabledSince⟩, fun hb ht hc => ⟨fun hd => ?timedOut, fun hd => ?drained⟩, congrArg _
    (viaPf_of_up hup _), fun hl => exec_domainWrite_of_named hup hl x, congrArg _ (viaPf_of_up hup _)⟩
  case added =>
    rw [exec_pcmdAdd_of_idle hup hb, if_neg (not_le.mpr hn), ho]
    rfl
  case owned =>
    rw [exec_pcmdAdd_of_idle hup hb, if_neg (not_le.mpr hn), if_pos ho]
    rfl
  case full =>
    rw [exec_pcmdAdd_of_idle hup hb, if_pos hn]
    rfl
  case refused =>
    have hm : (s.part v.toNat).map ≠ [] := List.length_pos_iff.mp (by rw [hn]; decide)
    rw [exec_pcmdRemove_of_idle hup hb hm, if_pos ⟨he, hn⟩]
    rfl
  case waits => rw [exec_pcmdRemove_of_idle hup hb hm, if_neg hn]
  case removed =>
    rw [exec_removeDrain_of_drained hb hc hd, if_neg hn]
    rfl
  case enabledSince =>
    rw [exec_removeDrain_of_drained hb hc hd, if_pos ⟨he, hn⟩]
    rfl
  case timedOut =>
    rw [exec_removeTimeout_of_late hb hc ht, hd]
    rfl
  case drained => rw [exec_removeTimeout_of_late hb hc ht, if_pos hd]

end Sys2Proof.Machine
end

section
/-! What the host does through a virtual function (R374 to R383, R389, R390), and its register writes. -/

namespace Sys2Proof.Machine

/-- When a virtual function serves the host (R383, R389). -/
theorem vfUsable_iff (s : State) (v : Nat) : s.vfUsable v = true ↔ s.modl.up = true ∧ s.modl.vfEnable = true ∧
    v < s.modl.numVfs.toNat ∧ (s.part v).en = true := by
  simp [State.vfUsable, State.vfExists, and_assoc]

section
variable {s : State} {v : Nat} (h : s.vfUsable v = true)
include h

theorem viaVf_of_usable (f : State → State) : s.viaVf v f = f s := if_pos h

theorem next_viaVf_of_usable {f : State → State} {t : State} (ht : f s = t) :
    Host.Outcome.next (s.viaVf v f) = (.next t : Result) :=
  congrArg _ ((viaVf_of_usable h f).trans ht)

end

theorem viaVf_of_unusable {s : State} {v : Nat} (h : s.vfUsable v = false) (f : State → State) : s.viaVf v f = s :=
  if_neg (Bool.eq_false_iff.mp h)

/-! ### The mailbox and the fault queue (R376, R377, R379) -/

section
variable {p : Part} {x : Word}

theorem Part.enqueue_of_room (h : p.inbox.length < 8) : p.enqueue x =
    { p with inbox := p.inbox ++ [⟨vget p.mbin 0, vget p.mbin 1, vget p.mbin 2, x⟩] } :=
  if_neg (not_le.mpr h)

theorem Part.enqueue_of_full (h : 8 ≤ p.inbox.length) : p.enqueue x = { p with mbOvf := true } := if_pos h

theorem Part.writeCons_of_fits (h : (p.fqProd - x.setWidth 32).toNat ≤ p.fqSize) :
    p.writeCons x = { p with fqCons := x.setWidth 32 } := if_pos h

theorem Part.writeXlinv_of_bit (h : x.getLsbD 0 = true) : p.writeXlinv x = { p with xlinv := true } := if_pos h

theorem Part.writeAttctl_of_start (h : x.getLsbD 0 = true) : p.writeAttctl x =
    { p with attBuf := x &&& 0xFFFFFFF000, attTo := attBuffer x, attBusy := p.ownsRange (attBuffer x) 4096 } :=
  if_pos h

theorem Part.writeAttctl_of_buffer (h : x.getLsbD 0 = false) : p.writeAttctl x = { p with attBuf := x &&& 0xFFFFFFF000 } :=
  if_neg (Bool.eq_false_iff.mp h)

end

section
variable {s : State} {v : Nat}

/-- A change of a partition that keeps whether it is enabled and which context it names keeps which one each context serves. -/
theorem partOfSeq_modPart {f : Part → Part} (he : (f (s.part v)).en = (s.part v).en)
    (hn : (f (s.part v)).seqNo = (s.part v).seqNo) (q : Nat) : (s.modPart v f).partOfSeq q = s.partOfSeq q := by
  have h (w : Nat) : ((s.modPart v f).part w).en = (s.part w).en ∧ ((s.modPart v f).part w).seqNo = (s.part w).seqNo := by
    by_cases hw : w = v
    · rw [hw, State.part_modPart_self]
      exact ⟨he, hn⟩
    · rw [State.part_modPart_ne _ _ _ _ hw]
      exact ⟨rfl, rfl⟩
  simp only [State.partOfSeq, (h _).1, (h _).2]

theorem seqCtx_modPart (f : Part → Part) (q : Nat) : (s.modPart v f).seqCtx q = s.seqCtx q := rfl

theorem seqNo_popped : ((s.modPart v fun p => { p with outbox := p.outbox.drop 1 }).part v).seqNo = (s.part v).seqNo := by
  rw [State.part_modPart_self]
  rfl

theorem writeMbpop_of_none (h : (s.seqCtx (s.part v).seqNo).done = none) :
    s.writeMbpop v = s.modPart v fun p => { p with outbox := p.outbox.drop 1 } := by
  simp only [State.writeMbpop, seqNo_popped, seqCtx_modPart, h]

/-- A done record that waited for a place follows the head that has left. -/
theorem writeMbpop_of_waiting {d : DoneRec} (h : (s.seqCtx (s.part v).seqNo).done = some d)
    (hs : s.partOfSeq (s.part v).seqNo = some v) :
    s.writeMbpop v = (s.modPart v fun p => { p with outbox := p.outbox.drop 1 }).doneRecord (s.part v).seqNo d := by
  have hp := (partOfSeq_modPart (s := s) (v := v) (f := fun p => { p with outbox := p.outbox.drop 1 }) rfl rfl _).trans hs
  simp only [State.writeMbpop, seqNo_popped, seqCtx_modPart, h, hp, if_true]

/-! ### LCUT (R380) -/

/-- What an LCUT that asks a cut must name: a RUNNING launch of the context that serves the partition, with a save area. -/
def State.mayCut (s : State) (v : Nat) (x : Word) : Prop :=
  x.toNat / 2 ^ 16 = 1 ∧ slotNo x < 16 ∧ s.isServed v = true ∧ (s.lslot v (slotNo x)).st = .running ∧
    (s.lslot v (slotNo x)).gen = x.extractLsb' 8 8 ∧ (s.lslot v (slotNo x)).save.isSome = true

theorem extractLsb'_high_eq_one_iff (x : Word) : x.extractLsb' 16 48 = 1 ↔ x.toNat / 2 ^ 16 = 1 := by
  have hx := x.isLt
  rw [← BitVec.toNat_inj, BitVec.extractLsb'_toNat, Nat.shiftRight_eq_div_pow]
  change x.toNat / 2 ^ 16 % 2 ^ 48 = 1 ↔ _
  omega

/-- The refusals of R380, taken together. -/
theorem not_mayCut_iff {x : Word} : ¬s.mayCut v x ↔ x.extractLsb' 16 48 ≠ 1 ∨ slotNo x > 15 ∨ !s.isServed v ∨
    (s.lslot v (slotNo x)).st ≠ .running ∨ (s.lslot v (slotNo x)).gen ≠ x.extractLsb' 8 8 ∨
      (s.lslot v (slotNo x)).save.isNone := by
  have hk : slotNo x > 15 ↔ ¬slotNo x < 16 := by omega
  have hsv : (s.lslot v (slotNo x)).save.isNone = true ↔ ¬(s.lslot v (slotNo x)).save.isSome = true := by simp
  rw [State.mayCut, ne_eq, extractLsb'_high_eq_one_iff, hk, hsv, Bool.not_eq_true']
  simp only [not_and_or, Bool.not_eq_true, ne_eq]

theorem writeLcut_of_mayCut {x : Word} (h : s.mayCut v x) : s.writeLcut v x =
    if (s.lslot v (slotNo x)).cut.isSome then s else s.requestCut v (slotNo x) 2 :=
  if_neg (mt not_mayCut_iff.mpr (not_not_intro h))

theorem writeLcut_of_not_mayCut {x : Word} (h : ¬s.mayCut v x) :
    s.writeLcut v x = s.modPart v fun p => { p with cutRej := true } :=
  if_pos (not_mayCut_iff.mp h)

end

/-! ### Translations and attestation (R205, R381, R390) -/

section
variable {s : State} {v : BitVec 6}

theorem exec_attestationReport_of_busy (hb : (s.part v.toNat).attBusy = true) : exec (.attestationReport v) s =
    .next ((if (s.part v.toNat).ownsRange (s.part v.toNat).attTo 4096 then
        s.hbmWrite (s.part v.toNat).attTo (s.attReport v.toNat) else s).modPart v.toNat fun p =>
      { p with attBusy := false }) :=
  congrArg Host.Outcome.next (if_pos hb)

/-! ### BAR2 (R375, R383) -/

theorem exec_hostBar2Write_of_mapped {off : BitVec 37} {bs : List Byte} {ps : List (Nat × Nat)}
    (hu : s.vfUsable v.toNat = true) (h : (s.part v.toNat).bar2 off.toNat bs.length = some ps) :
    exec (.hostBar2Write v off bs) s =
      .next ((ps.foldl (fun (y : State × List Byte) q => (y.1.hbmWrite q.1 (y.2.take q.2), y.2.drop q.2)) (s, bs)).1) := by
  simp only [exec, execHostBar2Write, hu, h, if_true]

theorem exec_hostBar2Read_of_usable {off : BitVec 37} {n : Nat} (hu : s.vfUsable v.toNat = true) :
    exec (.hostBar2Read v off n) s =
      .next (s.complete (((s.part v.toNat).bar2 off.toNat n).map fun ps => ps.flatMap fun q => readBytes s.hbm q.1 q.2)) := by
  simp only [exec, execHostBar2Read, hu, if_true]
  cases (s.part v.toNat).bar2 off.toNat n <;> rfl

theorem exec_hostBar2_of_unusable (hu : s.vfUsable v.toNat = false) (off : BitVec 37) (bs : List Byte) (n : Nat) :
    exec (.hostBar2Write v off bs) s = .next (s.complete none) ∧
      exec (.hostBar2Read v off n) s = .next (s.complete none) := by
  simp only [exec, execHostBar2Write, execHostBar2Read, hu, Bool.false_eq_true, if_false, and_self]

end

/-- Settles O38: through a function that serves, each event is the write of its register, by the cases of that write. -/
theorem virtualFunctionEvents : Obligations.VirtualFunctionEvents := by
  intro s v x bs off n ps d hu p
  have hcut (hx : x.toNat / 2 ^ 16 = 1) (hk : slotNo x < 16) (hs : s.isServed v.toNat = true)
      (hr : (s.lslot v.toNat (slotNo x)).st = .running) (hg : (s.lslot v.toNat (slotNo x)).gen = x.extractLsb' 8 8)
      (ha : (s.lslot v.toNat (slotNo x)).save.isSome = true) := writeLcut_of_mayCut ⟨hx, hk, hs, hr, hg, ha⟩
  refine ⟨fun hl => ?mailRoom, fun hl => ?mailFull, fun hd => ?popAlone, fun hd hs => ?popWaiting, fun hf => ?consumed,
    next_viaVf_of_usable hu rfl, fun hx hk hs hr hg ha hc => ?cut, fun hx hk hs hr hg ha hc => ?cutPending, fun hc =>
    ?cutRejected, fun hx => ?invalidate, exec_xlinvDone_of_started, fun hx => ?attStart, fun hx => ?attBuffer, fun hb ho
    => ?reportOwned, fun hb ho => ?reportForeign, exec_hostBar2Write_of_mapped hu, fun hp => ?readMapped, fun hp =>
    ?readUnmapped⟩
  case mailRoom => exact next_viaVf_of_usable hu (State.modPart_congr (Part.enqueue_of_room hl))
  case mailFull => exact next_viaVf_of_usable hu (State.modPart_congr (Part.enqueue_of_full hl))
  case popAlone => exact next_viaVf_of_usable hu (writeMbpop_of_none hd)
  case popWaiting => exact next_viaVf_of_usable hu (writeMbpop_of_waiting hd hs)
  case consumed => exact next_viaVf_of_usable hu (State.modPart_congr (Part.writeCons_of_fits hf))
  case cut =>
    refine next_viaVf_of_usable hu ((hcut hx hk hs hr hg ha).trans ?_)
    rw [hc]
    rfl
  case cutPending =>
    exact next_viaVf_of_usable hu ((hcut hx hk hs hr hg ha).trans (if_pos (Option.isSome_iff_ne_none.mpr hc)))
  case cutRejected =>
    refine next_viaVf_of_usable hu (writeLcut_of_not_mayCut fun ⟨hx, hk, hs, hr, hg, ha⟩ => ?_)
    rcases hc with h | h | h | h | h | h
    · exact h hx
    · omega
    · exact h hr
    · simp [h] at hs
    · exact h hg
    · simp [h] at ha
  case invalidate => exact next_viaVf_of_usable hu (State.modPart_congr (Part.writeXlinv_of_bit hx))
  case attStart => exact next_viaVf_of_usable hu (State.modPart_congr (Part.writeAttctl_of_start hx))
  case attBuffer => exact next_viaVf_of_usable hu (State.modPart_congr (Part.writeAttctl_of_buffer hx))
  case reportOwned => rw [exec_attestationReport_of_busy hb, if_pos ho]
  case reportForeign => rw [exec_attestationReport_of_busy hb, if_neg (Bool.eq_false_iff.mp ho)]
  case readMapped => rw [exec_hostBar2Read_of_usable hu, hp, Option.map_some]
  case readUnmapped => rw [exec_hostBar2Read_of_usable hu, hp, Option.map_none]

/-! ### Register writes of the two functions (R376, R382) -/

theorem viaPf_of_down {s : State} (h : s.modl.up = false) (f : State → State) : s.viaPf f = s :=
  if_neg (Bool.eq_false_iff.mp h)

theorem vfRead_of_unusable {s : State} {v : Nat} (h : s.vfUsable v = false) (off : Nat) : s.vfRead v off = 0 :=
  if_pos (by simp [h])

theorem exec_registerWrite_numVfs_of_up {s : State} {x : Word} (hup : s.modl.up = true) (hx : x.toNat ≤ 64) :
    exec (.registerWrite .numVfs x) s = .next (s.modMod fun m => { m with numVfs := x }) := by
  refine congrArg Host.Outcome.next ((viaPf_of_up hup _).trans ?_)
  rw [Nat.min_eq_right hx, BitVec.ofNat_toNat, BitVec.setWidth_eq]

/-- Settles O40: through a function that serves, or through the physical one of a module that is up, the write of the
register at that offset; else nothing. -/
theorem hostRegisterWrites : Obligations.HostRegisterWrites := by
  refine ⟨fun s v x => ⟨fun hu => ⟨?_, ?_, ?_⟩, fun hup => ?_, fun hup => ?_, fun hup => ?_, fun hd off => ⟨?_, ?_, ?_, ?_⟩,
    vfUsable_iff s v.toNat, exec_registerWrite_numVfs_of_up⟩, fun s v x off a bs n hu =>
    ⟨vfRead_of_unusable hu _, ?_, exec_hostBar2_of_unusable hu a bs n⟩⟩
  iterate 3 exact next_viaVf_of_usable hu rfl
  iterate 3 exact congrArg Host.Outcome.next (viaPf_of_up hup _)
  iterate 4 exact congrArg Host.Outcome.next (viaPf_of_down hd _)
  rintro i (rfl | rfl | rfl | rfl | rfl | rfl | rfl | rfl)
  all_goals exact congrArg Host.Outcome.next (viaVf_of_unusable hu _)

end Sys2Proof.Machine
end
